-- ==== Sys2Proof/Word.lean ====
section
/-! DEFINITION. The words of SACD-CORE: bytes of a stream, 32-bit command words, 64-bit response values
and the two IEEE 754 formats (00_scope.md R11, R12; 30_encoding.md R140). -/

namespace Sys2Proof

/-- A byte of a byte stream or of a named buffer (20_memory.md R100). -/
abbrev Byte := BitVec 8

/-- A command word (30_encoding.md R141), and every 32-bit register. -/
abbrev Word := BitVec 32

/-- The `value` of a response record (30_encoding.md R144). -/
abbrev Value := BitVec 64

/-- The bit pattern of an IEEE 754 binary64 value (00_scope.md R11). -/
abbrev F64 := BitVec 64

/-- The bit pattern of an IEEE 754 binary32 value (00_scope.md R11). -/
abbrev F32 := BitVec 32

end Sys2Proof
end

