-- ==== Sys2Proof/Config.lean ====
section
/-! DEFINITION. The configuration record of 00_scope.md R9, each parameter a field with the default the spec gives it,
the configuration of the machine, and the FREE VALUES: opaque constants without a body for what the spec leaves open
(93_implementation_defined.md). -/

namespace Sys2Proof.Config

/-! ## Free values -/

/-- Raw free value behind `nSlots` (93_implementation_defined.md U1). -/
opaque nSlotsRaw : Nat

/-- What a register of width `w` holds after a value `v` that does not fit is written to it: the spec says every
width is enough (91_not_in_source.md N6) and states no value. DESIGN CHOICE: free, assumption log 3. -/
opaque misfit (w v : Nat) : BitVec w

/-- What byte `i` of a buffer that nothing has written reads as ("unspecified", 70_reset_and_hazards.md R701,
93_implementation_defined.md U4). DESIGN CHOICE: free, assumption log 5. -/
opaque unspecByte : Nat → Byte

/-- What element `i` of `PCMBUF` that nothing has written reads as (U4). Assumption log 5. -/
opaque unspecSample : Nat → F32

/-- Raw free value behind the coefficient table `COEF(K, pcm)` (U2). Assumption log 2. -/
opaque coefRaw : Nat → Nat → Nat → F64

/-- Raw free value behind the cut-off `FC_NORM(K, pcm)` (U2). Assumption log 2. -/
opaque fcNormRaw : Nat → Nat → Nat × Nat

/-- The payload of a binary64 NaN, which IEEE 754 leaves open; no run reaches a NaN (45_dsd_pcm.md R396).
Assumption log 19. -/
opaque nanPayload64 : BitVec 51

/-- The payload of a binary32 NaN. Assumption log 19. -/
opaque nanPayload32 : BitVec 22

/-- The integer a NaN rounds to in the packer; no run reaches a NaN (R396). Assumption log 19. -/
opaque packNaN : F32 → Int

/-- The info word of `CorruptContainer` when the 92-byte DSF header is read short: 46_fx_files.md R465 names "the
offset of the field" and a short read fails no field. DESIGN CHOICE: free, assumption log 14. -/
opaque dsfShortInfo : Nat → Value

/-! ## The configuration record (00_scope.md R9) -/

/-- A field of a disc table: the offset of its first byte and how many bytes it has (47_fx_sector.md R503). -/
structure DiscField where
  offset : Nat
  bytes : Nat
  deriving DecidableEq, Repr

/-- The disc table layouts (47_fx_sector.md R503): the fields of the three tables and the values accepted there. The
fields that R503 marks as ignored or not used are named too; no rule reads them. -/
structure DiscTables where
  /-- The identifier that begins each of the three tables. -/
  magic : DiscField := ⟨0, 8⟩
  /-- Master TOC and area TOC: the major version, and the newest one accepted. -/
  version : DiscField := ⟨8, 1⟩
  newestVersion : Nat := 1
  /-- Master TOC: `area_1_toc_1_start`, `area_2_toc_1_start`. -/
  area1Start : DiscField := ⟨64, 4⟩
  area2Start : DiscField := ⟨72, 4⟩
  /-- Master TOC: `area_1_toc_size`, `area_2_toc_size`. -/
  area1Size : DiscField := ⟨84, 2⟩
  area2Size : DiscField := ⟨86, 2⟩
  /-- Master TOC, not read: the minor version and the second copies. -/
  minorVersion : DiscField := ⟨9, 1⟩
  area1Start2 : DiscField := ⟨68, 4⟩
  area2Start2 : DiscField := ⟨76, 4⟩
  /-- Area TOC: the `sample_frequency` code, and the code of 2822400 Hz, the only one accepted. -/
  sampleFrequency : DiscField := ⟨20, 1⟩
  frequencyCode : Nat := 4
  /-- Area TOC: the byte whose low 4 bits are `frame_format`, and the formats accepted. -/
  frameFormat : DiscField := ⟨21, 1⟩
  frameFormats : List Nat := [0, 2, 3]
  /-- Area TOC: `channel_count`, `track_count`. -/
  channelCount : DiscField := ⟨32, 1⟩
  trackCount : DiscField := ⟨69, 1⟩
  /-- Area TOC, not read: its own size, `track_offset`, `track_start`, `track_end`. -/
  areaTocSize : DiscField := ⟨10, 2⟩
  trackOffset : DiscField := ⟨68, 1⟩
  trackStart : DiscField := ⟨72, 4⟩
  trackEnd : DiscField := ⟨76, 4⟩
  /-- Track list: `track_start_lsn[i]`, `track_length_lsn[i]`. -/
  trackStartLsn : Nat → DiscField := fun i => ⟨8 + 4 * i, 4⟩
  trackLengthLsn : Nat → DiscField := fun i => ⟨1028 + 4 * i, 4⟩

/-- The parameters of the block (00_scope.md R9), with their defaults. The two without a default are the open
parameters `N_SLOTS` and `FC_NORM`. -/
structure Parameters where
  /-- `CH`, 1 to 6. -/
  chMin : Nat := 1
  chMax : Nat := 6
  /-- `DSD_RATE`. -/
  dsdRates : List Nat := [2822400, 5644800, 11289600, 22579200]
  /-- The DSD rate of `K = 1`. -/
  dsdRateBase : Nat := 2822400
  /-- `K`, the DSD order of a rate: `DSD_RATE / 2822400`. -/
  dsdOrder : Nat → Nat := fun rate => rate / dsdRateBase
  /-- `FRAME_RATE`, 75 Hz. -/
  frameRate : Nat := 75
  /-- `PCM_RATE`. -/
  pcmRates : List Nat := [88200, 96000, 176400, 192000]
  /-- `FB`, bytes per channel per frame of a rate: `DSD_RATE / 8 / FRAME_RATE`. -/
  frameBytes : Nat → Nat := fun rate => rate / 8 / frameRate
  /-- `B`, bits per channel per frame of `FB` bytes: `8·FB`. -/
  frameBits : Nat → Nat := fun fb => 8 * fb
  /-- `SPF`, output samples per channel per frame of a PCM rate: `PCM_RATE / 75`. -/
  samplesPerFrame : Nat → Nat := fun pcm => pcm / frameRate
  /-- `MAX_SEGS`. -/
  maxSegs : Nat := 8
  /-- `MIN_FSEG_BITS`. -/
  minFsegBits : Nat := 1024
  /-- `MIN_PSEG_BITS`. -/
  minPsegBits : Nat := 32
  /-- `N_RICE_METHODS`. -/
  nRiceMethods : Nat := 3
  /-- `MAX_CPRED_ORDER`. -/
  maxCpredOrder : Nat := 3
  /-- `PBITS`. -/
  pbits : Nat := 8
  /-- `AC_REG_WIDTH`. -/
  acRegWidth : Nat := 32
  /-- `MAX_READ_BITS`. -/
  maxReadBits : Nat := 32
  /-- `MAX_DSDBYTES_INFRAME`, per channel (90_conflicts.md C8). -/
  maxDsdBytesInFrame : Nat := 18816
  /-- `TAPS_DEC(K)`. -/
  tapsDec : Nat → Nat := fun k => 574 * k + 1
  /-- `TAPS_RES(K, div)`. -/
  tapsRes : Nat → Nat → Nat := fun k div => 2878 * k * div + 1
  /-- `DITHER_DEPTH` default. -/
  ditherDepth : Nat := 24
  /-- `PCM_MAX`, `PCM_MIN` (90_conflicts.md C5). -/
  pcmMax : Int := 8388607
  pcmMin : Int := -8388608
  /-- `SECTOR_LSN`, `SECTOR_PSN`, `PSN_HEADER`. -/
  sectorLsn : Nat := 2048
  sectorPsn : Nat := 2064
  psnHeader : Nat := 12
  /-- `DSF_MASTER_CHUNK`. -/
  dsfMasterChunk : Nat := 28
  /-- `DSF_BLOCK` in the source's scenario. The machine takes the block size of a file from its header (46_fx_files.md
  R465), so no rule reads this one. -/
  dsfBlock : Nat := 4096
  /-- `N_SLOTS`, open. -/
  nSlots : Nat
  /-- `WARN_THRESHOLD` reset value. -/
  warnThreshold : Nat := 8
  /-- `SIZE_CODEDPREDORDER`, `SIZE_PREDCOEF`, `SIZE_RICEMETHOD`, `SIZE_RICEM`, `AC_HISBITS`, `AC_QSTEP`, `NBITS`. -/
  sizeCodedPredOrder : Nat := 7
  sizePredCoef : Nat := 9
  sizeRiceMethod : Nat := 2
  sizeRiceM : Nat := 3
  acHisBits : Nat := 6
  acQstep : Nat := 3
  nbits : Nat := 4
  /-- `MAX_TABLES(CH)`, for the filters and for the Ptables. -/
  maxTables : Nat → Nat := fun ch => 2 * ch
  /-- `DSD_SILENCE_BYTE` reset value. -/
  silence : Byte := 0x69
  /-- `2·FC_NORM(K, pcm)` as numerator and denominator, open. -/
  fcNorm : Nat → Nat → Nat × Nat
  /-- `LCG_A`, `LCG_C`, `DITHER_SEED`. -/
  lcgA : Word := 1664525
  lcgC : Word := 1013904223
  ditherSeed : Word := 0
  /-- `SIGN_FROM_BIT15` (43_dst_residual.md R311; assumption log 4). -/
  signFromBit15 : Bool := false
  /-- `MTOC_LSN` (20_memory.md R108) and the disc table layouts. -/
  mtocLsn : Nat := 510
  discTables : DiscTables := {}

/-- The configuration of the machine: the defaults, with the open parameters free. `N_SLOTS` is at least 1
(44_dst_pool.md R340) and at most 255, since register `N_SLOTS` is 8 bits wide (10_state.md R52): DEDUCED bound,
assumption log 1. `2·FC_NORM` is any rational strictly between 0 and 1 (45_dsd_pcm.md R375 (d); assumption log 2). -/
def parameters : Parameters where
  nSlots := nSlotsRaw % 255 + 1
  fcNorm := fun k pcm => ((fcNormRaw k pcm).1 + 1, (fcNormRaw k pcm).1 + (fcNormRaw k pcm).2 + 2)

/-! ## The parameters by name -/

def chMin : Nat := parameters.chMin
def chMax : Nat := parameters.chMax
def dsdRates : List Nat := parameters.dsdRates
def dsdRateBase : Nat := parameters.dsdRateBase
def dsdOrder (rate : Nat) : Nat := parameters.dsdOrder rate
def frameRate : Nat := parameters.frameRate
def pcmRates : List Nat := parameters.pcmRates
def frameBytes (rate : Nat) : Nat := parameters.frameBytes rate
def frameBits (fb : Nat) : Nat := parameters.frameBits fb
def samplesPerFrame (pcm : Nat) : Nat := parameters.samplesPerFrame pcm
def maxSegs : Nat := parameters.maxSegs
def minFsegBits : Nat := parameters.minFsegBits
def minPsegBits : Nat := parameters.minPsegBits
def nRiceMethods : Nat := parameters.nRiceMethods
def maxCpredOrder : Nat := parameters.maxCpredOrder
def pbits : Nat := parameters.pbits
def acRegWidth : Nat := parameters.acRegWidth
def maxReadBits : Nat := parameters.maxReadBits
def maxDsdBytesInFrame : Nat := parameters.maxDsdBytesInFrame
def tapsDec (k : Nat) : Nat := parameters.tapsDec k
def tapsRes (k div : Nat) : Nat := parameters.tapsRes k div
def ditherDepthReset : Nat := parameters.ditherDepth
def pcmMax : Int := parameters.pcmMax
def pcmMin : Int := parameters.pcmMin
def sectorBytes : Nat := parameters.sectorLsn
def sectorPsn : Nat := parameters.sectorPsn
def psnHeader : Nat := parameters.psnHeader
def dsfMasterChunk : Nat := parameters.dsfMasterChunk
def dsfBlock : Nat := parameters.dsfBlock
def nSlots : Nat := parameters.nSlots
def warnThresholdReset : BitVec 16 := BitVec.ofNat 16 parameters.warnThreshold
def sizeCodedPredOrder : Nat := parameters.sizeCodedPredOrder
def sizePredCoef : Nat := parameters.sizePredCoef
def sizeRiceMethod : Nat := parameters.sizeRiceMethod
def sizeRiceM : Nat := parameters.sizeRiceM
def acHisBits : Nat := parameters.acHisBits
def acQstep : Nat := parameters.acQstep
def nbits : Nat := parameters.nbits
def maxTables (ch : Nat) : Nat := parameters.maxTables ch
def silenceReset : Byte := parameters.silence
def fcNorm (k pcm : Nat) : Nat × Nat := parameters.fcNorm k pcm
def lcgA : Word := parameters.lcgA
def lcgC : Word := parameters.lcgC
def ditherSeed : Word := parameters.ditherSeed
def signFromBit15 : Bool := parameters.signFromBit15
def mtocLsn : Nat := parameters.mtocLsn
def discTables : DiscTables := parameters.discTables

/-! ## What follows from the parameters -/

/-- `FB` of the DSD order `K`, `4704·K` (R9). -/
def orderFrameBytes (k : Nat) : Nat := frameBytes (k * dsdRateBase)
/-- `ABITS = PBITS + NBITS` (41_arith_decoder.md R220). -/
def abits : Nat := pbits + nbits
/-- `IN_CAP`, the capacity of a slot's `inbuf` (10_state.md R60). -/
def inCap : Nat := chMax * maxDsdBytesInFrame + 1
/-- `OUT_CAP`, the capacity of a slot's `outbuf` (10_state.md R63): a frame of the fastest rate. -/
def outCap : Nat := chMax * frameBytes 22579200
/-- `PCM_CAP`, samples per channel of `PCMBUF` (10_state.md R86). -/
def pcmCap : Nat := samplesPerFrame 192000 + 1
/-- Largest DSF block size (10_state.md R71). -/
def dsfMaxBlock : Nat := 65536
/-- Register `ID`, the ASCII bytes "SACD" (10_state.md R52). -/
def idValue : Word := 0x53414344
/-- Reset value of register `DST_FB` (10_state.md R52). -/
def dstFbReset : Nat := 4704

end Sys2Proof.Config
end

