-- ==== Sys2Proof/Syntax.lean ====
section
/-! DEFINITION. The instructions: one constructor per row of spec/opcode_table.json. The 37 command words of
30_encoding.md R143 with the operand fields of R141 as plain numbers, and the two first-byte patterns of a DST frame
(R151), which the agent of a decode slot fetches. -/

namespace Sys2Proof

/-- The instructions of SACD-CORE (30_encoding.md R143, R151). -/
inductive Instr where
  /-- `NOP` (0x00, Z). -/
  | nop
  /-- `RESET` (0x01, Z). -/
  | reset
  /-- `OPEN kind` (0x02, A). -/
  | openMedium (kind : Nat)
  /-- `INIT_TRACK track, area, pcm` (0x03, ABC). -/
  | initTrack (track area pcm : Nat)
  /-- `DECODE_NEXT` (0x04, Z). -/
  | decodeNext
  /-- `CLOSE` (0x05, Z). -/
  | close
  /-- `RDREG idx` (0x06, A). -/
  | rdreg (idx : Nat)
  /-- `WRREG idx, imm16` (0x07, AI16). -/
  | wrreg (idx imm16 : Nat)
  /-- `SET_TRACK track, area` (0x10, AB). -/
  | setTrack (track area : Nat)
  /-- `READ_FRAME` (0x11, Z). -/
  | readFrame
  /-- `SEEK frame` (0x12, I24). -/
  | seek (frame : Nat)
  /-- `GET_CHANNELS` (0x13, Z). -/
  | getChannels
  /-- `GET_SAMPLERATE` (0x14, Z). -/
  | getSamplerate
  /-- `GET_FRAMERATE` (0x15, Z). -/
  | getFramerate
  /-- `GET_PROGRESS` (0x16, Z). -/
  | getProgress
  /-- `POOL_INIT ch` (0x20, A). -/
  | poolInit (ch : Nat)
  /-- `SUBMIT size` (0x21, I24). -/
  | submit (size : Nat)
  /-- `SUBMIT_DSD size` (0x22, I24). -/
  | submitDsd (size : Nat)
  /-- `COLLECT handle` (0x23, I24). -/
  | collect (handle : Nat)
  /-- `DST_DECODE` (0x24, Z). -/
  | dstDecode
  /-- `SLOT_READ` (0x25, Z). -/
  | slotRead
  /-- `BR_LOAD size` (0x30, I24). -/
  | brLoad (size : Nat)
  /-- `BR_READ_BIT` (0x31, Z). -/
  | brReadBit
  /-- `BR_READ_BITS n` (0x32, A). -/
  | brReadBits (n : Nat)
  /-- `BR_READ_SIGNED n` (0x33, A). -/
  | brReadSigned (n : Nat)
  /-- `BR_READ_BYTE_ALIGNED` (0x34, Z). -/
  | brReadByteAligned
  /-- `BR_RICE m` (0x35, A). -/
  | brRice (m : Nat)
  /-- `AC_START` (0x40, Z). -/
  | acStart
  /-- `AC_DECODE p, flush` (0x41, AB). -/
  | acDecode (p flush : Nat)
  /-- `AC_QUANTIZE len, pred` (0x42, AI16); `pred` is the raw 16-bit field. -/
  | acQuantize (len pred : Nat)
  /-- `PC_INIT ch, dsd, pcm` (0x50, ABC). -/
  | pcInit (ch dsd pcm : Nat)
  /-- `PC_CONVERT size` (0x51, I24). -/
  | pcConvert (size : Nat)
  /-- `PC_GET_DELAY` (0x52, Z). -/
  | pcGetDelay
  /-- `PC_IS_CONVERT_CALLED` (0x53, Z). -/
  | pcIsConvertCalled
  /-- `PC_DEGIBBS side, n` (0x54, AI16). -/
  | pcDegibbs (side n : Nat)
  /-- `PC_PACK skip, count` (0x55, SC). -/
  | pcPack (skip count : Nat)
  /-- `PC_READF` (0x56, Z). -/
  | pcReadf
  /-- `DSTF.CODED`: a DST frame whose first byte is `1xxxxxxx` (R151); `x` is its low 7 bits. -/
  | dstfCoded (x : Nat)
  /-- `DSTF.PLAIN`: a DST frame whose first byte is `0x000000` (R151); `x` is the ignored dummy bit. -/
  | dstfPlain (x : Nat)
  deriving DecidableEq, Repr

end Sys2Proof
end

