-- ==== Sys2Proof/Machine/State.lean ====
section
/-! DEFINITION. The state of SACD-CORE as plain data (10_state.md), its value right after reset (70_reset_and_hazards.md
R701), and the reasons a step can stop. -/

namespace Sys2Proof.Machine

/-! ## The named sets of values -/

/-- The session state `sess` (10_state.md R50). -/
inductive Sess where
  | closed | opened | track | drained
  deriving DecidableEq, Repr

/-- The frame type tag (30_encoding.md R147). -/
inductive FrameType where
  | dsd | dst | invalid
  deriving DecidableEq, Repr

/-- `dstate`, the state of a slot's frame decoder (10_state.md R62, 43_dst_residual.md R313). -/
inductive DState where
  | idle | readHeader | readFilterTables | readPtables | decodeResiduals | reconstruct | done | failed
  deriving DecidableEq, Repr

/-- `slot_state` (10_state.md R63). -/
inductive SlotState where
  | free | busy | done
  deriving DecidableEq, Repr

/-- `fx_kind` (10_state.md R70). -/
inductive FxKind where
  | none | sector | dsdiff | dsf
  deriving DecidableEq, Repr

/-- The exception codes of 60_exceptions.md R601; `ok` is the absence of one. -/
inductive Exc where
  | ok | eIllegal | eOperand | eState | eOrder
  | outOfData | frameDecodeError | badRead | bufferOverflow
  | unsupportedFormat | corruptContainer
  deriving DecidableEq, Repr

/-- The sub-causes of a `FrameDecodeError` (60_exceptions.md R605); `none` is the value 0 of `slot_cause`. -/
inductive Cause where
  | none | stuffing | segCount | segResolution | segLength | tableNumber | tableCount | mapMismatch
  | riceMethod | riceOrder | coefRange | ptableRange | acFirstBit | acTermination | outOfData | bitBudget
  | bufferOverflow | frameSize
  deriving DecidableEq, Repr

/-! ## A decode slot (10_state.md R60 to R63) -/

/-- A segmentation (10_state.md R62, 42_dst_header.md R252): the resolution in bytes and, for each channel, the
explicit segment lengths; `nsegs[ch]` is one more than their number. -/
structure Segmentation where
  resolution : Nat
  seglen : List (List Nat)
  deriving DecidableEq, Repr

/-- The BitReader of a slot (10_state.md R60). `inbuf` lists the bytes from index 0; a byte past the list is one that
nothing has written. -/
structure BitReader where
  inbuf : List Byte
  totalBits : Nat
  pos : Nat
  brErr : Bool
  deriving DecidableEq, Repr

/-- The arithmetic decoder of a slot (10_state.md R61). -/
structure ArithDec where
  a : Word
  c : Word
  cbptr : Nat
  acBase : Nat
  acLen : Nat
  acInit : Bool
  deriving DecidableEq, Repr

/-- The frame decoder of a slot (10_state.md R62). A filter is its list of coefficients (so `predorder` is the list's
length), a Ptable its list of entries (`ptablelen` is the length), a predictor history the list of its taps, most
recent first, `true` for the value +1. -/
structure FrameDec where
  dstate : DState
  fseg : Segmentation
  pseg : Segmentation
  ftab : List (List Nat)
  ptab : List (List Nat)
  nfilters : Nat
  nptables : Nat
  halfprob : List Bool
  coef : List (List Int)
  pone : List (List Int)
  hist : List (List Bool)
  bitnr : Nat
  chnr : Nat
  nbitsDecoded : Nat
  deriving DecidableEq, Repr

/-- A decode slot: its BitReader, arithmetic decoder, frame decoder and bookkeeping (10_state.md R60 to R63). -/
structure Slot where
  slotState : SlotState
  slotSeq : Word
  slotKind : FrameType
  slotStatus : Exc
  slotCause : Cause
  outSize : Nat
  br : BitReader
  ac : ArithDec
  fd : FrameDec
  outbuf : List Byte
  deriving DecidableEq, Repr

/-! ## The pool and its ring (10_state.md R64, R66) -/

/-- The pool's channel count and frame size, and the ring. -/
structure Pool where
  dstCh : Nat
  dstFb : Nat
  head : Nat
  tail : Nat
  ringCount : Nat
  submitSeq : Word
  collectSeq : Word
  draining : Bool
  deriving DecidableEq, Repr

/-! ## The frame extractor (10_state.md R70 to R73) -/

/-- One area of a disc (10_state.md R73). -/
structure Area where
  tocLsn : Nat
  tocSize : Nat
  tracks : Nat
  ch : Nat
  fmt : Nat
  rate : Nat
  trlLsn : Nat
  deriving DecidableEq, Repr

/-- A packet descriptor of an audio sector (10_state.md R73, 47_fx_sector.md R510). -/
structure Packet where
  frameStart : Bool
  dataType : Nat
  length : Nat
  deriving DecidableEq, Repr

/-- The DSF reader's state (10_state.md R71). -/
structure Dsf where
  blockSize : Nat
  lsb : Bool
  sampleCount : Nat
  chtype : Nat
  blockbuf : List Byte
  pos : Nat
  blkGroup : Nat
  blkValid : Bool
  blkBad : Bool
  deriving DecidableEq, Repr

/-- The DSDIFF reader's state (10_state.md R72). -/
structure Dff where
  dstiOff : Nat
  dstiCount : Nat
  frameBytes : Nat
  frteCount : Nat
  deriving DecidableEq, Repr

/-- The disc-sector reader's state (10_state.md R73). -/
structure Sec where
  psn : Bool
  area1 : Area
  area2 : Area
  trackStartLsn : Nat
  trackLenLsn : Nat
  curLsn : Nat
  secbuf : List Byte
  pktCount : Nat
  fiCount : Nat
  secDst : Bool
  pkt : List Packet
  pktIdx : Nat
  bufOff : Nat
  asmBuf : List Byte
  asmSize : Nat
  asmStarted : Bool
  asmDst : Bool
  deriving DecidableEq, Repr

/-- The frame extractor: the common fields of 10_state.md R70 and the three readers. -/
structure Fx where
  kind : FxKind
  ch : Nat
  rate : Nat
  dst : Bool
  frameIndex : Nat
  frameTotal : Nat
  eot : Bool
  badReads : Word
  cursor : Nat
  dataStart : Nat
  dataEnd : Nat
  trackCount : Nat
  curTrack : Nat
  curArea : Nat
  trackSelected : Bool
  dsf : Dsf
  dff : Dff
  sec : Sec
  deriving DecidableEq, Repr

/-! ## The converter (10_state.md R80 to R86) -/

/-- A non-negative rational, held exactly (10_state.md R84). -/
structure Frac where
  num : Nat
  den : Nat
  deriving DecidableEq, Repr

/-- The converter. `hist` holds, for each channel, the input samples since `PC_INIT`, newest first, `true` for +1.0
and `false` for −1.0 (R82). -/
structure Pc where
  ch : Nat
  t : Nat
  d : Nat
  u : Nat
  resample : Bool
  k : Nat
  spf : Nat
  h : List F64
  hist : List (List Bool)
  rxCount : Nat
  outCount : Nat
  lcg : Word
  delay : Frac
  delayClamped : Frac
  pcmOutDelta : Nat
  fadeLen : Nat
  convertCalled : Bool
  pcmBuf : List F32
  pcmN : Nat
  deriving DecidableEq, Repr

/-! ## The ports (30_encoding.md R140) -/

/-- A response record (30_encoding.md R144). -/
structure Response where
  status : BitVec 8
  value : Value
  deriving DecidableEq, Repr

/-- How the medium answers one `MediumRead` (20_memory.md R106; 93_implementation_defined.md U5): with its own bytes,
or with the bytes given here, of which the first `n` count. -/
inductive MediumAnswer where
  | faithful
  | bytes (bs : List Byte)
  deriving DecidableEq, Repr

/-! ## The state -/

/-- The state of SACD-CORE. The fields from `cmd` on are the ports and the model's own bookkeeping of the outside
(assumption log 6, 7, 8, 11, 13). -/
structure State where
  sess : Sess
  ch : Nat
  dsdRate : Nat
  k : Nat
  pcmRate : Nat
  errCount : Word
  warnThreshold : BitVec 16
  slotSel : Nat
  ditherDepth : Nat
  ditherSeedLo : BitVec 16
  ditherSeedHi : BitVec 16
  silence : Byte
  lastError : Word
  stuck : Bool
  slots : List Slot
  pool : Pool
  fx : Fx
  pc : Pc
  cmd : List Word
  din : List Byte
  dout : List Byte
  rsp : List Response
  rst : Bool
  medium : List Host.Cell
  mediumSize : BitVec 64
  answers : List MediumAnswer
  held : Option Instr
  turns : List Nat
  deriving DecidableEq, Repr

/-! ## Reset (70_reset_and_hazards.md R701) -/

/-- An empty segmentation (R701: unspecified, rebuilt before use; assumption log 5). -/
def Segmentation.reset : Segmentation := { resolution := 0, seglen := [] }

/-- The frame decoder after reset: `Idle`, everything else 0 or empty (10_state.md R62). -/
def FrameDec.reset : FrameDec :=
  { dstate := .idle, fseg := .reset, pseg := .reset, ftab := [], ptab := [], nfilters := 0, nptables := 0,
    halfprob := [], coef := [], pone := [], hist := [], bitnr := 0, chnr := 0, nbitsDecoded := 0 }

/-- A slot after reset (10_state.md R60 to R63, R95). -/
def Slot.reset : Slot :=
  { slotState := .free, slotSeq := 0, slotKind := .dsd, slotStatus := .ok, slotCause := .none, outSize := 0,
    br := { inbuf := [], totalBits := 0, pos := 0, brErr := false },
    ac := { a := 0, c := 0, cbptr := 0, acBase := 0, acLen := 0, acInit := true },
    fd := .reset, outbuf := [] }

/-- The pool after reset (10_state.md R64, R66). -/
def Pool.reset : Pool :=
  { dstCh := 0, dstFb := Config.dstFbReset, head := 0, tail := 0, ringCount := 0, submitSeq := 0, collectSeq := 0,
    draining := false }

/-- An area that is absent (10_state.md R73). -/
def Area.reset : Area := { tocLsn := 0, tocSize := 0, tracks := 0, ch := 0, fmt := 0, rate := 0, trlLsn := 0 }

/-- The extractor after reset (10_state.md R70 to R73). -/
def Fx.reset : Fx :=
  { kind := .none, ch := 0, rate := 0, dst := false, frameIndex := 0, frameTotal := 0, eot := false, badReads := 0,
    cursor := 0, dataStart := 0, dataEnd := 0, trackCount := 0, curTrack := 0, curArea := 0, trackSelected := false,
    dsf := { blockSize := 0, lsb := false, sampleCount := 0, chtype := 0, blockbuf := [], pos := 0, blkGroup := 0,
             blkValid := false, blkBad := false },
    dff := { dstiOff := 0, dstiCount := 0, frameBytes := 0, frteCount := 0 },
    sec := { psn := false, area1 := .reset, area2 := .reset, trackStartLsn := 0, trackLenLsn := 0, curLsn := 0,
             secbuf := [], pktCount := 0, fiCount := 0, secDst := false, pkt := [], pktIdx := 0, bufOff := 0,
             asmBuf := [], asmSize := 0, asmStarted := false, asmDst := false } }

/-- The rational 0. -/
def Frac.zero : Frac := { num := 0, den := 1 }

/-- The converter after reset (10_state.md R80 to R86). -/
def Pc.reset : Pc :=
  { ch := 0, t := 0, d := 0, u := 0, resample := false, k := 0, spf := 0, h := [], hist := [], rxCount := 0,
    outCount := 0, lcg := 0, delay := .zero, delayClamped := .zero, pcmOutDelta := 0, fadeLen := 0,
    convertCalled := false, pcmBuf := [], pcmN := 0 }

/-- The machine right after reset (70_reset_and_hazards.md R700, R701): no command queued, no medium presented. -/
def State.reset : State :=
  { sess := .closed, ch := 0, dsdRate := 0, k := 0, pcmRate := 0, errCount := 0,
    warnThreshold := Config.warnThresholdReset, slotSel := 0, ditherDepth := Config.ditherDepthReset,
    ditherSeedLo := Config.ditherSeed.setWidth 16, ditherSeedHi := (Config.ditherSeed >>> 16).setWidth 16,
    silence := Config.silenceReset, lastError := 0, stuck := false,
    slots := [], pool := .reset, fx := .reset, pc := .reset,
    cmd := [], din := [], dout := [], rsp := [], rst := false, medium := [], mediumSize := 0, answers := [],
    held := none, turns := [] }

/-! ## How a step can stop -/

/-- The faults of the model. The block itself has none: its exceptions end a command with a status (60_exceptions.md
R613) and are next states here. -/
inductive Fault where
  /-- Raised by `AC_DECODE` when the interval `A` becomes 0, so that "the loop would not end" (41_arith_decoder.md
  R223). No run from reset reaches it (`A` is at least 8 after a decode). Safe: the hardware would hang. -/
  | renormalisationDiverges
  deriving DecidableEq, Repr

/-- The refusals of the model. -/
inductive Refusal where
  /-- Raised by `exec` for an instruction that has no meaning yet; `mnemonic` is its row of the opcode table. Safe. -/
  | notModelled (mnemonic : String)
  deriving DecidableEq, Repr

end Sys2Proof.Machine
end

