-- ==== Sys2Proof/Machine/Flags.lean ====
section
/-! DEFINITION. The numeric codes of the named sets and the composition of `STATUS` and `warn` (10_state.md R50, R53,
R62, R63, R70; 60_exceptions.md R601, R605, R615). -/

namespace Sys2Proof.Machine

/-- The 2-bit code of `sess` (10_state.md R50). -/
def Sess.code : Sess → Nat
  | .closed => 0
  | .opened => 1
  | .track => 2
  | .drained => 3

/-- The code of a frame type tag (30_encoding.md R147). -/
def FrameType.code : FrameType → Nat
  | .dsd => 0
  | .dst => 1
  | .invalid => 2

/-- The 3-bit code of `dstate` (10_state.md R62). -/
def DState.code : DState → Nat
  | .idle => 0
  | .readHeader => 1
  | .readFilterTables => 2
  | .readPtables => 3
  | .decodeResiduals => 4
  | .reconstruct => 5
  | .done => 6
  | .failed => 7

/-- The 2-bit code of `slot_state` (10_state.md R63). -/
def SlotState.code : SlotState → Nat
  | .free => 0
  | .busy => 1
  | .done => 2

/-- The 2-bit code of `fx_kind` (10_state.md R70). -/
def FxKind.code : FxKind → Nat
  | .none => 0
  | .sector => 1
  | .dsdiff => 2
  | .dsf => 3

/-- The exception codes (60_exceptions.md R601). -/
def Exc.code : Exc → Nat
  | .ok => 0x00
  | .eIllegal => 0x01
  | .eOperand => 0x02
  | .eState => 0x03
  | .eOrder => 0x04
  | .outOfData => 0x10
  | .frameDecodeError => 0x11
  | .badRead => 0x12
  | .bufferOverflow => 0x13
  | .unsupportedFormat => 0x20
  | .corruptContainer => 0x21

/-- The numbers of the sub-causes (60_exceptions.md R605). -/
def Cause.code : Cause → Nat
  | .none => 0
  | .stuffing => 1
  | .segCount => 2
  | .segResolution => 3
  | .segLength => 4
  | .tableNumber => 5
  | .tableCount => 6
  | .mapMismatch => 7
  | .riceMethod => 8
  | .riceOrder => 9
  | .coefRange => 10
  | .ptableRange => 11
  | .acFirstBit => 12
  | .acTermination => 13
  | .outOfData => 14
  | .bitBudget => 15
  | .bufferOverflow => 16
  | .frameSize => 17

/-- `warn = 1` exactly when `ERR_COUNT > WARN_THRESHOLD` (60_exceptions.md R615). -/
def State.warn (s : State) : Bool := s.warnThreshold.toNat < s.errCount.toNat

/-- The fields `br_err`, `ac_init` and `slot_state` of `STATUS` for a slot; a `BUSY` slot shows 0 for the first two
(48_session.md R560). -/
def slotStatusBits (sl : Slot) : Nat :=
  if sl.slotState = .busy then SlotState.busy.code * 2 ^ 16
  else sl.br.brErr.toNat * 2 ^ 4 + sl.ac.acInit.toNat * 2 ^ 5 + sl.slotState.code * 2 ^ 16

/-- `STATUS`, composed at the time of the read (10_state.md R53, 48_session.md R560; assumption log 9), with the
selected slot given. -/
def State.statusWord (s : State) (sl : Slot) : Nat :=
  s.sess.code + s.warn.toNat * 2 ^ 2 + s.pc.convertCalled.toNat * 2 ^ 3 + slotStatusBits sl
    + s.fx.kind.code * 2 ^ 6 + s.pool.ringCount % 2 ^ 8 * 2 ^ 8 + s.fx.eot.toNat * 2 ^ 18

end Sys2Proof.Machine
end

