-- ==== Sys2Proof/Machine/Memory.lean ====
section
/-! DEFINITION. Byte memories in canonical form: a list of (address, byte) pairs, addresses strictly rising, no entry
equal to what an unlisted address reads as. The medium (20_memory.md R100 (1), R106) is held in this form. -/

namespace Sys2Proof.Machine

/-- A byte memory (assumption log 6). -/
abbrev Memory := List Host.Cell

/-- What an address that is not listed reads as (assumption log 6). -/
def Memory.unlisted : Byte := 0

/-- The byte at an address. -/
def Memory.read : Memory → Nat → Byte
  | [], _ => Memory.unlisted
  | (k, v) :: m, a => if k = a then v else Memory.read m a

/-- Writing a byte keeps the canonical form: writing what an unlisted address reads as removes the entry. -/
def Memory.write : Memory → Nat → Byte → Memory
  | [], a, v => if v = Memory.unlisted then [] else [(a, v)]
  | (k, w) :: m, a, v =>
    if a < k then (if v = Memory.unlisted then (k, w) :: m else (a, v) :: (k, w) :: m)
    else if a = k then (if v = Memory.unlisted then m else (a, v) :: m)
    else (k, w) :: Memory.write m a v

/-- Writing a run of bytes from an address on. -/
def Memory.writeRun : Memory → Nat → List Byte → Memory
  | m, _, [] => m
  | m, a, b :: bs => Memory.writeRun (Memory.write m a b) (a + 1) bs

/-- Every address listed is at least `lo`, addresses rise strictly, no entry is an unlisted byte. -/
def Memory.wfFrom : Nat → Memory → Bool
  | _, [] => true
  | lo, (k, v) :: m => lo ≤ k && v != Memory.unlisted && Memory.wfFrom (k + 1) m

/-- The canonical form. -/
def Memory.wf (m : Memory) : Bool := Memory.wfFrom 0 m

/-- `n` bytes from address `a` on, of a memory that lists nothing below `a`. -/
def Memory.runFrom : Nat → Nat → Memory → List Byte
  | 0, _, _ => []
  | n + 1, _, [] => Memory.unlisted :: Memory.runFrom n 0 []
  | n + 1, a, (k, v) :: m =>
    if k = a then v :: Memory.runFrom n (a + 1) m else Memory.unlisted :: Memory.runFrom n (a + 1) ((k, v) :: m)

/-- The `n` bytes from address `a` on. -/
def Memory.run (m : Memory) (a n : Nat) : List Byte := Memory.runFrom n a (m.dropWhile (fun c => c.1 < a))

end Sys2Proof.Machine
end

