-- ==== Sys2Proof/Machine/Bits.lean ====
section
/-! DEFINITION. Bits of a byte stream, integers of a byte string, field widths and buffers (00_scope.md R12, R13;
20_memory.md R101, R102; 10_state.md R76). -/

namespace Sys2Proof.Machine

/-- `bitlen(x)`: the least `y` with `x < 2^y` (00_scope.md R13). -/
def bitlen (x : Nat) : Nat := if x = 0 then 0 else Nat.log2 x + 1

/-- Bit `k` of a byte in stream order: bit 0 is the most significant (20_memory.md R101). -/
def byteBit (b : Byte) (k : Nat) : Bool := b.toNat.testBit (7 - k)

/-- Byte `i` of a buffer; a byte nothing has written is unspecified (70_reset_and_hazards.md R701). -/
def bufByte (buf : List Byte) (i : Nat) : Byte := buf.getD i (Config.unspecByte i)

/-- `n` bytes of a buffer whose rest from index `i` on is given; bytes past its end are unspecified. -/
def bufTake : Nat → Nat → List Byte → List Byte
  | 0, _, _ => []
  | n + 1, i, [] => Config.unspecByte i :: bufTake n (i + 1) []
  | n + 1, i, b :: bs => b :: bufTake n (i + 1) bs

/-- The bytes `buf[i .. i + n − 1]`. -/
def bufBytes (buf : List Byte) (i n : Nat) : List Byte := bufTake n i (buf.drop i)

/-- Stream bit `i` of a buffer: `(buf[i div 8] >> (7 − (i mod 8))) & 1` (20_memory.md R101). -/
def streamBit (buf : List Byte) (i : Nat) : Bool := byteBit (bufByte buf (i / 8)) (i % 8)

/-- The number `n` stream bits from bit `i` on stand for, first bit most significant, appended to `v`
(40_bitreader.md R202). -/
def streamBits (buf : List Byte) : Nat → Nat → Nat → Nat
  | 0, _, v => v
  | n + 1, i, v => streamBits buf n (i + 1) (2 * v + (streamBit buf i).toNat)

/-- `SWAP[b]`: bit `i` is bit `7 − i` of `b` (10_state.md R76). -/
def swapByte (b : Byte) : Byte := b.reverse

/-- `sext_n(v)`: the `n`-bit value `v` read as two's complement (00_scope.md R13). -/
def sext (n v : Nat) : Int := if v < 2 ^ (n - 1) then (v : Int) else (v : Int) - (2 ^ n : Nat)

/-- The integer of a byte string, most significant byte first (20_memory.md R102). -/
def beNat (bs : List Byte) : Nat := bs.foldl (fun acc b => acc * 256 + b.toNat) 0

/-- The integer of a byte string, least significant byte first (20_memory.md R102). -/
def leNat (bs : List Byte) : Nat := bs.foldr (fun b acc => acc * 256 + b.toNat) 0

/-- The `n` bytes from index `i` on. -/
def slice (bs : List Byte) (i n : Nat) : List Byte := (bs.drop i).take n

/-- The big-endian field of `n` bytes at index `i`. -/
def beField (bs : List Byte) (i n : Nat) : Nat := beNat (slice bs i n)

/-- The little-endian field of `n` bytes at index `i`. -/
def leField (bs : List Byte) (i n : Nat) : Nat := leNat (slice bs i n)

/-- The `n` low bytes of `v`, least significant first (30_encoding.md R153). -/
def leBytes : Nat → Nat → List Byte
  | 0, _ => []
  | n + 1, v => BitVec.ofNat 8 v :: leBytes n (v / 256)

/-- Writing `new` from index 0 on: the bytes past it keep their old contents (40_bitreader.md R201). -/
def overwrite {α : Type} (old new : List α) : List α := new ++ old.drop new.length

/-- What a register of width `w` holds after `v` is written to it: `v` when it fits, else a free value
(00_scope.md R11; assumption log 3). -/
def fitWidth (w v : Nat) : Nat := if v < 2 ^ w then v else (Config.misfit w v).toNat

/-- Saturating increment of a 32-bit counter (10_state.md R54). -/
def satInc (c : Word) : Word := if c = BitVec.allOnes 32 then c else c + 1

/-- Byte interleave: from one run of bytes per channel, byte `j` of every channel in turn, for `n` values of `j`
(20_memory.md R103). -/
def interleave : Nat → List (List Byte) → List Byte
  | 0, _ => []
  | n + 1, runs => runs.map (fun r => r.headD (Config.unspecByte 0)) ++ interleave n (runs.map List.tail)

/-- `n` bytes of value 0. -/
def zeroBytes (n : Nat) : List Byte := List.replicate n 0

/-! ## Container magics (30_encoding.md R154) -/

/-- "SACDMTOC". -/
def magicMasterToc : List Byte := [0x53, 0x41, 0x43, 0x44, 0x4D, 0x54, 0x4F, 0x43]
/-- "TWOCHTOC". -/
def magicTwoChToc : List Byte := [0x54, 0x57, 0x4F, 0x43, 0x48, 0x54, 0x4F, 0x43]
/-- "MULCHTOC". -/
def magicMulChToc : List Byte := [0x4D, 0x55, 0x4C, 0x43, 0x48, 0x54, 0x4F, 0x43]
/-- "SACDTRL1". -/
def magicTrackList : List Byte := [0x53, 0x41, 0x43, 0x44, 0x54, 0x52, 0x4C, 0x31]
/-- "FRM8". -/
def magicFrm8 : List Byte := [0x46, 0x52, 0x4D, 0x38]
/-- "DSD ". -/
def magicDsd : List Byte := [0x44, 0x53, 0x44, 0x20]
/-- "DST ". -/
def magicDst : List Byte := [0x44, 0x53, 0x54, 0x20]
/-- "DSTI". -/
def magicDsti : List Byte := [0x44, 0x53, 0x54, 0x49]
/-- "DSTF". -/
def magicDstf : List Byte := [0x44, 0x53, 0x54, 0x46]
/-- "FRTE". -/
def magicFrte : List Byte := [0x46, 0x52, 0x54, 0x45]
/-- "FVER". -/
def magicFver : List Byte := [0x46, 0x56, 0x45, 0x52]
/-- "PROP". -/
def magicProp : List Byte := [0x50, 0x52, 0x4F, 0x50]
/-- "SND ". -/
def magicSnd : List Byte := [0x53, 0x4E, 0x44, 0x20]
/-- "FS  ". -/
def magicFs : List Byte := [0x46, 0x53, 0x20, 0x20]
/-- "CHNL". -/
def magicChnl : List Byte := [0x43, 0x48, 0x4E, 0x4C]
/-- "CMPR". -/
def magicCmpr : List Byte := [0x43, 0x4D, 0x50, 0x52]
/-- "fmt ". -/
def magicFmt : List Byte := [0x66, 0x6D, 0x74, 0x20]
/-- "data". -/
def magicData : List Byte := [0x64, 0x61, 0x74, 0x61]

end Sys2Proof.Machine
end

