-- ==== Sys2Proof/Machine/Operands.lean ====
section
/-! DEFINITION. Operand codes (30_encoding.md R142, R161): what the raw fields of a command stand for, `none` for a
reserved code, which answers `E_OPERAND`. -/

namespace Sys2Proof.Machine

/-- What `OPEN` may look for: any container, or one kind (R142). -/
inductive KindOperand where
  | auto | sector | dsdiff | dsf
  deriving DecidableEq, Repr

/-- Container `kind = a[1:0]`; `a[7:2]` must be 0 (R142). -/
def kindOperand (a : Nat) : Option KindOperand :=
  match a with
  | 0 => some .auto
  | 1 => some .sector
  | 2 => some .dsdiff
  | 3 => some .dsf
  | _ => none

/-- `area`: 0 `AREA_BOTH`, 1 `AREA_TWOCH`, 2 `AREA_MULCH` (R142; assumption log 10). -/
inductive AreaOperand where
  | both | twoCh | mulCh
  deriving DecidableEq, Repr

/-- The area code `b` (R142). -/
def areaOperand (b : Nat) : Option AreaOperand :=
  match b with
  | 0 => some .both
  | 1 => some .twoCh
  | 2 => some .mulCh
  | _ => none

/-- DSD rate code: 0 to 3 for `K = 1, 2, 4, 8` (R142). -/
def dsdOperand (code : Nat) : Option Nat := if code ≤ 3 then some (2 ^ code) else none

/-- PCM rate code: 0 to 3 for 88200, 96000, 176400, 192000 (R142). -/
def pcmOperand (code : Nat) : Option Nat := Config.pcmRates[code]?

/-- `flush = b[0]`; `b[7:1]` must be 0 (R142). -/
def flushOperand (b : Nat) : Option Bool := if b = 0 then some false else if b = 1 then some true else none

/-- `side = a[0]`, true for the fade-out; `a[7:1]` must be 0 (R142, 45_dsd_pcm.md R410). -/
def sideOperand (a : Nat) : Option Bool := if a = 0 then some false else if a = 1 then some true else none

/-- A channel count, 1 to 6 (00_scope.md R9): of `POOL_INIT` and `PC_INIT` (30_encoding.md R161), and of a container. -/
def channelsLegal (ch : Nat) : Bool := Config.chMin ≤ ch && ch ≤ Config.chMax

/-- `AC_QUANTIZE` reads its `imm16` as a two's-complement number (R142). -/
def predOperand (imm16 : Nat) : Int := sext 16 (imm16 % 2 ^ 16)

end Sys2Proof.Machine
end

