-- ==== Sys2Proof/Machine/Ops.lean ====
section
/-! DEFINITION. The operations all commands share: the response port and LAST_ERROR, taking an exception, DOUT and DIN,
the slots, the medium, session ownership and reset (30_encoding.md R140, R144; 60_exceptions.md R601, R613;
48_session.md R542; 20_memory.md R106; 70_reset_and_hazards.md R700). -/

namespace Sys2Proof.Machine

/-- The outcome of a command. -/
abbrev Out := Host.Outcome State Fault Refusal

/-! ## Responses and exceptions -/

/-- The value of `LAST_ERROR`: the code in bits 7:0, the low 24 bits of the info in bits 31:8 (60_exceptions.md R601).
-/
def errorWord (e : Exc) (info : Nat) : Word := BitVec.ofNat 32 (e.code + info % 2 ^ 24 * 2 ^ 8)

/-- A per-frame error absorbed inside a command is recorded in `LAST_ERROR` and nowhere else (60_exceptions.md R601). -/
def State.absorb (s : State) (e : Exc) (info : Nat) : State := { s with lastError := errorWord e info }

/-- One response record of status OK (30_encoding.md R144). -/
def State.respond (s : State) (value : Value) : State :=
  { s with rsp := s.rsp ++ [{ status := 0, value := value }] }

/-- TAKING AN EXCEPTION (60_exceptions.md R601, R613): the code and 24 bits of information go to `LAST_ERROR`, the code
and the full value to the response port; nothing else is saved and the next command is taken as usual. There is no
handler and so no return (R614). -/
def State.raise (s : State) (e : Exc) (value : Value) : State :=
  { s with
    lastError := errorWord e value.toNat
    rsp := s.rsp ++ [{ status := BitVec.ofNat 8 e.code, value := value }] }

/-- A number as a response value. -/
def val (n : Nat) : Value := BitVec.ofNat 64 n

/-- A signed number sign-extended to the 64 bits of a response value (40_bitreader.md R204). -/
def valInt (n : Int) : Value := BitVec.ofInt 64 n

/-- `emit(bytes)`: bytes appended to DOUT (00_scope.md R13). -/
def State.emit (s : State) (bs : List Byte) : State := { s with dout := s.dout ++ bs }

/-- The command ends with status OK. -/
def State.ok (s : State) (value : Value) : Out := .next (s.respond value)

/-- The command ends with an exception (60_exceptions.md R613). -/
def State.fail (s : State) (e : Exc) (value : Value) : Out := .next (s.raise e value)

/-- What the body of a command hands back to the sequencer (48_session.md, introduction): its response and the bytes
it would put on DOUT. -/
structure Reply where
  exc : Exc
  value : Value
  out : List Byte

/-- A command's body run as the command itself: the DOUT bytes, then the response (30_encoding.md R144). -/
def State.finish (s : State) (r : Reply) : Out :=
  if r.exc = .ok then (s.emit r.out).ok r.value else (s.emit r.out).fail r.exc r.value

/-- A body that ends with status OK. -/
def Reply.okOut (value : Value) (out : List Byte) : Reply := { exc := .ok, value := value, out := out }

/-- A body that ends with an exception and emits nothing. -/
def Reply.failed (e : Exc) (value : Value) : Reply := { exc := e, value := value, out := [] }

/-- The commands the session owns are refused with `E_STATE`, value 2, while `sess = TRACK`, before their own rule is
looked at (48_session.md R542). -/
def State.unlessOwned (s : State) (k : Out) : Out := if s.sess = .track then s.fail .eState 2 else k

/-- A command that does not complete: it is held and no response is given (44_dst_pool.md R347;
70_reset_and_hazards.md R710 (k); assumption log 7). -/
def State.hold (s : State) (i : Instr) : State := { s with held := some i }

/-- A command that takes `n` bytes from DIN waits until `n` bytes have been supplied (70_reset_and_hazards.md R710 (k))
and then consumes exactly the next `n` (30_encoding.md R140). -/
def State.takeDin (s : State) (n : Nat) (i : Instr) (k : List Byte → State → Out) : Out :=
  if s.din.length < n then .next (s.hold i) else k (s.din.take n) { s with din := s.din.drop n }

/-! ## The slots -/

/-- Slot `k` of a list of slots; a slot that is not listed is at its reset value. -/
def slotAt : List Slot → Nat → Slot
  | [], _ => Slot.reset
  | sl :: _, 0 => sl
  | _ :: l, k + 1 => slotAt l k

/-- The list with slot `k` replaced. -/
def setSlotAt : List Slot → Nat → Slot → List Slot
  | [], 0, v => [v]
  | [], k + 1, v => Slot.reset :: setSlotAt [] k v
  | _ :: l, 0, v => v :: l
  | sl :: l, k + 1, v => sl :: setSlotAt l k v

/-- Slot `k` (10_state.md R60 to R63). -/
def State.slot (s : State) (k : Nat) : Slot := slotAt s.slots k

/-- The state with slot `k` replaced. -/
def State.setSlot (s : State) (k : Nat) (v : Slot) : State := { s with slots := setSlotAt s.slots k v }

/-- The slot selected by register `SLOTSEL` (10_state.md R52). -/
def State.selected (s : State) : Slot := s.slot s.slotSel

/-- The state with the selected slot replaced. -/
def State.setSelected (s : State) (v : Slot) : State := s.setSlot s.slotSel v

/-- A BR, AC, `DST_DECODE` or `SLOT_READ` command touches only a `FREE` slot, else it is refused with `E_STATE`
(40_bitreader.md R200 (a); 60_exceptions.md R602). -/
def State.withFreeSlot (s : State) (k : Slot → Out) : Out :=
  if s.selected.slotState = .free then k s.selected else s.fail .eState 0

/-! ## The medium (20_memory.md R106) -/

/-- The bytes of the medium from `off` on, at most `n`, none past its end. -/
def State.mediumBytes (s : State) (off n : Nat) : List Byte :=
  Memory.run s.medium off (min n (s.mediumSize.toNat - off))

/-- `MediumRead(off, n)`: between 0 and `n` bytes. Each read is answered separately (R106): the next entry of `answers`
says how, and with no entry left the medium answers with its own bytes (assumption log 6). -/
def State.mediumRead (s : State) (off n : Nat) : List Byte × State :=
  match s.answers with
  | [] => (s.mediumBytes off n, s)
  | .faithful :: rest => (s.mediumBytes off n, { s with answers := rest })
  | .bytes bs :: rest => (bs.take n, { s with answers := rest })

/-! ## Counters -/

/-- One more replaced frame in `err_count`, saturating (10_state.md R54). -/
def State.countError (s : State) : State := { s with errCount := satInc s.errCount }

/-! ## Reset (70_reset_and_hazards.md R700, R701) -/

/-- Every piece of the block's state at its reset value; the ports keep what the host put on them and what was given
(R700: "neither consumes DIN bytes nor produces DOUT bytes"). -/
def State.toReset (s : State) : State :=
  { State.reset with
    cmd := s.cmd, din := s.din, dout := s.dout, rsp := s.rsp, medium := s.medium, mediumSize := s.mediumSize,
    answers := s.answers, turns := s.turns }

end Sys2Proof.Machine
end

