-- ==== Sys2Proof/Machine/BitReader.lean ====
section
/-! DEFINITION. The BitReader and its commands (40_bitreader.md), with the Rice code and BR_RICE (42_dst_header.md R270). -/

namespace Sys2Proof.Machine

/-! ## The BitReader's operations -/

/-- Loading a buffer: `total_bits`, `pos` and `br_err` start afresh, bytes past the new ones are kept
(40_bitreader.md R201). -/
def BitReader.load (b : BitReader) (bytes : List Byte) : BitReader :=
  { inbuf := overwrite b.inbuf bytes, totalBits := 8 * bytes.length, pos := 0, brErr := false }

/-- The bits that remain, `total_bits − pos` (40_bitreader.md R200 (c)). -/
def BitReader.remaining (b : BitReader) : Nat := b.totalBits - b.pos

/-- `OutOfData`: nothing is consumed, `br_err` is set and sticks (40_bitreader.md R200 (c), (d)). -/
def BitReader.markError (b : BitReader) : BitReader := { b with brErr := true }

/-- `read_bits(n)`; `none` is `OutOfData` (40_bitreader.md R200, R202). -/
def BitReader.readBits (b : BitReader) (n : Nat) : Option Nat × BitReader :=
  if b.brErr = true ∨ b.totalBits < b.pos + n then (none, b.markError)
  else (some (streamBits b.inbuf n b.pos 0), { b with pos := b.pos + n })

/-- `read_signed(n)`: the `n` bits as two's complement (40_bitreader.md R204). -/
def BitReader.readSigned (b : BitReader) (n : Nat) : Option Int × BitReader :=
  match b.readBits n with
  | (some v, b') => (some (sext n v), b')
  | (none, b') => (none, b')

/-- The next multiple of 8 at or after the cursor (40_bitreader.md R205). -/
def BitReader.alignedPos (b : BitReader) : Nat := (b.pos + 7) / 8 * 8

/-- `read_byte_aligned()`: the cursor moves to the next multiple of 8, then one byte is read; on failure the cursor
stays where it was before the alignment (40_bitreader.md R205). -/
def BitReader.readByteAligned (b : BitReader) : Option Byte × BitReader :=
  if b.brErr = true ∨ b.totalBits < b.alignedPos + 8 then (none, b.markError)
  else (some (bufByte b.inbuf (b.alignedPos / 8)), { b with pos := b.alignedPos + 8 })

/-- The run of zero bits of a Rice code, ended by a one bit (consumed) or by `OutOfData` (42_dst_header.md R270).
`fuel` bounds the run by the bits that remain. -/
def riceRun : Nat → Nat → BitReader → Option Nat × BitReader
  | 0, _, b => (none, b.markError)
  | fuel + 1, run, b =>
    match b.readBits 1 with
    | (none, b') => (none, b')
    | (some v, b') => if v = 0 then riceRun fuel (run + 1) b' else (some run, b')

/-- The sign bit of a Rice code, present only for a nonzero value (30_encoding.md R152). -/
def riceSign (n : Nat) (b : BitReader) : Option Int × BitReader :=
  if n = 0 then (some 0, b)
  else
    match b.readBits 1 with
    | (none, b') => (none, b')
    | (some v, b') => (some (if v = 1 then -(n : Int) else (n : Int)), b')

/-- `rice(m)` (42_dst_header.md R270). -/
def BitReader.rice (b : BitReader) (m : Nat) : Option Int × BitReader :=
  match riceRun (b.remaining + 1) 0 b with
  | (none, b') => (none, b')
  | (some run, b') =>
    match b'.readBits m with
    | (none, b'') => (none, b'')
    | (some lsb, b'') => riceSign (run * 2 ^ m + lsb) b''

/-! ## The commands -/

/-- How a read on the selected slot is answered: its value, or `OutOfData` with the bits that remain
(40_bitreader.md R200 (c)). -/
def State.answerRead (s : State) (r : Option Value × BitReader) : Out :=
  match r.1 with
  | some v => (s.setSelected { s.selected with br := r.2 }).ok v
  | none => (s.setSelected { s.selected with br := r.2 }).fail .outOfData (val r.2.remaining)

/-- The slot after `BR_LOAD` (40_bitreader.md R201). -/
def Slot.brLoad (sl : Slot) (bytes : List Byte) : Slot :=
  { sl with
    br := sl.br.load bytes
    ac := { sl.ac with acInit := true, acBase := 0, acLen := 0 }
    fd := { sl.fd with dstate := .idle } }

/-- `BR_LOAD size` (40_bitreader.md R201). -/
def execBrLoad (size : Nat) (s : State) : Out :=
  s.unlessOwned <| s.withFreeSlot fun sl =>
    if Config.inCap < size then s.fail .eOperand (val size)
    else s.takeDin size (.brLoad size) fun bytes s' =>
      (s'.setSelected (sl.brLoad bytes)).ok (val (8 * size))

/-- `BR_READ_BIT`: exactly `BR_READ_BITS 1` (40_bitreader.md R203). -/
def execBrReadBit (s : State) : Out :=
  s.unlessOwned <| s.withFreeSlot fun sl => s.answerRead ((sl.br.readBits 1).map (Option.map val) id)

/-- `BR_READ_BITS n` (40_bitreader.md R202). That the slot check of R200 (a) comes before the operand check is DEDUCED,
assumption log 28. -/
def execBrReadBits (n : Nat) (s : State) : Out :=
  s.unlessOwned <| s.withFreeSlot fun sl =>
    if Config.maxReadBits < n then s.fail .eOperand (val n)
    else s.answerRead ((sl.br.readBits n).map (Option.map val) id)

/-- `BR_READ_SIGNED n` (40_bitreader.md R204). The slot check comes before the operand check: DEDUCED, assumption log
28. -/
def execBrReadSigned (n : Nat) (s : State) : Out :=
  s.unlessOwned <| s.withFreeSlot fun sl =>
    if n = 0 ∨ Config.maxReadBits < n then s.fail .eOperand (val n)
    else s.answerRead ((sl.br.readSigned n).map (Option.map valInt) id)

/-- `BR_READ_BYTE_ALIGNED` (40_bitreader.md R205). -/
def execBrReadByteAligned (s : State) : Out :=
  s.unlessOwned <| s.withFreeSlot fun sl =>
    s.answerRead (sl.br.readByteAligned.map (Option.map fun v => val v.toNat) id)

/-- `BR_RICE m` (42_dst_header.md R270). The slot check comes before the operand check: DEDUCED, assumption log 28. -/
def execBrRice (m : Nat) (s : State) : Out :=
  s.unlessOwned <| s.withFreeSlot fun sl =>
    if 7 < m then s.fail .eOperand (val m)
    else s.answerRead ((sl.br.rice m).map (Option.map valInt) id)

end Sys2Proof.Machine
end

