-- ==== Sys2Proof/Machine/Arith.lean ====
section
/-! DEFINITION. The arithmetic decoder and its commands (41_arith_decoder.md). -/

namespace Sys2Proof.Machine

/-! ## Constants (41_arith_decoder.md R220) -/

/-- `ONE − 1 = 4095`, the first interval. -/
def acFirstInterval : Word := BitVec.ofNat 32 (2 ^ Config.abits - 1)
/-- `HALF = 2048`. -/
def acHalf : Word := BitVec.ofNat 32 (2 ^ (Config.abits - 1))

/-! ## The decoder -/

/-- Code bit `i`: `bit(ac_base + i)` of the buffer, 0 past the end of the code (41_arith_decoder.md R222). -/
def codeBit (buf : List Byte) (ac : ArithDec) (i : Nat) : Bool :=
  if i < ac.acLen then streamBit buf (ac.acBase + i) else false

/-- `(C << 1) | bit`, modulo 2^32 (41_arith_decoder.md R223, R226). -/
def shiftIn (c : Word) (bit : Bool) : Word := (c <<< 1) ||| BitVec.ofNat 32 bit.toNat

/-- `n` code bits from code bit `i` on shifted into `c`. -/
def loadCode (buf : List Byte) (ac : ArithDec) : Nat → Nat → Word → Word
  | 0, _, c => c
  | n + 1, i, c => loadCode buf ac n (i + 1) (shiftIn c (codeBit buf ac i))

/-- `ac_initialise()` while `ac_init = 1` (41_arith_decoder.md R224): code bit 0 is skipped. -/
def ArithDec.ready (ac : ArithDec) (buf : List Byte) : ArithDec :=
  if ac.acInit = true then
    { ac with acInit := false, a := acFirstInterval, c := loadCode buf ac Config.abits 1 0, cbptr := Config.abits + 1 }
  else ac

/-- The renormalisation loop (41_arith_decoder.md R223): while `A < HALF`, `A` doubles and a code bit is shifted in.
From a nonzero `A` it ends within 11 turns, so 11 turns are the whole loop; from 0 it never ends. -/
def renormalise (buf : List Byte) : Nat → ArithDec → ArithDec
  | 0, ac => ac
  | n + 1, ac =>
    if ac.a < acHalf then
      renormalise buf n
        { ac with a := ac.a <<< 1, c := shiftIn ac.c (codeBit buf ac ac.cbptr), cbptr := fitWidth 24 (ac.cbptr + 1) }
    else ac

/-- `k = (A >> PBITS) | ((A >> (PBITS − 1)) & 1)` (41_arith_decoder.md R223). -/
def acStepUnit (a : Word) : Word := (a >>> Config.pbits) ||| ((a >>> (Config.pbits - 1)) &&& 1)

/-- One decoded bit with probability `p`, `flush = 0` (41_arith_decoder.md R223). -/
def ArithDec.decodeBit (ac : ArithDec) (buf : List Byte) (p : Nat) : Bool × ArithDec :=
  let r := ac.ready buf
  let ap := acStepUnit r.a * BitVec.ofNat 32 p
  let h := r.a - ap
  if h ≤ r.c then (false, renormalise buf 11 { r with c := r.c - h, a := ap })
  else (true, renormalise buf 11 { r with a := h })

/-- The scan of the unread code bits (41_arith_decoder.md R225): it stops at a nonzero bit. At most 7 bits remain when
it starts. -/
def flushScan (buf : List Byte) : Nat → ArithDec → Bool × ArithDec
  | 0, ac => (true, ac)
  | n + 1, ac =>
    if ac.cbptr < ac.acLen then
      let next := { ac with cbptr := fitWidth 24 (ac.cbptr + 1) }
      if codeBit buf ac ac.cbptr = true then (false, next) else flushScan buf n next
    else (true, ac)

/-- `ac_flush()` (41_arith_decoder.md R225): false when more than 7 code bits are unread or one of them is not 0. -/
def ArithDec.flush (ac : ArithDec) (buf : List Byte) : Bool × ArithDec :=
  if ac.cbptr + 7 < ac.acLen then (false, { ac with acInit := true })
  else flushScan buf 7 { ac with acInit := true }

/-- `quantize(pred, len)` (41_arith_decoder.md R228). -/
def quantize (pred : Int) (len : Nat) : Nat :=
  let j := pred.natAbs / 2 ^ Config.acQstep
  if len ≤ j then len - 1 else j

/-- The seven low bits of a number in reverse order. -/
def rev7 (n : Nat) : Nat := ((BitVec.ofNat 7 n).reverse).toNat

/-- `rev7p1(c)`: the probability of the first decoded bit of a frame (41_arith_decoder.md R230). -/
def rev7p1 (c : Int) : Nat := rev7 (c % 128).toNat + 1

/-! ## The commands -/

/-- The slot after `AC_START` (41_arith_decoder.md R221): the code begins at the cursor. -/
def Slot.acStart (sl : Slot) : Slot :=
  { sl with ac := { sl.ac with acBase := sl.br.pos, acLen := sl.br.remaining, acInit := true } }

/-- `AC_START` (41_arith_decoder.md R221). -/
def execAcStart (s : State) : Out :=
  s.unlessOwned <| s.withFreeSlot fun sl => (s.setSelected sl.acStart).ok (val sl.br.remaining)

/-- `AC_DECODE p, flush` (41_arith_decoder.md R223, R225). The fault stands for the loop that would not end when the
new `A` is 0 (assumption log 20). -/
def execAcDecode (p flush : Nat) (s : State) : Out :=
  s.unlessOwned <| s.withFreeSlot fun sl =>
    match flushOperand flush with
    | none => s.fail .eOperand (val flush)
    | some true =>
      let r := (sl.ac.ready sl.br.inbuf).flush sl.br.inbuf
      (s.setSelected { sl with ac := r.2 }).ok (val r.1.toNat)
    | some false =>
      if p = 0 ∨ 128 < p then s.fail .eOperand (val p)
      else
        let r := sl.ac.decodeBit sl.br.inbuf p
        if r.2.a = 0 then .fault .renormalisationDiverges
        else (s.setSelected { sl with ac := r.2 }).ok (val r.1.toNat)

/-- `AC_QUANTIZE len, pred` (41_arith_decoder.md R228): no state is read or written. -/
def execAcQuantize (len pred : Nat) (s : State) : Out :=
  if len = 0 ∨ 64 < len then s.fail .eOperand (val len)
  else s.ok (val (quantize (predOperand pred) len))

end Sys2Proof.Machine
end

