-- ==== Sys2Proof/Machine/FxCommon.lean ====
section
/-! DEFINITION. What the three container readers share: the parse of a container, frames, bad reads and overflows
(46_fx_files.md R450 to R454, R489; 47_fx_sector.md R500). -/

namespace Sys2Proof.Machine

/-! ## Parsing at OPEN -/

/-- Why `OPEN` failed (46_fx_files.md R462). -/
structure OpenError where
  exc : Exc
  info : Value

/-- A part of the parse of a container: it reads the medium and ends with a value or with an open-time error. -/
abbrev Scan := EStateM OpenError State

/-- `MediumRead(off, n)` inside the parse (20_memory.md R106). -/
def Scan.read (off n : Nat) : Scan (List Byte) := fun s =>
  .ok (s.mediumRead off n).1 (s.mediumRead off n).2

/-- `MediumSize()` (20_memory.md R106). -/
def Scan.mediumSize : Scan Nat := fun s => .ok s.mediumSize.toNat s

/-- `raise CorruptContainer(info)`. -/
def Scan.corrupt {α : Type} (info : Nat) : Scan α := throw { exc := .corruptContainer, info := val info }

/-- `raise CorruptContainer(info)` unless the check holds. -/
def Scan.check (ok : Bool) (info : Nat) : Scan Unit := if ok then pure () else Scan.corrupt info

/-- A read during the parse of which every byte is needed (46_fx_files.md R462; assumption log 14). -/
def Scan.need (off n : Nat) : Scan (List Byte) := do
  let bs ← Scan.read off n
  Scan.check (bs.length = n) off
  pure bs

/-- A change of the extractor's registers. -/
def Scan.setFx (f : Fx → Fx) : Scan Unit := fun s => .ok () { s with fx := f s.fx }

/-- The four DSD rates (00_scope.md R9). -/
def dsdRateLegal (rate : Nat) : Bool := rate ∈ Config.dsdRates

/-! ## Frames -/

/-- What a `read_frame` call delivers with `more = 1` (46_fx_files.md R451). -/
structure Frame where
  type : FrameType
  bytes : List Byte
  deriving DecidableEq, Repr

/-- `FB`, the bytes per channel of a frame (46_fx_files.md R453). -/
def Fx.frameBytes (fx : Fx) : Nat := Config.frameBytes fx.rate

/-- The number of frames of `size` bytes that hold `total` bytes. -/
def ceilDiv (total size : Nat) : Nat := (total + size - 1) / size

/-- A change of the extractor. -/
def State.setFx (s : State) (fx : Fx) : State := { s with fx := fx }

/-- One more bad read, saturating (46_fx_files.md R454). -/
def State.countBadRead (s : State) : State := { s with fx := { s.fx with badReads := satInc s.fx.badReads } }

/-- An `INVALID` frame: zeros of the length of a full frame, with the error counted and recorded
(46_fx_files.md R454, R489; 60_exceptions.md R607). -/
def State.invalidFrame (s : State) (e : Exc) (info : Nat) : Option Frame × State :=
  (some { type := .invalid, bytes := zeroBytes (s.fx.ch * s.fx.frameBytes) }, s.countError.absorb e info)

/-- A frame spoiled by a bad read (46_fx_files.md R454). -/
def State.badFrame (s : State) (info : Nat) : Option Frame × State := s.countBadRead.invalidFrame .badRead info

/-! ## Sectors (47_fx_sector.md R500) -/

/-- Where a sector begins in the image. -/
def sectorStart (psn : Bool) (lsn : Nat) : Nat := lsn * (if psn then Config.sectorPsn else Config.sectorBytes)

/-- Where a sector's data begins in the image. -/
def sectorOffset (psn : Bool) (lsn : Nat) : Nat := sectorStart psn lsn + (if psn then Config.psnHeader else 0)

/-- `sector_read(lsn)` (47_fx_sector.md R500). -/
def State.sectorRead (s : State) (lsn : Nat) : List Byte × State :=
  s.mediumRead (sectorOffset s.fx.sec.psn lsn) Config.sectorBytes

end Sys2Proof.Machine
end

