-- ==== Sys2Proof/Machine/FxDff.lean ====
section
/-! DEFINITION. The DSDIFF reader (46_fx_files.md R475 to R489). -/

namespace Sys2Proof.Machine

/-! ## Chunks -/

/-- A chunk header: identifier and size (46_fx_files.md R475). -/
structure Chunk where
  id : List Byte
  size : Nat

/-- The chunk header in 12 bytes. -/
def Chunk.ofBytes (bs : List Byte) : Chunk := { id := slice bs 0 4, size := beField bs 4 8 }

/-- Where the chunk after the one at `p` begins: its data are padded to an even length (46_fx_files.md R475). -/
def Chunk.next (c : Chunk) (p : Nat) : Nat := p + 12 + c.size + c.size % 2

/-- The chunk header at `p`, which must fit before `stop` with its data (46_fx_files.md R475). -/
def Scan.chunk (p stop : Nat) : Scan Chunk := do
  let bs ← Scan.need p 12
  let c := Chunk.ofBytes bs
  Scan.check (p + 12 + c.size ≤ stop) p
  pure c

/-- The first `n` data bytes of the chunk at `p`. A chunk that is too short is corrupt (assumption log 15); that it
reports `p`, the chunk's own offset, is the model's: DESIGN CHOICE, assumption log 14. -/
def Scan.chunkData (c : Chunk) (p n : Nat) : Scan (List Byte) := do
  Scan.check (n ≤ c.size) p
  Scan.need (p + 12) n

/-- The walk over the chunks from `p` to `stop` (46_fx_files.md R475, R477). Each chunk takes 12 bytes or more, so
`fuel` above `stop − p` is the whole walk. -/
def Scan.walk {α : Type} (f : Nat → Chunk → α → Scan α) (stop : Nat) : Nat → Nat → α → Scan α
  | 0, _, acc => pure acc
  | fuel + 1, p, acc =>
    if p + 12 ≤ stop then do
      let c ← Scan.chunk p stop
      let acc' ← f p c acc
      Scan.walk f stop fuel (c.next p) acc'
    else pure acc

/-! ## OPEN (46_fx_files.md R475 to R479) -/

/-- What the walk has found so far. -/
structure DffScan where
  fver : Bool
  rate : Option Nat
  ch : Option Nat
  dst : Option Bool
  dsdData : Option (Nat × Nat)
  dstData : Option (Nat × Nat)
  frteCount : Nat
  dstiOff : Nat
  dstiCount : Nat

/-- Nothing found yet. -/
def DffScan.empty : DffScan :=
  { fver := false, rate := none, ch := none, dst := none, dsdData := none, dstData := none, frteCount := 0,
    dstiOff := 0, dstiCount := 0 }

/-- The `FVER` chunk (46_fx_files.md R476). -/
def scanVersion (p : Nat) (c : Chunk) (a : DffScan) : Scan DffScan := do
  let bs ← Scan.chunkData c p 4
  Scan.check (beField bs 0 1 = 1) (p + 12)
  pure { a with fver := true }

/-- A chunk inside `PROP` (46_fx_files.md R477). Of `CHNL` only the channel count and of `CMPR` only the compression
type are read, so a chunk too short for the identifiers or the name behind them, which R477 does not interpret, opens:
DEDUCED, assumption log 15. -/
def scanProperty (p : Nat) (c : Chunk) (a : DffScan) : Scan DffScan :=
  if c.id = magicFs then do
    let bs ← Scan.chunkData c p 4
    Scan.check (dsdRateLegal (beNat bs)) (p + 12)
    pure { a with rate := some (beNat bs) }
  else if c.id = magicChnl then do
    let bs ← Scan.chunkData c p 2
    Scan.check (channelsLegal (beNat bs)) (p + 12)
    pure { a with ch := some (beNat bs) }
  else if c.id = magicCmpr then do
    let bs ← Scan.chunkData c p 4
    Scan.check (bs = magicDsd || bs = magicDst) (p + 12)
    pure { a with dst := some (bs = magicDst) }
  else pure a

/-- The `PROP` chunk (46_fx_files.md R477). -/
def scanProp (p : Nat) (c : Chunk) (a : DffScan) : Scan DffScan := do
  let bs ← Scan.chunkData c p 4
  Scan.check (bs = magicSnd) (p + 12)
  Scan.walk scanProperty (p + 12 + c.size) (c.size + 1) (p + 16) a

/-- The `DST ` chunk: its first chunk must be `FRTE` (46_fx_files.md R478; assumption log 15). That a chunk without room
for a chunk header reports where the header would begin is the model's: DESIGN CHOICE, assumption log 14. -/
def scanDst (p : Nat) (c : Chunk) (a : DffScan) : Scan DffScan := do
  let q := p + 12
  let stop := p + 12 + c.size
  Scan.check (q + 12 ≤ stop) q
  let f ← Scan.chunk q stop
  Scan.check (f.id = magicFrte) q
  let bs ← Scan.chunkData f q 6
  Scan.check (beField bs 4 2 = Config.frameRate) (q + 16)
  pure { a with dstData := some (f.next q, stop), frteCount := beField bs 0 4 }

/-- A chunk of the form (46_fx_files.md R475 to R479); unknown identifiers are skipped. -/
def scanForm (p : Nat) (c : Chunk) (a : DffScan) : Scan DffScan :=
  if c.id = magicFver then scanVersion p c a
  else if c.id = magicProp then scanProp p c a
  else if c.id = magicDsd then pure { a with dsdData := some (p + 12, p + 12 + c.size) }
  else if c.id = magicDst then scanDst p c a
  else if c.id = magicDsti then pure { a with dstiOff := p + 12, dstiCount := fitWidth 32 (c.size / 12) }
  else pure a

/-- The extractor after a DSDIFF form (46_fx_files.md R475 to R479). -/
def Fx.openedDff (fx : Fx) (a : DffScan) (rate ch : Nat) (dst : Bool) (data : Nat × Nat) : Fx :=
  { fx with
    kind := .dsdiff, ch := ch, rate := rate, dst := dst, trackCount := 1, dataStart := data.1, dataEnd := data.2
    dff := { fx.dff with dstiOff := a.dstiOff, dstiCount := a.dstiCount, frteCount := a.frteCount } }

/-- The sound data of the chunk the compression type names (46_fx_files.md R475). In a form that holds a `DSD ` and a
`DST ` chunk the other one is not looked at, where 46_fx_files.md R478 taken word for word would leave the data range of
the later of the two: DEDUCED, assumption log 29. -/
def DffScan.data (a : DffScan) (dst : Bool) : Option (Nat × Nat) := if dst then a.dstData else a.dsdData

/-- What the form must hold, else `CorruptContainer(0)` (46_fx_files.md R475). -/
def finishDff (a : DffScan) : Scan Unit :=
  match a.rate, a.ch, a.dst with
  | some rate, some ch, some dst =>
    match a.data dst with
    | some data => if a.fver then Scan.setFx fun fx => fx.openedDff a rate ch dst data else Scan.corrupt 0
    | none => Scan.corrupt 0
  | _, _, _ => Scan.corrupt 0

/-- `open_dsdiff()` (46_fx_files.md R475). -/
def openDff : Scan Unit := do
  let hd ← Scan.read 0 16
  Scan.check (hd.length = 16 && slice hd 12 4 = magicDsd) 12
  let size ← Scan.mediumSize
  let stop := min (12 + beField hd 4 8) size
  let a ← Scan.walk scanForm stop (stop + 1) 16 .empty
  finishDff a

/-! ## Tracks and frames -/

/-- DSDIFF `set_track` (46_fx_files.md R480). -/
def Fx.selectDff (fx : Fx) : Fx :=
  let dfb := if fx.dst then fx.dff.frameBytes else fx.ch * fx.frameBytes
  { fx with
    cursor := fx.dataStart
    dff := { fx.dff with frameBytes := dfb }
    frameTotal :=
      if fx.dst = false then fitWidth 32 (ceilDiv (fx.dataEnd - fx.dataStart) dfb)
      else if fx.dff.dstiOff ≠ 0 then fx.dff.dstiCount
      else fx.dff.frteCount }

/-- The cursor moved. -/
def State.moveCursor (s : State) (p : Nat) : State := s.setFx { s.fx with cursor := p }

/-- DSDIFF `read_frame`, plain DSD (46_fx_files.md R485). -/
def State.readDffDsd (s : State) : Option Frame × State :=
  if s.fx.dataEnd ≤ s.fx.cursor then (none, s)
  else
    let most := min s.fx.dff.frameBytes (s.fx.dataEnd - s.fx.cursor)
    let want := most - most % s.fx.ch
    if want = 0 then (none, s)
    else
      let r := s.mediumRead s.fx.cursor want
      let s' := r.2.moveCursor (s.fx.cursor + want)
      if r.1.length < want then s'.badFrame s.fx.cursor else (some { type := .dsd, bytes := r.1 }, s')

/-- A DST frame of `n` bytes at `off`, after which the cursor is at `next` (46_fx_files.md R486, R487). -/
def State.readDstBytes (s : State) (off n next : Nat) : Option Frame × State :=
  let r := s.mediumRead off n
  let s' := r.2.moveCursor next
  if r.1.length < n then s'.badFrame off else (some { type := .dst, bytes := r.1 }, s')

/-- DSDIFF `read_frame`, DST with an index (46_fx_files.md R486). -/
def State.readDffIndexed (s : State) : Option Frame × State :=
  if s.fx.dff.dstiCount ≤ s.fx.frameIndex then (none, s)
  else
    let entry := s.fx.dff.dstiOff + 12 * s.fx.frameIndex
    let e := s.mediumRead entry 12
    let s' := e.2
    if e.1.length < 12 then s'.badFrame entry
    else
      let off := beField e.1 0 8
      let len := beField e.1 8 4
      if Config.inCap < len ∨ s.mediumSize.toNat < off + len then s'.invalidFrame .bufferOverflow len
      else s'.readDstBytes off len (off + len)

/-- A DST frame the container declares too large for its buffer or for its parent (46_fx_files.md R487). -/
def oversizeDstf (c : Chunk) (cursor dataEnd : Nat) : Bool := Config.inCap < c.size || dataEnd < cursor + 12 + c.size

/-- DSDIFF `read_frame`, DST without an index: the walk of 46_fx_files.md R487. Each turn moves the cursor by 12 or
more, so `fuel` above `data_end − cursor` is the whole walk. -/
def State.readDffWalk : Nat → State → Option Frame × State
  | 0, s => (none, s)
  | fuel + 1, s =>
    let p := s.fx.cursor
    if s.fx.dataEnd < p + 12 then (none, s)
    else
      let hd := s.mediumRead p 12
      let s' := hd.2
      if hd.1.length < 12 then
        let r := s'.badFrame p
        (r.1, r.2.setFx { r.2.fx with eot := true })
      else
        let c := Chunk.ofBytes hd.1
        if c.id = magicDstf then
          if oversizeDstf c p s.fx.dataEnd then (s'.moveCursor s.fx.dataEnd).invalidFrame .bufferOverflow c.size
          else s'.readDstBytes (p + 12) c.size (c.next p)
        else State.readDffWalk fuel (s'.moveCursor (c.next p))

/-- DSDIFF `read_frame`; `none` is the end of the track (46_fx_files.md R485 to R487). -/
def State.readDff (s : State) : Option Frame × State :=
  if s.fx.dst = false then s.readDffDsd
  else if s.fx.dff.dstiOff ≠ 0 then s.readDffIndexed
  else s.readDffWalk (s.fx.dataEnd - s.fx.cursor + 1)

/-! ## SEEK (46_fx_files.md R488) -/

/-- `n` `DSTF` chunks skipped from the cursor on, reading headers only (46_fx_files.md R488; assumption log 15). True
when the `n` chunks were there. -/
def State.skipFrames : Nat → Nat → State → Bool × State
  | 0, n, s => (n = 0, s)
  | fuel + 1, n, s =>
    let p := s.fx.cursor
    if n = 0 then (true, s)
    else if s.fx.dataEnd < p + 12 then (false, s)
    else
      let hd := s.mediumRead p 12
      let s' := hd.2
      if hd.1.length < 12 then (false, s')
      else
        let c := Chunk.ofBytes hd.1
        if c.id = magicDstf then
          State.skipFrames fuel (n - 1)
            (s'.moveCursor (if oversizeDstf c p s.fx.dataEnd then s.fx.dataEnd else c.next p))
        else State.skipFrames fuel n (s'.moveCursor (c.next p))

/-- DSDIFF `seek(frame)`: true on success, else `E_OPERAND` (46_fx_files.md R488). -/
def State.seekDff (s : State) (frame : Nat) : Bool × State :=
  if s.fx.frameTotal < frame then (false, s)
  else if s.fx.dst = false then
    (true, s.moveCursor (min (s.fx.dataStart + frame * s.fx.dff.frameBytes) s.fx.dataEnd))
  else if s.fx.dff.dstiOff ≠ 0 then (true, s)
  else
    let r := State.skipFrames (s.fx.dataEnd - s.fx.dataStart + 1) frame (s.moveCursor s.fx.dataStart)
    if r.1 then r else (false, r.2.moveCursor s.fx.cursor)

end Sys2Proof.Machine
end

