-- ==== Sys2Proof/Machine/FxDsf.lean ====
section
/-! DEFINITION. The DSF reader (46_fx_files.md R465 to R472). -/

namespace Sys2Proof.Machine

/-- The checks of the DSF header, in the order of the table (46_fx_files.md R465). -/
def dsfHeaderChecks (hd : List Byte) (mediumSize : Nat) : List (Nat × Bool) :=
  [ (4, leField hd 4 8 = Config.dsfMasterChunk),
    (12, leField hd 12 8 ≤ mediumSize),
    (28, slice hd 28 4 = magicFmt),
    (32, leField hd 32 8 = 52),
    (40, leField hd 40 4 = 1),
    (44, leField hd 44 4 = 0),
    (52, channelsLegal (leField hd 52 4)),
    (56, dsdRateLegal (leField hd 56 4)),
    (60, leField hd 60 4 = 1 || leField hd 60 4 = 8),
    (72, 1 ≤ leField hd 72 4 && leField hd 72 4 ≤ Config.dsfMaxBlock),
    (80, slice hd 80 4 = magicData),
    (84, 12 ≤ leField hd 84 8),
    (84, 80 + leField hd 84 8 ≤ mediumSize),
    (84, (80 + leField hd 84 8 - 92) % (leField hd 52 4 * leField hd 72 4) = 0) ]

/-- Checks made one after the other; the first that fails is reported. -/
def Scan.checks : List (Nat × Bool) → Scan Unit
  | [] => pure ()
  | c :: cs => do
    Scan.check c.2 c.1
    Scan.checks cs

/-- The extractor after a DSF header (46_fx_files.md R465). -/
def Fx.openedDsf (fx : Fx) (hd : List Byte) : Fx :=
  { fx with
    kind := .dsf, ch := leField hd 52 4, rate := leField hd 56 4, dst := false, trackCount := 1
    dataStart := 92, dataEnd := 80 + leField hd 84 8
    dsf := { fx.dsf with
      chtype := leField hd 48 4, lsb := leField hd 60 4 = 1, sampleCount := leField hd 64 8
      blockSize := leField hd 72 4 } }

/-- `open_dsf()` (46_fx_files.md R465). The info word of a short read is free (assumption log 14). -/
def openDsf : Scan Unit := do
  let hd ← Scan.read 0 92
  if hd.length < 92 then throw { exc := .corruptContainer, info := Config.dsfShortInfo hd.length }
  let size ← Scan.mediumSize
  Scan.checks (dsfHeaderChecks hd size)
  Scan.setFx fun fx => fx.openedDsf hd

/-- `P`, the bytes per channel in the file (46_fx_files.md R466). -/
def Fx.dsfTotal (fx : Fx) : Nat := (fx.dataEnd - fx.dataStart) / fx.ch

/-- DSF `set_track` (46_fx_files.md R467). -/
def Fx.selectDsf (fx : Fx) : Fx :=
  { fx with
    frameTotal := fitWidth 32 (ceilDiv fx.dsfTotal fx.frameBytes), cursor := fx.dataStart
    dsf := { fx.dsf with pos := 0, blkValid := false, blkBad := false } }

/-- Where block group `g` begins (46_fx_files.md R466). -/
def Fx.groupOffset (fx : Fx) (g : Nat) : Nat := fx.dataStart + g * fx.ch * fx.dsf.blockSize

/-- The block group `g` fetched into `blockbuf`, if another one is there; bytes that did not come are 0
(46_fx_files.md R470). -/
def State.dsfFetch (s : State) (g : Nat) : State :=
  if s.fx.dsf.blkValid = true ∧ s.fx.dsf.blkGroup = g then s
  else
    let off := s.fx.groupOffset g
    let want := s.fx.ch * s.fx.dsf.blockSize
    let r := s.mediumRead off want
    let bad := r.1.length < want
    let s' := r.2.setFx { s.fx with
      cursor := off + want
      dsf := { s.fx.dsf with
        blockbuf := overwrite s.fx.dsf.blockbuf (r.1 ++ zeroBytes (want - r.1.length))
        blkGroup := g, blkValid := true, blkBad := bad } }
    if bad then s'.countBadRead else s'

/-- `n` bytes of every channel from byte `o` of the block group held, interleaved, in the block's own bit order
(46_fx_files.md R466, R470). -/
def Fx.dsfRun (fx : Fx) (o n : Nat) : List Byte :=
  let runs := (List.range fx.ch).map fun c => bufBytes fx.dsf.blockbuf (c * fx.dsf.blockSize + o) n
  (interleave n runs).map fun v => if fx.dsf.lsb then swapByte v else v

/-- The byte loop of rule R470 for `n` bytes of every channel, one block group at a time; `bad` is the offset of the
last bad group met. `fuel` counts the groups, of which each gives at least one byte. -/
def State.dsfRead : Nat → Nat → Option Nat → State → List Byte × Option Nat × State
  | 0, _, bad, s => ([], bad, s)
  | fuel + 1, n, bad, s =>
    if n = 0 then ([], bad, s)
    else
      let g := s.fx.dsf.pos / s.fx.dsf.blockSize
      let o := s.fx.dsf.pos % s.fx.dsf.blockSize
      let s' := s.dsfFetch g
      let m := min n (s.fx.dsf.blockSize - o)
      let bad' := if s'.fx.dsf.blkBad then some (s.fx.groupOffset g) else bad
      let rest := State.dsfRead fuel (n - m) bad'
        (s'.setFx { s'.fx with dsf := { s'.fx.dsf with pos := s'.fx.dsf.pos + m } })
      (s'.fx.dsfRun o m ++ rest.1, rest.2)

/-- DSF `read_frame`; `none` is the end of the track (46_fx_files.md R470). -/
def State.readDsf (s : State) : Option Frame × State :=
  if s.fx.dsfTotal ≤ s.fx.dsf.pos then (none, s)
  else
    let n := min s.fx.frameBytes (s.fx.dsfTotal - s.fx.dsf.pos)
    match State.dsfRead n n none s with
    | (_, some off, s') => s'.invalidFrame .badRead off
    | (bytes, none, s') => (some { type := .dsd, bytes := bytes }, s')

/-- DSF `seek(frame)`; `none` is `E_OPERAND` (46_fx_files.md R471). The block group held is given up
(20_memory.md R127; assumption log 24). -/
def State.seekDsf (s : State) (frame : Nat) : Option State :=
  if s.fx.frameTotal < frame then none
  else some (s.setFx { s.fx with
    dsf := { s.fx.dsf with pos := min (frame * s.fx.frameBytes) s.fx.dsfTotal, blkValid := false } })

end Sys2Proof.Machine
end

