-- ==== Sys2Proof/Machine/FxSector.lean ====
section
/-! DEFINITION. The disc-sector reader (47_fx_sector.md). -/

namespace Sys2Proof.Machine

/-! ## OPEN (47_fx_sector.md R501 to R504) -/

/-- `sector_read(lsn)` inside the parse (47_fx_sector.md R500). -/
def Scan.sector (lsn : Nat) : Scan (List Byte) := fun s => .ok (s.sectorRead lsn).1 (s.sectorRead lsn).2

/-- `CorruptContainer` unless the check holds; the info word is the low 24 bits (47_fx_sector.md R504). -/
def Scan.checkLow (ok : Bool) (info : Nat) : Scan Unit := Scan.check ok (info % 2 ^ 24)

/-- A field of a disc table's sector (47_fx_sector.md R503). -/
def discField (m : List Byte) (f : Config.DiscField) : Nat := beField m f.offset f.bytes

/-- The identifier that begins a disc table's sector (47_fx_sector.md R503). -/
def discMagic (m : List Byte) : List Byte := slice m Config.discTables.magic.offset Config.discTables.magic.bytes

/-- The search for the track list among `n` sectors from `lsn` on (47_fx_sector.md R504). Where the sector found is
numbered 2^32 or more, which does not fit `area_trl_lsn`, the number is kept as it is: DESIGN CHOICE, assumption log
3. -/
def scanTrackList (areaLsn : Nat) : Nat → Nat → Scan Nat
  | 0, _ => do
    Scan.checkLow false areaLsn
    pure 0
  | n + 1, lsn => do
    let s ← Scan.sector lsn
    Scan.checkLow (s.length = Config.sectorBytes) lsn
    if discMagic s = magicTrackList then pure lsn else scanTrackList areaLsn n (lsn + 1)

/-- The `frame_format` codes that are accepted (47_fx_sector.md R503). -/
def frameFormatLegal (f : Nat) : Bool := f ∈ Config.discTables.frameFormats

/-- `parse_area(a)` of an area that starts at `lsn` and has `n` sectors (47_fx_sector.md R504). -/
def parseArea (magic : List Byte) (lsn n : Nat) : Scan Area := do
  let tables := Config.discTables
  Scan.check (2 ≤ n) 84
  let t ← Scan.sector lsn
  Scan.checkLow (t.length = Config.sectorBytes && discMagic t = magic) lsn
  Scan.checkLow (discField t tables.version ≤ tables.newestVersion) lsn
  Scan.checkLow (discField t tables.sampleFrequency = tables.frequencyCode) lsn
  Scan.checkLow (frameFormatLegal (discField t tables.frameFormat % 16)) lsn
  Scan.checkLow (channelsLegal (discField t tables.channelCount)) lsn
  let trl ← scanTrackList lsn (n - 1) (lsn + 1)
  pure { tocLsn := lsn, tocSize := n, tracks := discField t tables.trackCount, ch := discField t tables.channelCount,
         fmt := discField t tables.frameFormat % 16, rate := Config.dsdRateBase, trlLsn := trl }

/-- An area the master table of contents names, or one that is absent (47_fx_sector.md R501). -/
def parseAreaAt (magic : List Byte) (lsn n : Nat) : Scan Area :=
  if lsn = 0 then pure { Area.reset with tocSize := n } else parseArea magic lsn n

/-- `open_sector()` for a sector layout (47_fx_sector.md R501). -/
def openSector (psn : Bool) : Scan Unit := do
  let tables := Config.discTables
  Scan.setFx fun fx => { fx with sec := { fx.sec with psn := psn } }
  let m ← Scan.sector Config.mtocLsn
  Scan.check (m.length = Config.sectorBytes && discMagic m = magicMasterToc) Config.mtocLsn
  Scan.check (discField m tables.version ≤ tables.newestVersion) tables.version.offset
  Scan.check (!(discField m tables.area1Start = 0 && discField m tables.area2Start = 0)) tables.area1Start.offset
  let a1 ← parseAreaAt magicTwoChToc (discField m tables.area1Start) (discField m tables.area1Size)
  let a2 ← parseAreaAt magicMulChToc (discField m tables.area2Start) (discField m tables.area2Size)
  Scan.setFx fun fx => { fx with
    kind := .sector, ch := 0, rate := 0, dst := false, trackSelected := false, trackCount := a1.tracks + a2.tracks
    sec := { fx.sec with area1 := a1, area2 := a2 } }

/-! ## Tracks (47_fx_sector.md R505, R506) -/

/-- `tracks_in(area)` on a disc (47_fx_sector.md R505). -/
def Sec.tracksIn (sec : Sec) : AreaOperand → Nat
  | .twoCh => sec.area1.tracks
  | .mulCh => sec.area2.tracks
  | .both => sec.area1.tracks + sec.area2.tracks

/-- The area a track lies in and its index there (47_fx_sector.md R505). -/
def Sec.place (sec : Sec) (track : Nat) : AreaOperand → Area × Nat
  | .twoCh => (sec.area1, track)
  | .mulCh => (sec.area2, track)
  | .both => if track < sec.area1.tracks then (sec.area1, track) else (sec.area2, track - sec.area1.tracks)

/-- A track's first sector, with no packet and no frame in progress (47_fx_sector.md R506, R525). -/
def Fx.rewindSector (fx : Fx) : Fx :=
  { fx with
    cursor := fx.dataStart
    sec := { fx.sec with
      curLsn := fx.sec.trackStartLsn, pktIdx := 0, pktCount := 0, fiCount := 0, asmStarted := false, asmSize := 0 } }

/-- Disc `set_track`, from the sector of the track list (47_fx_sector.md R506). -/
def Fx.selectSector (fx : Fx) (area : Area) (i : Nat) (list : List Byte) : Fx :=
  let start := discField list (Config.discTables.trackStartLsn i)
  let len := discField list (Config.discTables.trackLengthLsn i)
  Fx.rewindSector { fx with
    ch := area.ch, rate := area.rate, dst := area.fmt = 0, frameTotal := 0
    dataStart := sectorStart fx.sec.psn start, dataEnd := sectorStart fx.sec.psn (start + len)
    sec := { fx.sec with trackStartLsn := start, trackLenLsn := len } }

/-! ## Audio sectors (47_fx_sector.md R510 to R524) -/

/-- The descriptor of packet `i` of a sector (47_fx_sector.md R510). -/
def packetAt (s : List Byte) (i : Nat) : Packet :=
  let w := beField s (1 + 2 * i) 2
  { frameStart := w / 2 ^ 15 = 1, dataType := w / 2 ^ 11 % 8, length := w % 2 ^ 11 }

/-- The sector reader with a new sector in `secbuf` (47_fx_sector.md R510, R520). -/
def Sec.withSector (sec : Sec) (s : List Byte) : Sec :=
  let hd := beField s 0 1
  let count := hd / 2 ^ 5
  let fi := hd / 2 ^ 2 % 8
  { sec with
    secbuf := s, pktCount := count, fiCount := fi, secDst := hd % 2 = 1, pkt := (List.range count).map (packetAt s)
    pktIdx := 0, bufOff := 1 + 2 * count + fi * (3 + hd % 2) }

/-- The data the descriptors claim (47_fx_sector.md R520). -/
def Sec.claimed (sec : Sec) : Nat := sec.bufOff + (sec.pkt.map Packet.length).sum

/-- The packet in hand. -/
def Sec.packet (sec : Sec) : Packet := sec.pkt.getD sec.pktIdx { frameStart := false, dataType := 0, length := 0 }

/-- The packet in hand is used up. -/
def Sec.consume (sec : Sec) : Sec := { sec with bufOff := sec.bufOff + sec.packet.length, pktIdx := sec.pktIdx + 1 }

/-- The packet in hand begins a frame (47_fx_sector.md R520). -/
def Sec.begin (sec : Sec) : Sec :=
  if sec.packet.frameStart = true then { sec with asmStarted := true, asmSize := 0, asmDst := sec.secDst } else sec

/-- The data of the packet in hand are added to the frame (47_fx_sector.md R520). -/
def Sec.append (sec : Sec) : Sec :=
  { sec with
    asmBuf := sec.asmBuf.take sec.asmSize ++
      overwrite (sec.asmBuf.drop sec.asmSize) (bufBytes sec.secbuf sec.bufOff sec.packet.length)
    asmSize := sec.asmSize + sec.packet.length }

/-- No frame in progress; with `drop` the sector is given up as well (47_fx_sector.md R522, R523). -/
def Sec.abandon (sec : Sec) (drop : Bool) : Sec :=
  { sec with
    asmStarted := false, asmSize := 0
    pktIdx := if drop then 0 else sec.pktIdx
    pktCount := if drop then 0 else sec.pktCount }

/-- A change of the sector reader. -/
def State.setSec (s : State) (sec : Sec) : State := s.setFx { s.fx with sec := sec }

/-- `finish()` (47_fx_sector.md R520, R524). -/
def State.finishFrame (s : State) : Option Frame × State :=
  let s' := s.setSec { s.fx.sec with asmStarted := false }
  let sec := s.fx.sec
  if sec.asmDst = false ∧ sec.asmSize ≠ s.fx.ch * s.fx.frameBytes then
    s'.invalidFrame .frameDecodeError Cause.frameSize.code
  else
    (some { type := if sec.asmDst then .dst else .dsd, bytes := bufBytes sec.asmBuf 0 sec.asmSize }, s')

/-- `cap`, the capacity of the frame in progress (47_fx_sector.md R520). -/
def Fx.capacity (fx : Fx) : Nat := if fx.sec.asmDst then Config.inCap else fx.ch * fx.frameBytes

/-- The next sector fetched; `none` goes on with the loop (47_fx_sector.md R520, R522, R523). -/
def State.fetchSector (s : State) : Option (Option Frame × State) × State :=
  let sec := s.fx.sec
  let lsn := sec.curLsn
  let r := s.sectorRead lsn
  let moved := r.2.setFx { s.fx with
    cursor := sectorStart sec.psn (lsn + 1), sec := { sec with curLsn := lsn + 1 } }
  if r.1.length < Config.sectorBytes then
    let bad := moved.setSec (moved.fx.sec.abandon true)
    (some (bad.badFrame lsn), bad)
  else
    let sec' := moved.fx.sec.withSector r.1
    if Config.sectorBytes < sec'.claimed then
      let bad := moved.setSec (sec'.abandon true)
      (some (bad.invalidFrame .bufferOverflow lsn), bad)
    else (none, moved.setSec sec')

/-- One packet taken; `some` ends the call (47_fx_sector.md R520, R523). -/
def State.takePacket (s : State) : Option (Option Frame × State) × State :=
  let sec := s.fx.sec
  if sec.packet.dataType ≠ 2 then (none, s.setSec sec.consume)
  else if sec.packet.frameStart = true ∧ sec.asmStarted = true then (some s.finishFrame, s)
  else
    let sec' := sec.begin
    if sec'.asmStarted = false then (none, s.setSec sec'.consume)
    else if ({ s.fx with sec := sec' } : Fx).capacity < sec'.asmSize + sec.packet.length then
      let bad := s.setSec (sec'.consume.abandon false)
      (some (bad.invalidFrame .bufferOverflow (sec.curLsn - 1)), bad)
    else (none, s.setSec sec'.append.consume)

/-- The end of the track's sectors (47_fx_sector.md R520). -/
def State.endOfSectors (s : State) : Option Frame × State :=
  if s.fx.sec.asmStarted = true then s.finishFrame else (none, s)

/-- The read loop of 47_fx_sector.md R520. Every turn consumes a packet or fetches a sector, so `fuel` bounds it. -/
def State.sectorLoop : Nat → State → Option Frame × State
  | 0, s => (none, s)
  | fuel + 1, s =>
    let sec := s.fx.sec
    if sec.pktCount ≤ sec.pktIdx then
      if sec.trackStartLsn + sec.trackLenLsn ≤ sec.curLsn then s.endOfSectors
      else
        match s.fetchSector with
        | (some r, _) => r
        | (none, s') => State.sectorLoop fuel s'
    else
      match s.takePacket with
      | (some r, _) => r
      | (none, s') => State.sectorLoop fuel s'

/-- The turns the loop can take: 7 packets and a fetch for each sector left, the packets in hand, and the last turn. -/
def Sec.turns (sec : Sec) : Nat :=
  8 * (sec.trackStartLsn + sec.trackLenLsn - sec.curLsn) + (sec.pktCount - sec.pktIdx) + 1

/-- Disc `read_frame`; `none` is the end of the track (47_fx_sector.md R520). -/
def State.readSector (s : State) : Option Frame × State := State.sectorLoop s.fx.sec.turns s

/-- Disc `seek(frame)`: only frame 0; `none` is `E_OPERAND` (47_fx_sector.md R525). -/
def State.seekSector (s : State) (frame : Nat) : Option State :=
  if frame = 0 then some (s.setFx s.fx.rewindSector) else none

end Sys2Proof.Machine
end

