-- ==== Sys2Proof/Machine/Fx.lean ====
section
/-! DEFINITION. The frame extractor: container detection, tracks, read_frame, and the extractor's commands
(46_fx_files.md R450 to R462). -/

namespace Sys2Proof.Machine

/-! ## Container detection (46_fx_files.md R462) -/

/-- The `kind` operand lets a container kind be looked for. -/
def KindOperand.allows (k : KindOperand) (want : KindOperand) : Bool := k = .auto || k = want

/-- The probe of the disc layouts, LSN first (46_fx_files.md R462). -/
def openDisc : Scan Unit := do
  let m ← Scan.read (sectorOffset false Config.mtocLsn) 8
  if m = magicMasterToc then openSector false
  else
    let m' ← Scan.read (sectorOffset true Config.mtocLsn) 8
    if m' = magicMasterToc then openSector true
    else throw { exc := .unsupportedFormat, info := 0 }

/-- `fx_open(kind)` (46_fx_files.md R462). -/
def fxOpen (kind : KindOperand) : Scan Unit := do
  let m4 ← Scan.read 0 4
  if kind.allows .dsdiff && m4 = magicFrm8 then openDff
  else if kind.allows .dsf && m4 = magicDsd then openDsf
  else if kind.allows .sector then openDisc
  else throw { exc := .unsupportedFormat, info := 0 }

/-! ## Tracks -/

/-- `tracks_in(area)`: 1 for the file containers (46_fx_files.md R452, 47_fx_sector.md R505). -/
def Fx.tracksIn (fx : Fx) (area : AreaOperand) : Nat :=
  match fx.kind with
  | .none => 0
  | .sector => fx.sec.tracksIn area
  | .dsdiff => 1
  | .dsf => 1

/-- The sector of a disc's track list, read for a track; a short read answers its sector number. The file containers
have none (47_fx_sector.md R506; assumption log 16). -/
def State.readTrackList (s : State) (track : Nat) (area : AreaOperand) : Except Nat (List Byte) × State :=
  if s.fx.kind = .sector then
    let lsn := (s.fx.sec.place track area).1.trlLsn
    let r := s.sectorRead lsn
    if r.1.length < Config.sectorBytes then (.error lsn, r.2) else (.ok r.1, r.2)
  else (.ok [], s)

/-- The code of an area operand (30_encoding.md R142). -/
def AreaOperand.code : AreaOperand → Nat
  | .both => 0
  | .twoCh => 1
  | .mulCh => 2

/-- A track selected, by kind (46_fx_files.md R467, R480; 47_fx_sector.md R506). -/
def Fx.select (fx : Fx) (track : Nat) (area : AreaOperand) (list : List Byte) : Fx :=
  match fx.kind with
  | .none => fx
  | .sector => fx.selectSector (fx.sec.place track area).1 (fx.sec.place track area).2 list
  | .dsdiff => fx.selectDff
  | .dsf => fx.selectDsf

/-- The body of `SET_TRACK`, the track list having been read (46_fx_files.md R452). -/
def State.setTrackBody (s : State) (track : Nat) (area : AreaOperand) (list : List Byte) : State :=
  { s with
    errCount := 0
    fx := { s.fx.select track area list with
      curTrack := track, curArea := area.code, frameIndex := 0, eot := false, badReads := 0, trackSelected := true } }

/-! ## Frames -/

/-- The kind's own `read_frame`; `none` is the end of the track (46_fx_files.md R450, R455). -/
def State.readKind (s : State) : Option Frame × State :=
  match s.fx.kind with
  | .none => (none, s)
  | .sector => s.readSector
  | .dsdiff => s.readDff
  | .dsf => s.readDsf

/-- `read_frame()`; `none` is `(0, 0, DSD, empty)` (46_fx_files.md R451, R455). -/
def State.readFrameBody (s : State) : Option Frame × State :=
  if s.fx.eot = true then (none, s)
  else
    match s.readKind with
    | (none, s') => (none, s'.setFx { s'.fx with eot := true })
    | (some f, s') => (some f, s'.setFx { s'.fx with frameIndex := fitWidth 32 (s'.fx.frameIndex + 1) })

/-- The response value of `READ_FRAME` (30_encoding.md R148). -/
def frameValue (f : Frame) : Value := val (f.bytes.length + f.type.code * 2 ^ 24 + 2 ^ 27)

/-! ## The commands -/

/-- `SET_TRACK track, area` (46_fx_files.md R452). -/
def execSetTrack (track area : Nat) (s : State) : Out :=
  s.unlessOwned <|
    if s.sess ≠ .opened then s.fail .eState (val s.sess.code)
    else
      match areaOperand area with
      | none => s.fail .eOperand (val area)
      | some a =>
        if s.fx.tracksIn a ≤ track then s.fail .eOperand (val track)
        else
          match s.readTrackList track a with
          | (.error lsn, s') => s'.fail .badRead (val lsn)
          | (.ok list, s') =>
            let s'' := s'.setTrackBody track a list
            s''.ok (val s''.fx.ch)

/-- `READ_FRAME` and `SEEK` need an open container with a track selected (46_fx_files.md R455, R457). -/
def State.withTrack (s : State) (k : Out) : Out :=
  if s.sess ≠ .opened ∨ s.fx.trackSelected = false then s.fail .eState 0 else k

/-- `READ_FRAME` (46_fx_files.md R455). -/
def execReadFrame (s : State) : Out :=
  s.unlessOwned <| s.withTrack <|
    match s.readFrameBody with
    | (none, s') => s'.ok 0
    | (some f, s') => (s'.emit f.bytes).ok (frameValue f)

/-- `seek(frame)`, by kind; false is `E_OPERAND` (46_fx_files.md R457). -/
def State.seekKind (s : State) (frame : Nat) : Bool × State :=
  match s.fx.kind with
  | .none => (false, s)
  | .sector => ((s.seekSector frame).isSome, (s.seekSector frame).getD s)
  | .dsdiff => s.seekDff frame
  | .dsf => ((s.seekDsf frame).isSome, (s.seekDsf frame).getD s)

/-- `SEEK frame` (46_fx_files.md R457). -/
def execSeek (frame : Nat) (s : State) : Out :=
  s.unlessOwned <| s.withTrack <|
    match s.seekKind frame with
    | (false, s') => s'.fail .eOperand (val frame)
    | (true, s') => (s'.setFx { s'.fx with frameIndex := frame, eot := false }).ok (val frame)

/-- A command that reads the open container (46_fx_files.md R458 to R461). -/
def State.withContainer (s : State) (k : Out) : Out := if s.fx.kind = .none then s.fail .eState 0 else k

/-- `GET_CHANNELS` (46_fx_files.md R458). -/
def execGetChannels (s : State) : Out := s.withContainer <| s.ok (val s.fx.ch)

/-- `GET_SAMPLERATE` (46_fx_files.md R459). -/
def execGetSamplerate (s : State) : Out := s.withContainer <| s.ok (val s.fx.rate)

/-- `GET_FRAMERATE` (46_fx_files.md R460). -/
def execGetFramerate (s : State) : Out := s.withContainer <| s.ok (val Config.frameRate)

/-- `100·part div whole`, 0 for an unknown whole, capped at 100 (46_fx_files.md R461). -/
def percent (part whole : Nat) : Nat := if whole = 0 then 0 else min 100 (100 * part / whole)

/-- The progress of the extractor (46_fx_files.md R461). -/
def Fx.progress (fx : Fx) : Nat :=
  if fx.kind = .sector then
    (if fx.trackSelected = true then percent (fx.sec.curLsn - fx.sec.trackStartLsn) fx.sec.trackLenLsn else 0)
  else percent fx.frameIndex fx.frameTotal

/-- `GET_PROGRESS` (46_fx_files.md R461). -/
def execGetProgress (s : State) : Out := s.withContainer <| s.ok (val s.fx.progress)

end Sys2Proof.Machine
end

