-- ==== Sys2Proof/Machine/Float.lean ====
section
/-! DEFINITION. IEEE 754 binary64 and binary32 arithmetic on bit patterns, every operation rounded to nearest, ties to
even (00_scope.md R11; 45_dsd_pcm.md R385, R395, R396, R403, R410, R420). -/

namespace Sys2Proof.Machine

/-- What a floating-point bit pattern stands for: `finite neg m e` is `±m · 2^e`. -/
inductive FloatValue where
  | nan
  | infinite (neg : Bool)
  | finite (neg : Bool) (m : Nat) (e : Int)
  deriving DecidableEq, Repr

/-- A format: `frac` fraction bits and `expo` exponent bits. -/
structure FloatFormat where
  frac : Nat
  expo : Nat

/-- binary64. -/
def binary64 : FloatFormat := { frac := 52, expo := 11 }
/-- binary32. -/
def binary32 : FloatFormat := { frac := 23, expo := 8 }

/-- The exponent of the least subnormal: −1074 and −149. -/
def FloatFormat.least (f : FloatFormat) : Int := 2 - (2 ^ (f.expo - 1) : Nat) - f.frac

/-- The pattern of +∞, above every finite magnitude. -/
def FloatFormat.infinity (f : FloatFormat) : Nat := (2 ^ f.expo - 1) * 2 ^ f.frac

/-- The pattern of a sign and a magnitude. -/
def FloatFormat.signed (f : FloatFormat) (neg : Bool) (mag : Nat) : Nat := neg.toNat * 2 ^ (f.frac + f.expo) + mag

/-- What a pattern stands for. -/
def FloatFormat.value (f : FloatFormat) (bits : Nat) : FloatValue :=
  let neg := bits.testBit (f.frac + f.expo)
  let ef := bits / 2 ^ f.frac % 2 ^ f.expo
  let m := bits % 2 ^ f.frac
  if ef = 2 ^ f.expo - 1 then (if m = 0 then .infinite neg else .nan)
  else if ef = 0 then .finite neg m f.least
  else .finite neg (2 ^ f.frac + m) (f.least + (ef - 1 : Nat))

/-- `m / 2^shift` rounded to the nearest integer, ties to even. -/
def roundShift (m shift : Nat) : Nat :=
  let q := m / 2 ^ shift
  let r := 2 * (m % 2 ^ shift)
  if r < 2 ^ shift then q else if 2 ^ shift < r then q + 1 else q + q % 2

/-- The magnitude pattern of `m · 2^e` rounded to the format; too large a value is +∞. -/
def FloatFormat.roundMag (f : FloatFormat) (m : Nat) (e : Int) : Nat :=
  let lsb := max (e + bitlen m - (f.frac + 1)) f.least
  let mant := if e ≤ lsb then roundShift m (lsb - e).toNat else m * 2 ^ (e - lsb).toNat
  min f.infinity ((lsb - f.least).toNat * 2 ^ f.frac + mant)

/-- The pattern of `±m · 2^e` rounded to the format. -/
def FloatFormat.round (f : FloatFormat) (neg : Bool) (m : Nat) (e : Int) : Nat :=
  f.signed neg (if m = 0 then 0 else f.roundMag m e)

/-! ## binary64 -/

/-- A NaN; its payload is free (assumption log 19). -/
def f64NaN : F64 := 0x7FF8000000000000 ||| (Config.nanPayload64.setWidth 64)

/-- What a binary64 pattern stands for. -/
def f64Value (x : F64) : FloatValue := binary64.value x.toNat

/-- `±m · 2^e` as a binary64. -/
def f64Round (neg : Bool) (m : Nat) (e : Int) : F64 := BitVec.ofNat 64 (binary64.round neg m e)

/-- ±∞. -/
def f64Infinity (neg : Bool) : F64 := BitVec.ofNat 64 (binary64.signed neg binary64.infinity)

/-- A signed integer times `2^e`; the sign of an exact zero is given. -/
def f64OfInt (zeroNeg : Bool) (n : Int) (e : Int) : F64 :=
  if n = 0 then f64Round zeroNeg 0 0 else f64Round (n < 0) n.natAbs e

/-- A sign applied to a magnitude. -/
def signedInt (neg : Bool) (m : Nat) : Int := if neg then -(m : Int) else m

/-- One binary64 addition (45_dsd_pcm.md R385, R395). -/
def f64Add (x y : F64) : F64 :=
  match f64Value x, f64Value y with
  | .nan, _ | _, .nan => f64NaN
  | .infinite a, .infinite b => if a = b then f64Infinity a else f64NaN
  | .infinite a, .finite _ _ _ => f64Infinity a
  | .finite _ _ _, .infinite b => f64Infinity b
  | .finite a m e, .finite b n f =>
    let lo := min e f
    f64OfInt (a && b) (signedInt a m * 2 ^ (e - lo).toNat + signedInt b n * 2 ^ (f - lo).toNat) lo

/-- The product with −1.0, which is exact (45_dsd_pcm.md R385). -/
def f64Neg (x : F64) : F64 := x ^^^ 0x8000000000000000

/-- The magnitude. -/
def f64Abs (x : F64) : F64 := x &&& 0x7FFFFFFFFFFFFFFF

/-- Neither an infinity nor a NaN. -/
def f64Finite (x : F64) : Bool := (f64Abs x).toNat < binary64.infinity

/-- One binary64 multiplication (45_dsd_pcm.md R410). -/
def f64Mul (x y : F64) : F64 :=
  match f64Value x, f64Value y with
  | .nan, _ | _, .nan => f64NaN
  | .infinite a, .infinite b => f64Infinity (a ^^ b)
  | .infinite a, .finite b m _ | .finite b m _, .infinite a => if m = 0 then f64NaN else f64Infinity (a ^^ b)
  | .finite a m e, .finite b n f => f64Round (a ^^ b) (m * n) (e + f)

/-- The binary64 nearest to `n / d`, `d ≠ 0`: the quotient to 64 bits or more beyond the rounding point, with a last bit
that tells a remainder (45_dsd_pcm.md R403, R410). -/
def f64OfRatio (n d : Nat) : F64 :=
  let k := 64 + bitlen d
  f64Round false (2 * (n * 2 ^ k / d) + (if n * 2 ^ k % d = 0 then 0 else 1)) (-(k : Int) - 1)

/-- `clamp1(z)` (45_dsd_pcm.md R396). -/
def clamp1 (z : F64) : F64 :=
  match f64Value z with
  | .nan => z
  | _ =>
    if z.toNat < 2 ^ 63 ∧ 0x3FF0000000000000 < z.toNat then 0x3FF0000000000000
    else if 0xBFF0000000000000 < z.toNat then 0xBFF0000000000000
    else z

/-! ## binary32 -/

/-- A NaN; its payload is free (assumption log 19). -/
def f32NaN : F32 := 0x7FC00000 ||| (Config.nanPayload32.setWidth 32)

/-- `to_f32`: the conversion from binary64 to binary32 (45_dsd_pcm.md R396). -/
def toF32 (x : F64) : F32 :=
  match f64Value x with
  | .nan => f32NaN
  | .infinite neg => BitVec.ofNat 32 (binary32.signed neg binary32.infinity)
  | .finite neg m e => BitVec.ofNat 32 (binary32.round neg m e)

/-- `f64(v)`: the conversion from binary32 to binary64, which is exact (45_dsd_pcm.md R410). -/
def toF64 (v : F32) : F64 :=
  match binary32.value v.toNat with
  | .nan => f64NaN
  | .infinite neg => f64Infinity neg
  | .finite neg m e => f64Round neg m e

/-! ## The packer (45_dsd_pcm.md R420) -/

/-- `±m · 2^e` rounded to the nearest integer, ties to even. -/
def roundToInt (neg : Bool) (m : Nat) (e : Int) : Int :=
  signedInt neg (if e < 0 then roundShift m (-e).toNat else m * 2 ^ e.toNat)

/-- A sample scaled by `2^23`, rounded and clamped. -/
def packInt (v : F32) : Int :=
  let i := match binary32.value v.toNat with
    | .nan => Config.packNaN v
    | .infinite neg => signedInt neg (2 ^ 24)
    | .finite neg m e => roundToInt neg m (e + 23)
  max Config.pcmMin (min Config.pcmMax i)

/-- `pack24(v)`: three bytes, least significant first. -/
def pack24 (v : F32) : List Byte := leBytes 3 (packInt v % 2 ^ 24).toNat

end Sys2Proof.Machine
end

