-- ==== Sys2Proof/Machine/Coef.lean ====
section
/-! DEFINITION. The converter's mode table and the coefficient table `COEF` (45_dsd_pcm.md R371, R375). The table's
values are free within the constraints (a) to (e) of R375 and R396 (assumption log 2). -/

namespace Sys2Proof.Machine

/-- The mode registers of a row of the mode table (10_state.md R80). -/
structure Mode where
  resample : Bool
  u : Nat
  d : Nat
  t : Nat
  spf : Nat
  deriving DecidableEq, Repr

/-- The mode table (45_dsd_pcm.md R371). -/
def mode (k pcm : Nat) : Mode :=
  match pcm with
  | 88200 => { resample := false, u := 1, d := 32 * k, t := Config.tapsDec k, spf := Config.samplesPerFrame pcm }
  | 176400 => { resample := false, u := 1, d := 16 * k, t := Config.tapsDec k, spf := Config.samplesPerFrame pcm }
  | 96000 => { resample := true, u := 5, d := 147 * k, t := Config.tapsRes k 1, spf := Config.samplesPerFrame pcm }
  | _ => { resample := true, u := 10, d := 147 * k, t := Config.tapsRes k 2, spf := Config.samplesPerFrame pcm }

/-- `2·FC_NORM(K, pcm)` as numerator and denominator: any rational strictly between 0 and 1 (45_dsd_pcm.md R375 (d)). -/
def cutOff (k pcm : Nat) : Nat × Nat := Config.fcNorm k pcm

/-- Index `i` is a node: `i ≠ M` and `2·FC_NORM·(i − M)` is an integer; `dist` is `|i − M|` (45_dsd_pcm.md R375 (d)). -/
def nodal (k pcm dist : Nat) : Bool := dist ≠ 0 && (cutOff k pcm).1 * dist % (cutOff k pcm).2 = 0

/-- `|i − M|` with `M = (t − 1) / 2`. -/
def centreDistance (t i : Nat) : Nat := (i - (t - 1) / 2) + ((t - 1) / 2 - i)

/-- The free table: symmetric, with the exact zeros at the nodes (45_dsd_pcm.md R375 (a), (c), (d)). -/
def freeTable (k pcm : Nat) : List F64 :=
  (List.range (mode k pcm).t).map fun i =>
    let dist := centreDistance (mode k pcm).t i
    if nodal k pcm dist then 0 else Config.coefRaw k pcm dist

/-- The table that is `pc_U` at the centre and 0 elsewhere: it meets (a) to (e) whatever the cut-off is. -/
def deltaTable (k pcm : Nat) : List F64 :=
  (List.range (mode k pcm).t).map fun i =>
    if centreDistance (mode k pcm).t i = 0 then f64Round false (mode k pcm).u 0 else 0

/-- The sum in index order, in binary64 (45_dsd_pcm.md R375 (e)). -/
def f64Sum (h : List F64) : F64 := h.foldl f64Add 0

/-- Every `stride`-th entry, from the first on; `skip` entries come before the next one taken. -/
def everyNth {α : Type} (stride : Nat) : Nat → List α → List α
  | _, [] => []
  | 0, x :: xs => x :: everyNth stride (stride - 1) xs
  | skip + 1, _ :: xs => everyNth stride skip xs

/-- The exponent of the last place of `pc_U`: `u < 2^bitlen u`, and binary64 keeps 53 bits. -/
def lastPlace (u : Nat) : Int := (bitlen u : Int) - 53

/-- The sum `±m · 2^e` is `u` to within `t` units in the last place (45_dsd_pcm.md R375 (e)). -/
def gainWithin (u t : Nat) (sum : F64) : Bool :=
  match f64Value sum with
  | .finite neg m e =>
    let lo := min e (lastPlace u)
    let diff := signedInt neg m * 2 ^ (e - lo).toNat - (u : Int) * 2 ^ (-lo).toNat
    diff.natAbs ≤ t * 2 ^ (lastPlace u - lo).toNat
  | _ => false

/-- Every partial sum of rule R385 is finite, whatever the input: the sums of the magnitudes of each phase are
(45_dsd_pcm.md R396). -/
def partialSumsFinite (u : Nat) (h : List F64) : Bool :=
  (List.range u).all fun phase => f64Finite (f64Sum ((everyNth u phase h).map f64Abs))

/-- The constraints (b), (e) and R396 on a table (45_dsd_pcm.md R375). -/
def tableLegal (k pcm : Nat) (h : List F64) : Bool :=
  h.all f64Finite && gainWithin (mode k pcm).u (mode k pcm).t (f64Sum h) && partialSumsFinite (mode k pcm).u h

/-- `COEF(K, pcm)` (45_dsd_pcm.md R375): the free table where it is legal. -/
def coef (k pcm : Nat) : List F64 :=
  if tableLegal k pcm (freeTable k pcm) then freeTable k pcm else deltaTable k pcm

end Sys2Proof.Machine
end

