-- ==== Sys2Proof/Machine/Pcm.lean ====
section
/-! DEFINITION. The DSD-to-PCM converter and its commands (45_dsd_pcm.md). -/

namespace Sys2Proof.Machine

/-! ## Delay (45_dsd_pcm.md R400 to R402) -/

/-- `delay = pc_T / (2 · pc_D)`, exact (45_dsd_pcm.md R400). -/
def delayOf (m : Mode) : Frac := { num := m.t, den := 2 * m.d }

/-- `min(delay, spf − 1)`; a delay is never negative (45_dsd_pcm.md R401). -/
def clampDelay (d : Frac) (spf : Nat) : Frac :=
  if d.num ≤ (spf - 1) * d.den then d else { num := spf - 1, den := 1 }

/-- `max(trunc(delay − 1/2), 0)` (45_dsd_pcm.md R402). -/
def outDelta (d : Frac) : Nat := (2 * d.num - d.den) / (2 * d.den)

/-- `ceil(delay)` (45_dsd_pcm.md R402). -/
def ceilFrac (d : Frac) : Nat := (d.num + d.den - 1) / d.den

/-! ## Initialisation (45_dsd_pcm.md R370) -/

/-- The converter right after `PC_INIT`. `PCMBUF` keeps its contents, which `pcm_n = 0` hides. -/
def Pc.start (old : Pc) (ch k pcm : Nat) (seed : Word) : Pc :=
  let m := mode k pcm
  let clamped := clampDelay (delayOf m) m.spf
  { ch := ch, t := m.t, d := m.d, u := m.u, resample := m.resample, k := k, spf := m.spf, h := coef k pcm,
    hist := List.replicate ch [], rxCount := 0, outCount := 0, lcg := seed,
    delay := delayOf m, delayClamped := clamped, pcmOutDelta := outDelta clamped, fadeLen := ceilFrac clamped,
    convertCalled := false, pcmBuf := old.pcmBuf, pcmN := 0 }

/-- The 32-bit seed (45_dsd_pcm.md R370). -/
def State.ditherSeed (s : State) : Word := s.ditherSeedHi ++ s.ditherSeedLo

/-- The body of `PC_INIT` (45_dsd_pcm.md R370). -/
def State.pcInitBody (s : State) (ch k pcm : Nat) : State := { s with pc := s.pc.start ch k pcm s.ditherSeed }

/-! ## Conversion (45_dsd_pcm.md R385 to R396) -/

/-- The sum of rule R385 in ascending tap order: one coefficient in every `stride`, one input sample each, newest
first; it ends with the taps or with the input. -/
def fir (stride : Nat) : F64 → List F64 → List Bool → F64
  | acc, h :: hs, x :: xs => fir stride (f64Add acc (if x then h else f64Neg h)) (hs.drop (stride - 1)) xs
  | acc, _, _ => acc

/-- `y_c[m]` for a channel with the history given, newest first (45_dsd_pcm.md R385). -/
def Pc.output (pc : Pc) (hist : List Bool) (m : Nat) : F64 :=
  let n := (m + 1) * pc.d - 1
  fir pc.u 0 (pc.h.drop (n % pc.u)) (hist.drop (pc.rxCount - 1 - n / pc.u))

/-- `next()` of the dither generator (45_dsd_pcm.md R395). -/
def lcgNext (x : Word) : Word := Config.lcgA * x + Config.lcgC

/-- `dither(y)`: the generator after its draws, and the value (45_dsd_pcm.md R395). -/
def dither (depth : Nat) (lcg : Word) (y : F64) : Word × F64 :=
  if depth = 0 then (lcg, y)
  else
    let s1 := lcgNext lcg
    let s2 := lcgNext s1
    (s2, f64Add y (f64OfInt false ((s1.toNat : Int) - s2.toNat) (-(31 + depth : Nat))))

/-- One output sample of every channel, channel 0 first (45_dsd_pcm.md R390). -/
def Pc.sampleRow (pc : Pc) (depth : Nat) : List (List Bool) → Word → List F32 × Word
  | [], lcg => ([], lcg)
  | hist :: hists, lcg =>
    let (lcg', z) := dither depth lcg (pc.output hist pc.outCount)
    let (row, lcg'') := pc.sampleRow depth hists lcg'
    (toF32 (clamp1 z) :: row, lcg'')

/-- The `while` loop of rule R390: `n` samples are due. The samples are gathered newest first. -/
def Pc.emitSamples (depth : Nat) : Nat → Pc → List F32 → Pc × List F32
  | 0, pc, out => (pc, out)
  | n + 1, pc, out =>
    let (row, lcg) := pc.sampleRow depth pc.hist pc.lcg
    Pc.emitSamples depth n { pc with lcg := lcg, pcmN := pc.pcmN + 1, outCount := pc.outCount + 1 } (row.reverse ++ out)

/-- Samples due and not yet produced (45_dsd_pcm.md R391). -/
def Pc.due (pc : Pc) : Nat := pc.rxCount * pc.u / pc.d - pc.outCount

/-- One input bit of every channel (45_dsd_pcm.md R386, R390). -/
def Pc.feedBits (depth : Nat) (row : List Bool) (pc : Pc) (out : List F32) : Pc × List F32 :=
  let pc' := { pc with hist := List.zipWith List.cons row pc.hist, rxCount := pc.rxCount + 1 }
  Pc.emitSamples depth pc'.due pc' out

/-- The bits of one byte of every channel from bit `k` on, earliest first; `n` bits (45_dsd_pcm.md R386). -/
def Pc.feedByteRow (depth : Nat) (row : List Byte) : Nat → Nat → Pc → List F32 → Pc × List F32
  | 0, _, pc, out => (pc, out)
  | n + 1, k, pc, out =>
    let (pc', out') := pc.feedBits depth (row.map fun b => byteBit b k) out
    Pc.feedByteRow depth row n (k + 1) pc' out'

/-- `n` bytes of every channel, interleaved by byte (45_dsd_pcm.md R390). -/
def Pc.feedBytes (depth : Nat) : Nat → List Byte → Pc → List F32 → Pc × List F32
  | 0, _, pc, out => (pc, out)
  | n + 1, bytes, pc, out =>
    let (pc', out') := Pc.feedByteRow depth (bytes.take pc.ch) 8 0 pc out
    Pc.feedBytes depth n (bytes.drop pc.ch) pc' out'

/-- The converter after the input bytes given (45_dsd_pcm.md R390). -/
def Pc.convert (pc : Pc) (depth : Nat) (bytes : List Byte) : Pc :=
  let n := bytes.length / pc.ch
  let (pc', out) := Pc.feedBytes depth n bytes { pc with pcmN := 0, convertCalled := pc.convertCalled || n ≠ 0 } []
  { pc' with pcmBuf := overwrite pc.pcmBuf out.reverse }

/-- The body of `PC_CONVERT` (45_dsd_pcm.md R390). -/
def State.pcConvertBody (s : State) (bytes : List Byte) : State := { s with pc := s.pc.convert s.ditherDepth bytes }

/-! ## Degibbs (45_dsd_pcm.md R410) -/

/-- `PCMBUF` element times `j / len` (45_dsd_pcm.md R410). -/
def fade (v : F32) (j len : Nat) : F32 := toF32 (f64Mul (toF64 v) (f64OfRatio j len))

/-- The gain index of sample `i` in the window of `n` samples at `start`: its distance from the faded edge
(45_dsd_pcm.md R410). -/
def fadeIndex (start n : Nat) (side : Bool) (i : Nat) : Nat := if side then start + n - 1 - i else i - start

/-- Sample `i` lies in the window and within `len` samples of its faded edge. -/
def faded (start n len : Nat) (side : Bool) (i : Nat) : Bool :=
  start ≤ i && i < start + n && fadeIndex start n side i < len

/-- The window is too short to be faded: `2·delay > n` (45_dsd_pcm.md R410). -/
def Pc.fadeSkipped (pc : Pc) (n : Nat) : Bool := n * pc.delayClamped.den < 2 * pc.delayClamped.num

/-- `degibbs(start, n, side)`: the samples scaled, and the converter (45_dsd_pcm.md R410). -/
def Pc.degibbs (pc : Pc) (start n : Nat) (side : Bool) : Nat × Pc :=
  if pc.fadeSkipped n = true then (0, pc)
  else
    (pc.fadeLen, { pc with
      pcmBuf := pc.pcmBuf.mapIdx fun e v =>
        if faded start n pc.fadeLen side (e / pc.ch) = true then fade v (fadeIndex start n side (e / pc.ch)) pc.fadeLen
        else v })

/-! ## Output (45_dsd_pcm.md R420, R422) -/

/-- `n` elements of `PCMBUF` whose rest from index `i` on is given; elements nothing has written are unspecified. -/
def sampleTake : Nat → Nat → List F32 → List F32
  | 0, _, _ => []
  | n + 1, i, [] => Config.unspecSample i :: sampleTake n (i + 1) []
  | n + 1, i, v :: vs => v :: sampleTake n (i + 1) vs

/-- Samples `skip .. skip + count − 1` of every channel. -/
def Pc.samples (pc : Pc) (skip count : Nat) : List F32 :=
  sampleTake (count * pc.ch) (skip * pc.ch) (pc.pcmBuf.drop (skip * pc.ch))

/-- The DOUT bytes of the body of `PC_PACK` (45_dsd_pcm.md R420). -/
def Pc.packed (pc : Pc) (skip count : Nat) : List Byte := (pc.samples skip count).flatMap pack24

/-! ## The commands -/

/-- A converter command before `PC_INIT` is refused with `E_STATE` (60_exceptions.md R602). -/
def State.withConverter (s : State) (k : Pc → Out) : Out := if s.pc.t = 0 then s.fail .eState 0 else k s.pc

/-- `PC_INIT ch, dsd, pcm` (45_dsd_pcm.md R370). -/
def execPcInit (ch dsd pcm : Nat) (s : State) : Out :=
  s.unlessOwned <|
    if channelsLegal ch = false then s.fail .eOperand (val ch)
    else
      match dsdOperand dsd, pcmOperand pcm with
      | none, _ => s.fail .eOperand (val dsd)
      | _, none => s.fail .eOperand (val pcm)
      | some k, some rate =>
        let s' := s.pcInitBody ch k rate
        s'.ok (val s'.pc.t)

/-- `PC_CONVERT size` (45_dsd_pcm.md R390). -/
def execPcConvert (size : Nat) (s : State) : Out :=
  s.unlessOwned <| s.withConverter fun pc =>
    if size % pc.ch ≠ 0 ∨ Config.orderFrameBytes pc.k < size / pc.ch then s.fail .eOperand (val size)
    else s.takeDin size (.pcConvert size) fun bytes s' =>
      let s'' := s'.pcConvertBody bytes
      s''.ok (val s''.pc.pcmN)

/-- `PC_GET_DELAY` (45_dsd_pcm.md R403). -/
def execPcGetDelay (s : State) : Out :=
  s.withConverter fun pc => s.ok (f64OfRatio pc.delayClamped.num pc.delayClamped.den)

/-- `PC_IS_CONVERT_CALLED` (45_dsd_pcm.md R404). -/
def execPcIsConvertCalled (s : State) : Out := s.ok (val s.pc.convertCalled.toNat)

/-- `PC_DEGIBBS side, n` (45_dsd_pcm.md R410). -/
def execPcDegibbs (side n : Nat) (s : State) : Out :=
  s.unlessOwned <| s.withConverter fun pc =>
    match sideOperand side with
    | none => s.fail .eOperand (val n)
    | some out =>
      if pc.pcmN < n then s.fail .eOperand (val n)
      else ({ s with pc := (pc.degibbs 0 n out).2 } : State).ok (val (pc.degibbs 0 n out).1)

/-- `PC_PACK skip, count` (45_dsd_pcm.md R420). -/
def execPcPack (skip count : Nat) (s : State) : Out :=
  s.unlessOwned <| s.withConverter fun pc =>
    if pc.pcmN < skip + count then s.fail .eOperand (val pc.pcmN)
    else (s.emit (pc.packed skip count)).ok (val count)

/-- `PC_READF` (45_dsd_pcm.md R422). -/
def execPcReadf (s : State) : Out :=
  s.unlessOwned <| s.withConverter fun pc =>
    (s.emit ((pc.samples 0 pc.pcmN).flatMap fun v => leBytes 4 v.toNat)).ok (val pc.pcmN)

end Sys2Proof.Machine
end

