-- ==== Sys2Proof/Machine/DstHeader.lean ====
section
/-! DEFINITION. The header of a DST frame: segmentation, mapping, filter tables, Ptables (42_dst_header.md R250 to
R267). A parse runs on the slot and ends with a value or with the sub-cause of a FrameDecodeError (R275). -/

namespace Sys2Proof.Machine

/-- A part of a frame decode: it changes the slot and ends with a value or with a sub-cause (42_dst_header.md R275). -/
abbrev Parse := EStateM Cause Slot

/-- A BitReader operation inside a frame decode; `OutOfData` becomes the sub-cause `OUT_OF_DATA` (R275). -/
def Parse.read {α : Type} (f : BitReader → Option α × BitReader) : Parse α := fun sl =>
  match f sl.br with
  | (some v, b) => .ok v { sl with br := b }
  | (none, b) => .error .outOfData { sl with br := b }

/-- `read_bits(n)` inside a frame decode. -/
def Parse.bits (n : Nat) : Parse Nat := Parse.read (fun b => b.readBits n)

/-- `read_signed(n)` inside a frame decode. -/
def Parse.signed (n : Nat) : Parse Int := Parse.read (fun b => b.readSigned n)

/-- `rice(m)` inside a frame decode. -/
def Parse.rice (m : Nat) : Parse Int := Parse.read (fun b => b.rice m)

/-- `n` values read one after the other. -/
def Parse.times {α : Type} (p : Parse α) : Nat → Parse (List α)
  | 0 => pure []
  | n + 1 => do
    let v ← p
    let vs ← Parse.times p n
    pure (v :: vs)

/-- A change of the frame decoder's registers. -/
def Parse.setFd (f : FrameDec → FrameDec) : Parse Unit := fun sl => .ok () { sl with fd := f sl.fd }

/-- `raise FrameDecodeError(cause)` unless the check holds. -/
def Parse.check (ok : Bool) (cause : Cause) : Parse Unit := if ok then pure () else throw cause

/-! ## Segmentation (42_dst_header.md R252 to R254) -/

/-- `nsegs[ch]` (42_dst_header.md R252): the explicit segments and the last one. -/
def Segmentation.nsegs (sg : Segmentation) (ch : Nat) : Nat := (sg.seglen.getD ch []).length + 1

/-- The running values of `read_segmentation` within a channel (42_dst_header.md R252): the resolution once read, and
for the channel the segments so far, the bits they define and the bytes left. -/
structure SegRun where
  resolution : Option Nat
  segnr : Nat
  defined : Nat
  maxsz : Nat

/-- `S.resolution`, read once; `m` is the bound `M` (42_dst_header.md R252). -/
def segResolution (m : Nat) (r : SegRun) : Parse Nat :=
  match r.resolution with
  | some v => pure v
  | none => do
    let v ← Parse.bits (bitlen m)
    Parse.check (v ≠ 0 && v ≤ m) .segResolution
    pure v

/-- `read_one(ch)` (42_dst_header.md R252): one explicit segment length. -/
def readOneSegment (fb minbits : Nat) (r : SegRun) : Parse (Nat × SegRun) := do
  Parse.check (r.segnr < Config.maxSegs - 1) .segCount
  let res ← segResolution (fb - minbits / 8) r
  let len ← Parse.bits (bitlen (r.maxsz / res))
  let nb := res * 8 * len
  Parse.check (minbits ≤ nb && nb + r.defined + minbits ≤ Config.frameBits fb) .segLength
  pure (len, { resolution := some res, segnr := r.segnr + 1, defined := r.defined + nb, maxsz := r.maxsz - res * len })

/-- The explicit segments of one channel up to its `EndOfChannel` bit. The count check ends the loop within `maxSegs`
turns, which `fuel` counts. -/
def readChannelSegments (fb minbits : Nat) : Nat → SegRun → Parse (List Nat × SegRun)
  | 0, _ => throw .segCount
  | fuel + 1, r => do
    let eoc ← Parse.bits 1
    if eoc ≠ 0 then pure ([], r)
    else
      let (len, r') ← readOneSegment fb minbits r
      let (lens, r'') ← readChannelSegments fb minbits fuel r'
      pure (len :: lens, r'')

/-- A channel starts with no segment and all its bytes left. -/
def SegRun.start (fb minbits : Nat) (resolution : Option Nat) : SegRun :=
  { resolution := resolution, segnr := 0, defined := 0, maxsz := fb - minbits / 8 }

/-- The segments of `n` channels, each on its own (`SameSegAllCh = 0`). -/
def readEachChannel (fb minbits : Nat) : Nat → Option Nat → Parse (List (List Nat) × Option Nat)
  | 0, res => pure ([], res)
  | n + 1, res => do
    let (lens, r) ← readChannelSegments fb minbits (Config.maxSegs + 1) (.start fb minbits res)
    let (rest, res') ← readEachChannel fb minbits n r.resolution
    pure (lens :: rest, res')

/-- `read_segmentation(minbits)` (42_dst_header.md R252). -/
def readSegmentation (ch fb minbits : Nat) : Parse Segmentation := do
  let same ← Parse.bits 1
  if same = 1 then
    let (lens, r) ← readChannelSegments fb minbits (Config.maxSegs + 1) (.start fb minbits none)
    pure { resolution := r.resolution.getD 1, seglen := List.replicate ch lens }
  else
    let (rows, res) ← readEachChannel fb minbits ch none
    pure { resolution := res.getD 1, seglen := rows }

/-- The segment a bit lies in, from the segment `s` on that starts at bit `start` (42_dst_header.md R254). -/
def segFrom (unit bn : Nat) : List Nat → Nat → Nat → Nat
  | [], s, _ => s
  | len :: lens, s, start => if bn < start + unit * len then s else segFrom unit bn lens (s + 1) (start + unit * len)

/-- `seg_of(S, ch, bn)` (42_dst_header.md R254). -/
def segOf (sg : Segmentation) (ch bn : Nat) : Nat := segFrom (sg.resolution * 8) bn (sg.seglen.getD ch []) 0 0

/-! ## Mapping (42_dst_header.md R255 to R258) -/

/-- `read_number()` (42_dst_header.md R256): the table number and the new table count. -/
def readTableNumber (count : Nat) : Parse (Nat × Nat) := do
  let v ← Parse.bits (bitlen count)
  Parse.check (v ≤ count) .tableNumber
  pure (v, if v = count then count + 1 else count)

/-- `n` table numbers in a row. -/
def readTableNumbers : Nat → Nat → Parse (List Nat × Nat)
  | 0, count => pure ([], count)
  | n + 1, count => do
    let (v, count') ← readTableNumber count
    let (vs, count'') ← readTableNumbers n count'
    pure (v :: vs, count'')

/-- The rows of the channels `ch, ch + 1, …` (`SameMapAllCh = 0`): the first segment of channel 0 has no field. -/
def readMapRows (sg : Segmentation) : Nat → Nat → Nat → Parse (List (List Nat) × Nat)
  | 0, _, count => pure ([], count)
  | n + 1, ch, count => do
    let (row, count') ←
      if ch = 0 then do
        let (vs, c) ← readTableNumbers (sg.nsegs 0 - 1) count
        pure (0 :: vs, c)
      else readTableNumbers (sg.nsegs ch) count
    let (rows, count'') ← readMapRows sg n (ch + 1) count'
    pure (row :: rows, count'')

/-- Every one of the first `ch` channels has as many segments as `n` says. -/
def sameCounts (ch : Nat) (n : Nat → Nat) (m : Nat → Nat) : Bool := (List.range ch).all fun c => n c = m c

/-- `read_mapping(S)` (42_dst_header.md R256): the table of each segment and the number of tables. -/
def readMapping (ch : Nat) (sg : Segmentation) : Parse (List (List Nat) × Nat) := do
  let same ← Parse.bits 1
  let (rows, count) ←
    if same = 1 then do
      let (vs, c) ← readTableNumbers (sg.nsegs 0 - 1) 1
      Parse.check (sameCounts ch sg.nsegs (fun _ => sg.nsegs 0)) .mapMismatch
      pure (List.replicate ch (0 :: vs), c)
    else readMapRows sg ch 0 1
  Parse.check (count ≤ Config.maxTables ch) .tableCount
  pure (rows, count)

/-! ## Filters and Ptables (42_dst_header.md R260 to R267) -/

/-- `FCPRED[method]` (42_dst_header.md R263), most recent entry first. -/
def fcpred (method : Nat) : List Int :=
  if method = 0 then [-8] else if method = 1 then [-16, 8] else [-9, -5, 6]

/-- `PCPRED[method]` (42_dst_header.md R263). -/
def pcpred (method : Nat) : List Int :=
  if method = 0 then [-8] else if method = 1 then [-16, 8] else [-24, 24, -8]

/-- `x = Σ PRED[method][k] · entry[i − k − 1]`; the earlier entries come newest first (42_dst_header.md R262). -/
def tablePrediction : List Int → List Int → Int
  | p :: ps, e :: es => p * e + tablePrediction ps es
  | _, _ => 0

/-- The entry a Rice value stands for, given the prediction sum (42_dst_header.md R262). -/
def tableEntry (x r : Int) : Int := if 0 ≤ x then r - (x + 4) / 8 else r + (-x + 3) / 8

/-- `n` Rice-coded entries after the ones given newest first; the result is all entries, newest first
(42_dst_header.md R262, R267). -/
def readRiceEntries (pred : List Int) (m : Nat) (lo hi : Int) (cause : Cause) : Nat → List Int → Parse (List Int)
  | 0, newest => pure newest
  | n + 1, newest => do
    let r ← Parse.rice m
    let c := tableEntry (tablePrediction pred newest) r
    Parse.check (lo ≤ c && c ≤ hi) cause
    readRiceEntries pred m lo hi cause n (c :: newest)

/-- A Rice-coded table of `len` entries: the method, its raw first entries, the parameter, the rest
(42_dst_header.md R262, R267). -/
def readRiceTable (preds : Nat → List Int) (first : Parse Int) (lo hi : Int) (cause : Cause) (len : Nat) :
    Parse (List Int) := do
  let method ← Parse.bits Config.sizeRiceMethod
  Parse.check (method < Config.nRiceMethods) .riceMethod
  Parse.check (method + 1 < len) .riceOrder
  let raw ← Parse.times first (method + 1)
  let m ← Parse.bits Config.sizeRiceM
  let entries ← readRiceEntries (preds method) m lo hi cause (len - (method + 1)) raw.reverse
  pure entries.reverse

/-- `read_filter(f)` (42_dst_header.md R260 to R262). -/
def readFilter : Parse (List Int) := do
  let order ← Parse.bits Config.sizeCodedPredOrder
  let coded ← Parse.bits 1
  if coded = 0 then Parse.times (Parse.signed Config.sizePredCoef) (order + 1)
  else readRiceTable fcpred (Parse.signed Config.sizePredCoef) (-256) 255 .coefRange (order + 1)

/-- A raw Ptable entry: `read_bits(7) + 1` (42_dst_header.md R266). -/
def readPtableEntry : Parse Int := do
  let v ← Parse.bits 7
  pure ((v : Int) + 1)

/-- `read_ptable(p)` (42_dst_header.md R265 to R267): a table of length 1 has no `coded` bit. -/
def readPtable : Parse (List Int) := do
  let len ← Parse.bits Config.acHisBits
  if len = 0 then pure [128]
  else
    let coded ← Parse.bits 1
    if coded = 0 then Parse.times readPtableEntry (len + 1)
    else readRiceTable pcpred readPtableEntry 1 128 .ptableRange (len + 1)

/-! ## The whole header (42_dst_header.md R250) -/

/-- The Ptable segmentation: a copy of the filter segmentation or one of its own (42_dst_header.md R251, R253). -/
def readPtableSegmentation (same ch fb : Nat) (fseg : Segmentation) : Parse Segmentation :=
  if same = 1 then pure fseg else readSegmentation ch fb Config.minPsegBits

/-- The Ptable mapping: `copy_mapping()` or one of its own (42_dst_header.md R255, R257). -/
def readPtableMapping (same ch : Nat) (fseg pseg : Segmentation) (fmap : List (List Nat) × Nat) :
    Parse (List (List Nat) × Nat) :=
  if same = 1 then do
    Parse.check (sameCounts ch pseg.nsegs fseg.nsegs) .mapMismatch
    pure fmap
  else readMapping ch pseg

/-- The header of a DST-coded frame after its first bit (42_dst_header.md R250), for `ch` channels of `fb` bytes. -/
def readHeader (ch fb : Nat) : Parse Unit := do
  let sameSeg ← Parse.bits 1
  let fseg ← readSegmentation ch fb Config.minFsegBits
  Parse.setFd fun fd => { fd with fseg := fseg }
  let pseg ← readPtableSegmentation sameSeg ch fb fseg
  Parse.setFd fun fd => { fd with pseg := pseg }
  let sameMap ← Parse.bits 1
  let fmap ← readMapping ch fseg
  Parse.setFd fun fd => { fd with ftab := fmap.1, nfilters := fmap.2 }
  let pmap ← readPtableMapping sameMap ch fseg pseg fmap
  Parse.setFd fun fd => { fd with ptab := pmap.1, nptables := pmap.2 }
  let half ← Parse.times (Parse.bits 1) ch
  Parse.setFd fun fd => { fd with halfprob := half.map (· == 1), dstate := .readFilterTables }
  let filters ← Parse.times readFilter fmap.2
  Parse.setFd fun fd => { fd with coef := filters, dstate := .readPtables }
  let tables ← Parse.times readPtable pmap.2
  Parse.setFd fun fd => { fd with pone := tables }

end Sys2Proof.Machine
end

