-- ==== Sys2Proof/Machine/DstFrame.lean ====
section
/-! DEFINITION. The decode of one DST frame in a slot: frame kinds, residual decoding, reconstruction, termination
(43_dst_residual.md R300 to R314), the slot's agent step (44_dst_pool.md R344), and DST_DECODE, SLOT_READ and the two
frame rows. -/

namespace Sys2Proof.Machine

/-! ## Plain frames (43_dst_residual.md R301) -/

/-- `n` calls of `read_byte_aligned()` in a row, the cursor being aligned: the bytes, or how far they got before the
buffer ended (40_bitreader.md R205). `Laws/BitReader.lean` shows it is the loop. -/
def BitReader.readBytesAligned (b : BitReader) (n : Nat) : Option (List Byte) × BitReader :=
  if n = 0 then (some [], b)
  else if b.brErr = true then (none, b)
  else if b.alignedPos + 8 * n ≤ b.totalBits then
    (some (bufBytes b.inbuf (b.alignedPos / 8) n), { b with pos := b.alignedPos + 8 * n })
  else if b.alignedPos + 8 ≤ b.totalBits then
    (none, { b with pos := b.alignedPos + (b.totalBits - b.alignedPos) / 8 * 8, brErr := true })
  else (none, b.markError)

/-- `plain_frame()` (43_dst_residual.md R301). -/
def plainFrame (ch fb : Nat) : Parse Unit := do
  let _ ← Parse.bits 1
  let stuffing ← Parse.bits 6
  Parse.check (stuffing = 0) .stuffing
  let bytes ← Parse.read (fun b => b.readBytesAligned (ch * fb))
  fun sl => .ok () { sl with
    outbuf := overwrite sl.outbuf bytes
    fd := { sl.fd with nbitsDecoded := ch * Config.frameBits fb } }

/-! ## The arithmetic code (43_dst_residual.md R302 to R305) -/

/-- `start_arithmetic_code()` and the check of code bit 0 (43_dst_residual.md R302, R303). -/
def startCode : Parse Unit := do
  modify Slot.acStart
  let sl ← get
  Parse.check (!codeBit sl.br.inbuf sl.ac 0) .acFirstBit

/-- The start history of one channel: +1 at odd taps, −1 at even taps, 128 taps (43_dst_residual.md R304). -/
def startHistory : List Bool := (List.range 128).map fun i => i % 2 = 1

/-- `init_history()` (43_dst_residual.md R304). -/
def initHistory (ch : Nat) : Parse Unit := Parse.setFd fun fd => { fd with hist := List.replicate ch startHistory }

/-- `decode_x_bit()`: one bit decoded and thrown away (43_dst_residual.md R305). -/
def decodeXBit : Parse Unit := fun sl =>
  let p := rev7p1 ((sl.fd.coef.getD 0 []).getD 0 0)
  .ok () { sl with ac := (sl.ac.decodeBit sl.br.inbuf p).2 }

/-! ## Residuals and reconstruction (43_dst_residual.md R310, R311) -/

/-- `pred = Σ coef[i] · hist[i]` (43_dst_residual.md R310, R311). -/
def prediction : List Int → List Bool → Int
  | c :: cs, b :: bs => (if b then c else -c) + prediction cs bs
  | _, _ => 0

/-- The predicted bit: 1 when the exact sum is negative; with `SIGN_FROM_BIT15` also at +32768 (43_dst_residual.md
R311; assumption log 4). -/
def predictedBit (pred : Int) : Bool := pred < 0 || (Config.signFromBit15 && pred = 32768)

/-- The probability of a sample's residual (43_dst_residual.md R310): 128 for the first bits of a `HalfProb` channel,
else the Ptable entry the prediction selects. -/
def sampleProbability (fd : FrameDec) (ch bn : Nat) (order : Nat) (pred : Int) : Nat :=
  if fd.halfprob.getD ch false = true ∧ bn < order then 128
  else
    let table := fd.pone.getD ((fd.ptab.getD ch []).getD (segOf fd.pseg ch bn) 0) []
    (table.getD (quantize pred table.length) 128).toNat

/-- One sample of one channel: the reconstructed bit, the decoder after it, and the channel's history with the bit
shifted in (43_dst_residual.md R310). -/
def decodeSample (fd : FrameDec) (buf : List Byte) (bn ch : Nat) (ac : ArithDec) (hist : List Bool) :
    Bool × ArithDec × List Bool :=
  let filter := fd.coef.getD ((fd.ftab.getD ch []).getD (segOf fd.fseg ch bn) 0) []
  let pred := prediction filter hist
  let r := ac.decodeBit buf (sampleProbability fd ch bn filter.length pred)
  let v := predictedBit pred ^^ r.1
  (v, r.2, (v :: hist).take 128)

/-- Bit `bn` of the channels `ch, ch + 1, …`, whose histories and output bytes so far are given: the inner loop of
43_dst_residual.md R310. Each bit enters its byte from the right, so the earliest bit ends most significant. -/
def decodeRow (fd : FrameDec) (buf : List Byte) (bn : Nat) :
    Nat → ArithDec → List (List Bool) → List Nat → ArithDec × List (List Bool) × List Nat
  | ch, ac, h :: hs, o :: os =>
    let (v, ac', h') := decodeSample fd buf bn ch ac h
    let (ac'', hs', os') := decodeRow fd buf bn (ch + 1) ac' hs os
    (ac'', h' :: hs', (2 * o + v.toNat) :: os')
  | _, ac, _, _ => (ac, [], [])

/-- `n` bits of every channel from bit `bn` on. -/
def decodeRows (fd : FrameDec) (buf : List Byte) :
    Nat → Nat → ArithDec → List (List Bool) → List Nat → ArithDec × List (List Bool) × List Nat
  | 0, _, ac, hs, os => (ac, hs, os)
  | n + 1, bn, ac, hs, os =>
    let (ac', hs', os') := decodeRow fd buf bn 0 ac hs os
    decodeRows fd buf n (bn + 1) ac' hs' os'

/-- `n` bytes of every channel from bit `bn` on, put before the bytes given, latest first: byte `j·C + c` of the frame
is byte `j` of channel `c` (20_memory.md R103). -/
def decodeOctets (fd : FrameDec) (buf : List Byte) :
    Nat → Nat → ArithDec → List (List Bool) → List Byte → ArithDec × List (List Bool) × List Byte
  | 0, _, ac, hs, out => (ac, hs, out)
  | n + 1, bn, ac, hs, out =>
    let (ac', hs', os') := decodeRows fd buf 8 bn ac hs (hs.map fun _ => 0)
    decodeOctets fd buf n (bn + 8) ac' hs' ((os'.map (BitVec.ofNat 8)).reverse ++ out)

/-- The loop position and the bit count after the loop (assumption log 22). -/
def FrameDec.afterLoop (fd : FrameDec) (fb : Nat) (hist : List (List Bool)) (nbits : Nat) : FrameDec :=
  { fd with dstate := .reconstruct, hist := hist, bitnr := Config.frameBits fb, chnr := 0, nbitsDecoded := nbits }

/-- `decode_and_reconstruct()` (43_dst_residual.md R310). -/
def decodeAndReconstruct (fb : Nat) : Parse Unit := fun sl =>
  let (ac, hs, out) := decodeOctets sl.fd sl.br.inbuf fb 0 sl.ac sl.fd.hist []
  .ok () { sl with
    ac := ac
    fd := sl.fd.afterLoop fb hs (8 * out.length)
    outbuf := overwrite sl.outbuf out.reverse }

/-- `terminate()` (43_dst_residual.md R312): the only flush of the frame, then the bit budget. -/
def terminate (ch fb : Nat) : Parse Unit := do
  let sl ← get
  let r := sl.ac.flush sl.br.inbuf
  set { sl with ac := r.2 }
  Parse.check r.1 .acTermination
  Parse.check (sl.fd.nbitsDecoded = ch * Config.frameBits fb) .bitBudget

/-! ## The whole frame (43_dst_residual.md R300, R314) -/

/-- What a frame decode starts from: the cursor, the error flag, the arithmetic decoder and the tables afresh, and an
output buffer of zeros (43_dst_residual.md R300). That the decode clears `br_err` and rewinds the cursor after a
failed read of the same load is what R300 and R320 write, against 40_bitreader.md R200 (d), R208 (d) and
60_exceptions.md R604: DEDUCED, assumption log 27. -/
def Slot.startFrame (sl : Slot) (ch fb : Nat) : Slot :=
  { sl with
    slotStatus := .ok
    br := { sl.br with pos := 0, brErr := false }
    ac := { sl.ac with acInit := true }
    fd := { FrameDec.reset with dstate := .readHeader }
    outbuf := overwrite sl.outbuf (zeroBytes (ch * fb)) }

/-- A DST-coded frame after its first bit (43_dst_residual.md R300). -/
def codedFrame (ch fb : Nat) : Parse Unit := do
  readHeader ch fb
  startCode
  initHistory ch
  decodeXBit
  decodeAndReconstruct fb
  terminate ch fb

/-- The frame from its first bit on (43_dst_residual.md R300). -/
def frameBody (ch fb : Nat) : Parse Unit := do
  let coded ← Parse.bits 1
  if coded = 0 then plainFrame ch fb else codedFrame ch fb

/-- `dst_frame_decode(s)` for `ch` channels of `fb` bytes (43_dst_residual.md R300; a failure is R314). -/
def Slot.frameDecode (sl : Slot) (ch fb : Nat) : Slot :=
  match frameBody ch fb (sl.startFrame ch fb) with
  | .ok _ sl' => { sl' with outSize := ch * fb, fd := { sl'.fd with dstate := .done } }
  | .error cause sl' =>
    { sl' with slotStatus := .frameDecodeError, slotCause := cause, fd := { sl'.fd with dstate := .failed } }

/-! ## The slot's agent (44_dst_pool.md R344) -/

/-- The result of a slot's decode with the pool's geometry (10_state.md R64). -/
def State.decodeOf (s : State) (sl : Slot) : Slot := sl.frameDecode s.pool.dstCh s.pool.dstFb

/-- A slot after its agent's step: a `BUSY` slot is decoded and `DONE` (44_dst_pool.md R344). -/
def State.stepped (s : State) (sl : Slot) : Slot :=
  if sl.slotState = .busy then { s.decodeOf sl with slotState := .done } else sl

/-- `slot_step(s)` (44_dst_pool.md R344). -/
def State.slotStep (s : State) (k : Nat) : State := s.setSlot k (s.stepped (s.slot k))

/-- "wait until no slot is BUSY": every decode in flight runs to completion (44_dst_pool.md R345, 48_session.md R558).
-/
def State.drainBusy (s : State) : State := { s with slots := s.slots.map s.stepped }

/-- The silence frame that replaces a failed frame, with the error counted (43_dst_residual.md R314,
44_dst_pool.md R343). -/
def State.retireFailed (s : State) (k : Nat) : State :=
  let n := s.pool.dstCh * s.pool.dstFb
  let sl := s.slot k
  ((s.setSlot k { sl with outbuf := overwrite sl.outbuf (List.replicate n s.silence), outSize := n }).countError).absorb
    .frameDecodeError sl.slotCause.code

/-! ## The commands -/

/-- `DST_DECODE` (43_dst_residual.md R320). -/
def execDstDecode (s : State) : Out :=
  s.unlessOwned <| s.withFreeSlot fun sl =>
    if s.pool.dstCh = 0 then s.fail .eState 0
    else
      let sl' := s.decodeOf sl
      let s' := s.setSelected sl'
      if sl'.slotStatus = .ok then s'.ok (val sl'.outSize)
      else (s'.retireFailed s.slotSel).fail .frameDecodeError (val sl'.slotCause.code)

/-- `SLOT_READ` (43_dst_residual.md R321). -/
def execSlotRead (s : State) : Out :=
  s.unlessOwned <| s.withFreeSlot fun sl => (s.emit (bufBytes sl.outbuf 0 sl.outSize)).ok (val sl.outSize)

/-! ## The frame rows (30_encoding.md R151; assumption log 12) -/

/-- The slot that is fetching a frame: the one whose agent moves next, else the selected one. -/
def State.frameSlot (s : State) : Nat := s.turns.headD s.slotSel

/-- The slot with `b` as the first byte of its frame. -/
def Slot.withFirstByte (sl : Slot) (b : Byte) : Slot :=
  { sl with br := { sl.br with inbuf := b :: sl.br.inbuf.tail, totalBits := max 8 sl.br.totalBits } }

/-- The slot decodes the frame that begins with byte `b`; a `BUSY` slot is then `DONE` (44_dst_pool.md R344). -/
def State.runFrame (s : State) (b : Byte) : State :=
  let sl := (s.slot s.frameSlot).withFirstByte b
  let sl' := if sl.slotState = .busy then s.stepped sl else s.decodeOf sl
  { s.setSlot s.frameSlot sl' with turns := s.turns.tail }

/-- `DSTF.CODED`: the slot decodes a coded frame whose first byte is `1xxxxxxx` (30_encoding.md R151,
43_dst_residual.md R300). -/
def execDstfCoded (x : Nat) (s : State) : Out := .next (s.runFrame (BitVec.ofNat 8 (2 ^ 7 + x % 2 ^ 7)))

/-- `DSTF.PLAIN`: the slot decodes a plain frame whose first byte is `0x000000` (30_encoding.md R151,
43_dst_residual.md R301). -/
def execDstfPlain (x : Nat) (s : State) : Out := .next (s.runFrame (BitVec.ofNat 8 (x % 2 * 2 ^ 6)))

end Sys2Proof.Machine
end

