-- ==== Sys2Proof/Machine/Pool.lean ====
section
/-! DEFINITION. The ring of decode slots and its commands (44_dst_pool.md). -/

namespace Sys2Proof.Machine

/-! ## The ring -/

/-- A slot emptied by `POOL_INIT`, `CLOSE` or `INIT_TRACK` (44_dst_pool.md R341, 48_session.md R558). -/
def Slot.cleared (sl : Slot) : Slot :=
  { sl with
    slotState := .free, slotStatus := .ok, slotCause := .none, outSize := 0
    br := { sl.br with totalBits := 0, pos := 0, brErr := false }
    ac := { sl.ac with acInit := true }
    fd := { sl.fd with dstate := .idle } }

/-- The ring emptied and its counters at 0, for `ch` channels; `dst_fb` is kept (44_dst_pool.md R341,
48_session.md R558). -/
def State.clearRing (s : State) (ch : Nat) : State :=
  { s with
    pool := { Pool.reset with dstCh := ch, dstFb := s.pool.dstFb }
    slots := s.slots.map Slot.cleared }

/-- A loaded slot enters the ring at `head` (44_dst_pool.md R340, R342, R346). -/
def State.enqueue (s : State) (sl : Slot) : State :=
  { s.setSlot s.pool.head sl with
    pool := { s.pool with
      submitSeq := s.pool.submitSeq + 1
      ringCount := s.pool.ringCount + 1
      head := (s.pool.head + 1) % Config.nSlots } }

/-- The oldest job leaves the ring at `tail`, its slot `FREE` (44_dst_pool.md R343). -/
def State.dequeue (s : State) : State :=
  { s.setSlot s.pool.tail { s.slot s.pool.tail with slotState := .free } with
    pool := { s.pool with
      collectSeq := s.pool.collectSeq + 1
      ringCount := s.pool.ringCount - 1
      tail := (s.pool.tail + 1) % Config.nSlots } }

/-- A slot with a DST frame to decode (44_dst_pool.md R342). -/
def Slot.loadDst (sl : Slot) (seq : Word) (bytes : List Byte) : Slot :=
  { sl with br := sl.br.load bytes, slotKind := .dst, slotSeq := seq, slotStatus := .ok, slotState := .busy }

/-- A slot with a bypass frame, which needs no decode (44_dst_pool.md R346). -/
def Slot.loadDsd (sl : Slot) (seq : Word) (bytes : List Byte) : Slot :=
  { sl with
    outbuf := overwrite sl.outbuf bytes, outSize := bytes.length, slotKind := .dsd, slotSeq := seq, slotStatus := .ok
    slotState := .done }

/-- The body of `SUBMIT` with a frame (44_dst_pool.md R342). -/
def State.submitBody (s : State) (bytes : List Byte) : State :=
  s.enqueue ((s.slot s.pool.head).loadDst s.pool.submitSeq bytes)

/-- The body of `SUBMIT_DSD` with a frame (44_dst_pool.md R346). -/
def State.submitDsdBody (s : State) (bytes : List Byte) : State :=
  s.enqueue ((s.slot s.pool.head).loadDsd s.pool.submitSeq bytes)

/-- The oldest job finished: its decode has run, and a failed frame is silence (44_dst_pool.md R343). -/
def State.retire (s : State) : State :=
  let s' := s.slotStep s.pool.tail
  if (s'.slot s.pool.tail).slotStatus = .ok then s' else s'.retireFailed s.pool.tail

/-- The body of `COLLECT` of the oldest handle (44_dst_pool.md R343). -/
def State.collectBody (s : State) : Reply × State :=
  let s' := s.retire
  let sl := s'.slot s.pool.tail
  let out := bufBytes sl.outbuf 0 sl.outSize
  (if sl.slotStatus = .ok then .okOut (val sl.outSize) out
    else { exc := .frameDecodeError, value := val sl.slotCause.code, out := out },
   s'.dequeue)

/-- The ring is full (44_dst_pool.md R347). -/
def State.ringFull (s : State) : Bool := Config.nSlots ≤ s.pool.ringCount

/-- A submission to a full ring never completes: the block is stuck until `rst` (44_dst_pool.md R347). -/
def State.jam (s : State) (i : Instr) : State := { s.hold i with stuck := true }

/-- `sentinel()` (44_dst_pool.md R345). -/
def State.sentinel (s : State) : Out :=
  if s.pool.dstCh = 0 then s.fail .eState 0
  else ({ s.drainBusy with pool := { s.pool with draining := true } } : State).ok (val s.pool.ringCount)

/-! ## The commands -/

/-- `POOL_INIT ch` (44_dst_pool.md R341). -/
def execPoolInit (ch : Nat) (s : State) : Out :=
  s.unlessOwned <|
    if channelsLegal ch = false then s.fail .eOperand (val ch)
    else if s.pool.ringCount ≠ 0 then s.fail .eState (val s.pool.ringCount)
    else (s.clearRing ch).ok (val Config.nSlots)

/-- `SUBMIT size` (44_dst_pool.md R342, R345, R347). -/
def execSubmit (size : Nat) (s : State) : Out :=
  s.unlessOwned <|
    if size = 0 then s.sentinel
    else if s.pool.dstCh = 0 ∨ s.pool.draining = true then s.fail .eState 0
    else if Config.inCap < size then s.fail .eOperand (val size)
    else if s.ringFull = true then .next (s.jam (.submit size))
    else s.takeDin size (.submit size) fun bytes s' => (s'.submitBody bytes).ok (val s.pool.submitSeq.toNat)

/-- `SUBMIT_DSD size` (44_dst_pool.md R346, R347). -/
def execSubmitDsd (size : Nat) (s : State) : Out :=
  s.unlessOwned <|
    if s.pool.dstCh = 0 ∨ s.pool.draining = true then s.fail .eState 0
    else if size = 0 ∨ Config.outCap < size then s.fail .eOperand (val size)
    else if s.ringFull = true then .next (s.jam (.submitDsd size))
    else s.takeDin size (.submitDsd size) fun bytes s' => (s'.submitDsdBody bytes).ok (val s.pool.submitSeq.toNat)

/-- `COLLECT handle` (44_dst_pool.md R343). -/
def execCollect (handle : Nat) (s : State) : Out :=
  s.unlessOwned <|
    if s.pool.ringCount = 0 then s.fail .eState 0
    else if handle ≠ s.pool.collectSeq.toNat % 2 ^ 24 then s.fail .eOrder (val s.pool.collectSeq.toNat)
    else s.collectBody.2.finish s.collectBody.1

end Sys2Proof.Machine
end

