-- ==== Sys2Proof/Machine/Session.lean ====
section
/-! DEFINITION. The sequencer's own commands: OPEN, INIT_TRACK, DECODE_NEXT, CLOSE, RDREG, WRREG, NOP, RESET
(48_session.md). -/

namespace Sys2Proof.Machine

/-! ## OPEN and CLOSE -/

/-- The extractor at its reset values (48_session.md R540, R558). -/
def State.resetFx (s : State) : State := s.setFx Fx.reset

/-- The response value of `OPEN`: `track_count | (fx_kind << 16)` (48_session.md R540). -/
def openValue (fx : Fx) : Value := val (fx.trackCount + fx.kind.code * 2 ^ 16)

/-- `OPEN kind` (48_session.md R540). -/
def execOpen (kind : Nat) (s : State) : Out :=
  match kindOperand kind with
  | none => s.fail .eOperand (val kind)
  | some k =>
    if s.sess ≠ .closed then s.fail .eState (val s.sess.code)
    else
      match fxOpen k s.resetFx with
      | .ok _ s' => ({ s' with sess := .opened } : State).ok (openValue s'.fx)
      | .error e s' => s'.resetFx.fail e.exc e.info

/-- The converter after `CLOSE`; the tables `h` and `PCMBUF` are hidden by `pc_T = 0` and `pcm_n = 0`
(48_session.md R558). -/
def Pc.closed (pc : Pc) : Pc := { Pc.reset with h := pc.h, pcmBuf := pc.pcmBuf }

/-- The teardown of `CLOSE` (48_session.md R558). -/
def State.closeBody (s : State) : State :=
  { (s.drainBusy.clearRing 0).resetFx with
    pc := s.pc.closed, ch := 0, dsdRate := 0, k := 0, pcmRate := 0, sess := .closed }

/-- `CLOSE` (48_session.md R558). -/
def execClose (s : State) : Out := s.closeBody.ok 0

/-! ## INIT_TRACK (48_session.md R545, R546) -/

/-- DST at 22579200 Hz is not supported (48_session.md R546). -/
def Fx.unsupported (fx : Fx) : Bool := fx.kind = .dsdiff && fx.dst && fx.rate = 22579200

/-- The track's parameters taken over from the extractor, the ring emptied for them, the converter started
(48_session.md R545). -/
def State.startSession (s : State) (pcm : Nat) : State :=
  let fb := s.fx.frameBytes
  let k := Config.dsdOrder s.fx.rate
  let s' := s.clearRing s.fx.ch
  let s'' : State := { s' with
    ch := s.fx.ch, dsdRate := s.fx.rate, k := k, pcmRate := pcm, sess := .track
    pool := { s'.pool with dstFb := if fb ≤ Config.maxDsdBytesInFrame then fb else s'.pool.dstFb } }
  s''.pcInitBody s.fx.ch k pcm

/-- The accepted `INIT_TRACK`, the track list having been read (48_session.md R545). -/
def State.initTrackBody (s : State) (track : Nat) (area : AreaOperand) (pcm : Nat) (list : List Byte) : State :=
  (s.drainBusy.setTrackBody track area list).startSession pcm

/-- `INIT_TRACK track, area, pcm` (48_session.md R545). -/
def execInitTrack (track area pcm : Nat) (s : State) : Out :=
  if s.sess = .closed then s.fail .eState 0
  else
    match areaOperand area, pcmOperand pcm with
    | none, _ => s.fail .eOperand (val area)
    | _, none => s.fail .eOperand (val pcm)
    | some a, some rate =>
      if s.fx.tracksIn a ≤ track then s.fail .eOperand (val track)
      else if s.fx.unsupported = true then s.fail .eOperand 8
      else
        match s.readTrackList track a with
        | (.error lsn, s') => s'.fail .badRead (val lsn)
        | (.ok list, s') =>
          let s'' := s'.initTrackBody track a rate list
          s''.ok (val s''.ch)

/-! ## DECODE_NEXT (48_session.md R550 to R555) -/

/-- `FB` of the track (48_session.md R550). -/
def State.trackFrameBytes (s : State) : Nat := Config.frameBytes s.dsdRate

/-- One frame of silence for the track (48_session.md R555). -/
def State.silenceFrame (s : State) : List Byte := List.replicate (s.ch * s.trackFrameBytes) s.silence

/-- A frame of the extractor handed to the ring; one of size 0 is skipped (48_session.md R550, R551). -/
def State.submitFrame (s : State) (f : Frame) : State :=
  if f.bytes = [] then s
  else
    match f.type with
    | .dst => s.submitBody f.bytes
    | .dsd => s.submitDsdBody f.bytes
    | .invalid => s.submitDsdBody s.silenceFrame

/-- Step 1 of `DECODE_NEXT`: frames are read ahead until the ring is full or the track ends (48_session.md R550). A
track delivers fewer than 2^70 frames, so `fuel` is never used up (assumption log 21). -/
def State.fillRing : Nat → State → State
  | 0, s => s
  | fuel + 1, s =>
    if s.fx.eot = false ∧ s.pool.ringCount < Config.nSlots then
      match s.readFrameBody with
      | (none, s') => s'
      | (some f, s') => State.fillRing fuel (s'.submitFrame f)
    else s

/-- How many samples of the block just converted are trimmed: those of the filter's start-up delay, in the first block
(48_session.md R552). -/
def Pc.trim (pc : Pc) (first : Bool) : Nat := if first then min pc.pcmOutDelta pc.pcmN else 0

/-- The first block is faded in after the trim (48_session.md R552). -/
def Pc.fadeIn (pc : Pc) (first : Bool) : Pc :=
  if first then (pc.degibbs (pc.trim true) (pc.pcmN - pc.trim true) false).2 else pc

/-- Step 2 of `DECODE_NEXT`: the oldest job is retired, converted and packed; the reply (48_session.md R550, R552). -/
def State.retireFrame (s : State) : Reply × State :=
  let c := s.collectBody
  let first := !c.2.pc.convertCalled
  let s' := c.2.pcConvertBody c.1.out
  let skip := s'.pc.trim first
  let pc := s'.pc.fadeIn first
  (.okOut (val (1 + (pc.pcmN - skip) * 2 ^ 8)) (pc.packed skip (pc.pcmN - skip)), { s' with pc := pc })

/-- Step 3 of `DECODE_NEXT`: one frame of silence is converted and the filter's tail emitted (48_session.md R550,
R552). -/
def State.flushTrack (s : State) : Reply × State :=
  if s.pc.convertCalled = true then
    let s' := s.pcConvertBody s.silenceFrame
    let n := min s'.pc.pcmOutDelta s'.pc.pcmN
    let pc := (s'.pc.degibbs 0 n true).2
    (.okOut (val (n * 2 ^ 8)) (pc.packed 0 n), { s' with pc := pc, sess := .drained })
  else (.okOut 0 [], { s with sess := .drained })

/-- The reply of an accepted `DECODE_NEXT` (48_session.md R550). -/
def State.decodeNextBody (s : State) : Reply × State :=
  let s' := State.fillRing (2 ^ 70) s
  if 0 < s'.pool.ringCount then s'.retireFrame else s'.flushTrack

/-- `DECODE_NEXT` (48_session.md R550). -/
def execDecodeNext (s : State) : Out :=
  if s.sess ≠ .track then s.fail .eState (val s.sess.code)
  else s.decodeNextBody.2.finish s.decodeNextBody.1

/-! ## Registers (48_session.md R560, R561) -/

/-- A register of the selected slot; it reads 0 while the slot is `BUSY` (48_session.md R560). -/
def State.slotRegister (s : State) (f : Slot → Nat) : Nat :=
  if s.selected.slotState = .busy then 0 else f s.selected

/-- The value of a register, `none` for an index not in the table (10_state.md R52). -/
def State.register (s : State) (idx : Nat) : Option Nat :=
  match idx with
  | 0x00 => some Config.idValue.toNat
  | 0x01 => some (s.statusWord s.selected)
  | 0x02 => some s.errCount.toNat
  | 0x03 => some s.warnThreshold.toNat
  | 0x04 => some s.slotSel
  | 0x05 => some Config.nSlots
  | 0x06 => some s.pool.dstFb
  | 0x07 => some s.pool.dstCh
  | 0x08 => some s.ditherDepth
  | 0x09 => some s.ditherSeedLo.toNat
  | 0x0A => some s.ditherSeedHi.toNat
  | 0x0B => some s.silence.toNat
  | 0x0C => some s.ch
  | 0x0D => some s.dsdRate
  | 0x0E => some s.pcmRate
  | 0x0F => some Config.frameRate
  | 0x10 => some s.fx.frameIndex
  | 0x11 => some s.fx.frameTotal
  | 0x12 => some s.pc.pcmOutDelta
  | 0x13 => some s.pc.t
  | 0x14 => some s.pc.d
  | 0x15 => some s.pc.u
  | 0x16 => some (s.slotRegister fun sl => sl.br.pos)
  | 0x17 => some (s.slotRegister fun sl => sl.br.totalBits)
  | 0x18 => some (s.slotRegister fun sl => sl.ac.a.toNat)
  | 0x19 => some (s.slotRegister fun sl => sl.ac.c.toNat)
  | 0x1A => some (s.slotRegister fun sl => sl.ac.cbptr)
  | 0x1B => some s.lastError.toNat
  | 0x1C => some s.fx.badReads.toNat
  | 0x1D => some s.fx.trackCount
  | 0x1E => some s.pc.pcmN
  | 0x1F => some s.pool.submitSeq.toNat
  | 0x20 => some s.pool.collectSeq.toNat
  | _ => none

/-- `RDREG idx` (48_session.md R560). -/
def execRdreg (idx : Nat) (s : State) : Out :=
  match s.register idx with
  | some v => s.ok (val v)
  | none => s.fail .eOperand (val idx)

/-- The writable registers (48_session.md R561). -/
inductive WritableReg where
  | warnThreshold | slotSel | dstFb | ditherDepth | ditherSeedLo | ditherSeedHi | silenceByte
  deriving DecidableEq, Repr

/-- The writable register of an index (10_state.md R52). -/
def writableReg (idx : Nat) : Option WritableReg :=
  match idx with
  | 0x03 => some .warnThreshold
  | 0x04 => some .slotSel
  | 0x06 => some .dstFb
  | 0x08 => some .ditherDepth
  | 0x09 => some .ditherSeedLo
  | 0x0A => some .ditherSeedHi
  | 0x0B => some .silenceByte
  | _ => none

/-- The legal values of a writable register (48_session.md R561). -/
def WritableReg.legal (r : WritableReg) (v : Nat) : Bool :=
  match r with
  | .warnThreshold => true
  | .slotSel => v < Config.nSlots
  | .dstFb => 1 ≤ v && v ≤ Config.maxDsdBytesInFrame
  | .ditherDepth => v ≤ 32
  | .ditherSeedLo => true
  | .ditherSeedHi => true
  | .silenceByte => v ≤ 255

/-- The registers that hold track parameters, not writable in `TRACK` (48_session.md R561). -/
def WritableReg.trackParameter (r : WritableReg) : Bool :=
  match r with
  | .warnThreshold => false
  | .slotSel => false
  | _ => true

/-- A writable register written. -/
def State.writeReg (s : State) (r : WritableReg) (v : Nat) : State :=
  match r with
  | .warnThreshold => { s with warnThreshold := BitVec.ofNat 16 v }
  | .slotSel => { s with slotSel := v }
  | .dstFb => { s with pool := { s.pool with dstFb := v } }
  | .ditherDepth => { s with ditherDepth := v }
  | .ditherSeedLo => { s with ditherSeedLo := BitVec.ofNat 16 v }
  | .ditherSeedHi => { s with ditherSeedHi := BitVec.ofNat 16 v }
  | .silenceByte => { s with silence := BitVec.ofNat 8 v }

/-- `WRREG idx, imm16` (48_session.md R561). -/
def execWrreg (idx imm16 : Nat) (s : State) : Out :=
  match writableReg idx with
  | none => s.fail .eOperand (val idx)
  | some r =>
    if r.legal imm16 = false then s.fail .eOperand (val imm16)
    else if s.sess = .track ∧ r.trackParameter = true then s.fail .eState 2
    else if r = .dstFb ∧ s.pool.ringCount ≠ 0 then s.fail .eState (val s.pool.ringCount)
    else (s.writeReg r imm16).ok (val imm16)

/-! ## NOP and RESET -/

/-- `NOP` (48_session.md R562). -/
def execNop (s : State) : Out := s.ok 0

/-- `RESET` (48_session.md R563). -/
def execReset (s : State) : Out := s.toReset.ok 0

end Sys2Proof.Machine
end

