-- ==== Sys2Proof/Machine/Dispatch.lean ====
section
/-! DEFINITION. One arm per instruction. -/

namespace Sys2Proof.Machine

def exec (i : Instr) (s : State) : Host.Outcome State Fault Refusal :=
  match i with
  | .nop => Sys2Proof.Machine.execNop s
  | .reset => Sys2Proof.Machine.execReset s
  | .openMedium kind => Sys2Proof.Machine.execOpen kind s
  | .initTrack track area pcm => Sys2Proof.Machine.execInitTrack track area pcm s
  | .decodeNext => Sys2Proof.Machine.execDecodeNext s
  | .close => Sys2Proof.Machine.execClose s
  | .rdreg idx => Sys2Proof.Machine.execRdreg idx s
  | .wrreg idx imm16 => Sys2Proof.Machine.execWrreg idx imm16 s
  | .setTrack track area => Sys2Proof.Machine.execSetTrack track area s
  | .readFrame => Sys2Proof.Machine.execReadFrame s
  | .seek frame => Sys2Proof.Machine.execSeek frame s
  | .getChannels => Sys2Proof.Machine.execGetChannels s
  | .getSamplerate => Sys2Proof.Machine.execGetSamplerate s
  | .getFramerate => Sys2Proof.Machine.execGetFramerate s
  | .getProgress => Sys2Proof.Machine.execGetProgress s
  | .poolInit ch => Sys2Proof.Machine.execPoolInit ch s
  | .submit size => Sys2Proof.Machine.execSubmit size s
  | .submitDsd size => Sys2Proof.Machine.execSubmitDsd size s
  | .collect handle => Sys2Proof.Machine.execCollect handle s
  | .dstDecode => Sys2Proof.Machine.execDstDecode s
  | .slotRead => Sys2Proof.Machine.execSlotRead s
  | .brLoad size => Sys2Proof.Machine.execBrLoad size s
  | .brReadBit => Sys2Proof.Machine.execBrReadBit s
  | .brReadBits n => Sys2Proof.Machine.execBrReadBits n s
  | .brReadSigned n => Sys2Proof.Machine.execBrReadSigned n s
  | .brReadByteAligned => Sys2Proof.Machine.execBrReadByteAligned s
  | .brRice m => Sys2Proof.Machine.execBrRice m s
  | .acStart => Sys2Proof.Machine.execAcStart s
  | .acDecode p flush => Sys2Proof.Machine.execAcDecode p flush s
  | .acQuantize len pred => Sys2Proof.Machine.execAcQuantize len pred s
  | .pcInit ch dsd pcm => Sys2Proof.Machine.execPcInit ch dsd pcm s
  | .pcConvert size => Sys2Proof.Machine.execPcConvert size s
  | .pcGetDelay => Sys2Proof.Machine.execPcGetDelay s
  | .pcIsConvertCalled => Sys2Proof.Machine.execPcIsConvertCalled s
  | .pcDegibbs side n => Sys2Proof.Machine.execPcDegibbs side n s
  | .pcPack skip count => Sys2Proof.Machine.execPcPack skip count s
  | .pcReadf => Sys2Proof.Machine.execPcReadf s
  | .dstfCoded x => Sys2Proof.Machine.execDstfCoded x s
  | .dstfPlain x => Sys2Proof.Machine.execDstfPlain x s

end Sys2Proof.Machine
end

