-- ==== Sys2Proof/WellFormed.lean ====
section
/-! DEFINITION. Well-formed instructions: every operand fits the field its format gives it (30_encoding.md R141).
An operand value the spec reserves (R161) is still well formed: it is encodable, and answers `E_OPERAND`. -/

namespace Sys2Proof

/-- A field `a`, `b` or `c`: 8 bits (R141). -/
def fits8 (v : Nat) : Bool := v < 2 ^ 8
/-- A field `imm16`: 16 bits (R141). -/
def fits16 (v : Nat) : Bool := v < 2 ^ 16
/-- A field `imm24`: 24 bits (R141). -/
def fits24 (v : Nat) : Bool := v < 2 ^ 24
/-- A field `skip` or `count` of format SC: 12 bits (R141). -/
def fits12 (v : Nat) : Bool := v < 2 ^ 12

/-- The operands of an instruction fit its encoding (30_encoding.md R141, R151). -/
def Instr.wellFormed : Instr → Bool
  | .nop => true
  | .reset => true
  | .openMedium kind => fits8 kind
  | .initTrack track area pcm => fits8 track && fits8 area && fits8 pcm
  | .decodeNext => true
  | .close => true
  | .rdreg idx => fits8 idx
  | .wrreg idx imm16 => fits8 idx && fits16 imm16
  | .setTrack track area => fits8 track && fits8 area
  | .readFrame => true
  | .seek frame => fits24 frame
  | .getChannels => true
  | .getSamplerate => true
  | .getFramerate => true
  | .getProgress => true
  | .poolInit ch => fits8 ch
  | .submit size => fits24 size
  | .submitDsd size => fits24 size
  | .collect handle => fits24 handle
  | .dstDecode => true
  | .slotRead => true
  | .brLoad size => fits24 size
  | .brReadBit => true
  | .brReadBits n => fits8 n
  | .brReadSigned n => fits8 n
  | .brReadByteAligned => true
  | .brRice m => fits8 m
  | .acStart => true
  | .acDecode p flush => fits8 p && fits8 flush
  | .acQuantize len pred => fits8 len && fits16 pred
  | .pcInit ch dsd pcm => fits8 ch && fits8 dsd && fits8 pcm
  | .pcConvert size => fits24 size
  | .pcGetDelay => true
  | .pcIsConvertCalled => true
  | .pcDegibbs side n => fits8 side && fits16 n
  | .pcPack skip count => fits12 skip && fits12 count
  | .pcReadf => true
  | .dstfCoded x => x < 2 ^ 7
  | .dstfPlain x => x < 2 ^ 1

end Sys2Proof
end

