-- ==== Sys2Proof/Decode.lean ====
section
/-! DEFINITION. The decoder of command words (30_encoding.md R141, R143, R160) and of a DST frame's first byte (R151),
total and rejecting by name, and after it the encoder written from the same tables. -/

namespace Sys2Proof

/-- Why a word is no instruction. -/
inductive DecodeError where
  /-- The opcode is not in the table of R143 (R160). -/
  | illegalOpcode
  /-- A bit the format does not name is not 0 (R141, R160). -/
  | reservedBits
  /-- The first byte of a DST frame is `0x` followed by a nonzero 6-bit field (R151). -/
  | stuffing
  deriving DecidableEq, Repr

/-- Format `Z`: `w[23:0]` must be 0 (R141). -/
def formatZ (low : Nat) (i : Instr) : Except DecodeError Instr :=
  if low = 0 then .ok i else .error .reservedBits

/-- Format `A`: `a = w[23:16]`, `w[15:0]` must be 0 (R141). -/
def formatA (low : Nat) (f : Nat → Instr) : Except DecodeError Instr :=
  if low % 2 ^ 16 = 0 then .ok (f (low / 2 ^ 16)) else .error .reservedBits

/-- Format `AB`: `a = w[23:16]`, `b = w[15:8]`, `w[7:0]` must be 0 (R141). -/
def formatAB (low : Nat) (f : Nat → Nat → Instr) : Except DecodeError Instr :=
  if low % 2 ^ 8 = 0 then .ok (f (low / 2 ^ 16) (low / 2 ^ 8 % 2 ^ 8)) else .error .reservedBits

/-- Format `ABC`: three bytes (R141). -/
def formatABC (low : Nat) (f : Nat → Nat → Nat → Instr) : Except DecodeError Instr :=
  .ok (f (low / 2 ^ 16) (low / 2 ^ 8 % 2 ^ 8) (low % 2 ^ 8))

/-- Format `I24`: `imm24 = w[23:0]` (R141). -/
def formatI24 (low : Nat) (f : Nat → Instr) : Except DecodeError Instr := .ok (f low)

/-- Format `AI16`: `a = w[23:16]`, `imm16 = w[15:0]` (R141). -/
def formatAI16 (low : Nat) (f : Nat → Nat → Instr) : Except DecodeError Instr :=
  .ok (f (low / 2 ^ 16) (low % 2 ^ 16))

/-- Format `SC`: `skip = w[23:12]`, `count = w[11:0]` (R141). -/
def formatSC (low : Nat) (f : Nat → Nat → Instr) : Except DecodeError Instr :=
  .ok (f (low / 2 ^ 12) (low % 2 ^ 12))

/-- The command a word stands for (30_encoding.md R143), or why it is illegal (R160). -/
def decode (w : Word) : Except DecodeError Instr :=
  let op := w.toNat / 2 ^ 24
  let low := w.toNat % 2 ^ 24
  match op with
  | 0x00 => formatZ low .nop
  | 0x01 => formatZ low .reset
  | 0x02 => formatA low .openMedium
  | 0x03 => formatABC low .initTrack
  | 0x04 => formatZ low .decodeNext
  | 0x05 => formatZ low .close
  | 0x06 => formatA low .rdreg
  | 0x07 => formatAI16 low .wrreg
  | 0x10 => formatAB low .setTrack
  | 0x11 => formatZ low .readFrame
  | 0x12 => formatI24 low .seek
  | 0x13 => formatZ low .getChannels
  | 0x14 => formatZ low .getSamplerate
  | 0x15 => formatZ low .getFramerate
  | 0x16 => formatZ low .getProgress
  | 0x20 => formatA low .poolInit
  | 0x21 => formatI24 low .submit
  | 0x22 => formatI24 low .submitDsd
  | 0x23 => formatI24 low .collect
  | 0x24 => formatZ low .dstDecode
  | 0x25 => formatZ low .slotRead
  | 0x30 => formatI24 low .brLoad
  | 0x31 => formatZ low .brReadBit
  | 0x32 => formatA low .brReadBits
  | 0x33 => formatA low .brReadSigned
  | 0x34 => formatZ low .brReadByteAligned
  | 0x35 => formatA low .brRice
  | 0x40 => formatZ low .acStart
  | 0x41 => formatAB low .acDecode
  | 0x42 => formatAI16 low .acQuantize
  | 0x50 => formatABC low .pcInit
  | 0x51 => formatI24 low .pcConvert
  | 0x52 => formatZ low .pcGetDelay
  | 0x53 => formatZ low .pcIsConvertCalled
  | 0x54 => formatAI16 low .pcDegibbs
  | 0x55 => formatSC low .pcPack
  | 0x56 => formatZ low .pcReadf
  | _ => .error .illegalOpcode

/-- The frame kind the first byte of a DST frame tells (30_encoding.md R151): `1xxxxxxx` coded, `0x000000` plain,
anything else illegal. -/
def decodeFrameByte (b : Byte) : Except DecodeError Instr :=
  let v := b.toNat
  if v / 2 ^ 7 = 1 then .ok (.dstfCoded (v % 2 ^ 7))
  else if v % 2 ^ 6 = 0 then .ok (.dstfPlain (v / 2 ^ 6))
  else .error .stuffing

/-- The decoder on a table row's bits: a command row has 32 bits and a frame row 8 (spec/opcode_table.json). -/
def decodeTableWord (nbits w : Nat) : Option Instr :=
  if nbits = 32 then (decode (BitVec.ofNat 32 w)).toOption
  else if nbits = 8 then (decodeFrameByte (BitVec.ofNat 8 w)).toOption
  else none

/-! ## The encoder -/

/-- What an instruction is encoded as: a command word, or the first byte of a DST frame. -/
inductive Encoding where
  | command (w : Word)
  | frameByte (b : Byte)
  deriving DecidableEq, Repr

/-- A command word from its opcode and the number its low 24 bits hold (R141). -/
def commandWord (op low : Nat) : Encoding := .command (BitVec.ofNat 32 (op * 2 ^ 24 + low))

/-- Low 24 bits of formats `A`, `AB` and `ABC` (R141). -/
def lowABC (a b c : Nat) : Nat := a * 2 ^ 16 + b * 2 ^ 8 + c

/-- The encoding of an instruction (30_encoding.md R141, R143, R151). -/
def encode : Instr → Encoding
  | .nop => commandWord 0x00 0
  | .reset => commandWord 0x01 0
  | .openMedium kind => commandWord 0x02 (lowABC kind 0 0)
  | .initTrack track area pcm => commandWord 0x03 (lowABC track area pcm)
  | .decodeNext => commandWord 0x04 0
  | .close => commandWord 0x05 0
  | .rdreg idx => commandWord 0x06 (lowABC idx 0 0)
  | .wrreg idx imm16 => commandWord 0x07 (idx * 2 ^ 16 + imm16)
  | .setTrack track area => commandWord 0x10 (lowABC track area 0)
  | .readFrame => commandWord 0x11 0
  | .seek frame => commandWord 0x12 frame
  | .getChannels => commandWord 0x13 0
  | .getSamplerate => commandWord 0x14 0
  | .getFramerate => commandWord 0x15 0
  | .getProgress => commandWord 0x16 0
  | .poolInit ch => commandWord 0x20 (lowABC ch 0 0)
  | .submit size => commandWord 0x21 size
  | .submitDsd size => commandWord 0x22 size
  | .collect handle => commandWord 0x23 handle
  | .dstDecode => commandWord 0x24 0
  | .slotRead => commandWord 0x25 0
  | .brLoad size => commandWord 0x30 size
  | .brReadBit => commandWord 0x31 0
  | .brReadBits n => commandWord 0x32 (lowABC n 0 0)
  | .brReadSigned n => commandWord 0x33 (lowABC n 0 0)
  | .brReadByteAligned => commandWord 0x34 0
  | .brRice m => commandWord 0x35 (lowABC m 0 0)
  | .acStart => commandWord 0x40 0
  | .acDecode p flush => commandWord 0x41 (lowABC p flush 0)
  | .acQuantize len pred => commandWord 0x42 (len * 2 ^ 16 + pred)
  | .pcInit ch dsd pcm => commandWord 0x50 (lowABC ch dsd pcm)
  | .pcConvert size => commandWord 0x51 size
  | .pcGetDelay => commandWord 0x52 0
  | .pcIsConvertCalled => commandWord 0x53 0
  | .pcDegibbs side n => commandWord 0x54 (side * 2 ^ 16 + n)
  | .pcPack skip count => commandWord 0x55 (skip * 2 ^ 12 + count)
  | .pcReadf => commandWord 0x56 0
  | .dstfCoded x => .frameByte (BitVec.ofNat 8 (2 ^ 7 + x))
  | .dstfPlain x => .frameByte (BitVec.ofNat 8 (x * 2 ^ 6))

/-- The decoder on an encoding: a command word on the command port, a frame byte in a slot's buffer. -/
def decodeEncoding : Encoding → Except DecodeError Instr
  | .command w => decode w
  | .frameByte b => decodeFrameByte b

end Sys2Proof
end

