-- ==== Sys2Proof/Machine/Fetch.lean ====
section
/-! DEFINITION. What the machine does next: the rst input, a decode in a slot, the command in progress, the next command
word (20_memory.md R120, R122; 30_encoding.md R140, R160; 70_reset_and_hazards.md R700, R710 (k)). -/

namespace Sys2Proof.Machine

/-- What the machine does next: run an instruction in a state, or be in a state (no instruction is fetched). -/
inductive Next where
  | run (i : Instr) (s : State)
  | become (s : State)
  deriving DecidableEq, Repr

/-- An illegal command word: `E_ILLEGAL` with the word (30_encoding.md R160, 60_exceptions.md R611). -/
def State.illegal (s : State) (w : Word) : State := s.raise .eIllegal (val w.toNat)

/-- The next command word is taken and decoded; with none queued the block is idle (30_encoding.md R140, R160). -/
def State.fetchCommand (s : State) : Next :=
  match s.cmd with
  | [] => .become s
  | w :: ws =>
    match decode w with
    | .ok i => .run i { s with cmd := ws }
    | .error _ => .become (({ s with cmd := ws } : State).illegal w)

/-- The sequencer's turn: nothing while it is stuck (44_dst_pool.md R347), the command in progress if there is one
(70_reset_and_hazards.md R710 (k)), else the next one. -/
def State.fetchSequencer (s : State) : Next :=
  if s.stuck = true then .become s
  else
    match s.held with
    | some i => .run i { s with held := none }
    | none => s.fetchCommand

/-- The turn of the agent of slot `k` (44_dst_pool.md R344): a `BUSY` slot fetches the first byte of its frame, which
tells the frame kind (30_encoding.md R151); a byte that is no frame kind fails inside the decode. -/
def State.fetchSlot (s : State) (k : Nat) (rest : List Nat) : Next :=
  if (s.slot k).slotState = .busy then
    match decodeFrameByte (bufByte (s.slot k).br.inbuf 0) with
    | .ok i => .run i s
    | .error _ => .become { s.slotStep k with turns := rest }
  else .become { s with turns := rest }

/-- What the machine does next. The rst input comes first (70_reset_and_hazards.md R700), then the slots whose agents
move before the sequencer (20_memory.md R122; assumption log 8, 11). -/
def State.fetch (s : State) : Next :=
  if s.rst = true then .become s.toReset
  else
    match s.turns with
    | k :: rest => s.fetchSlot k rest
    | [] => s.fetchSequencer

/-- A command word placed as the next one the sequencer takes. -/
def State.placeCommand (s : State) (w : Word) : State :=
  { s with cmd := w :: s.cmd, rst := false, stuck := false, held := none, turns := [] }

/-- A frame of one byte placed in the slot at `head` as a submitted job, whose agent moves next (assumption log 12). -/
def State.placeFrame (s : State) (b : Byte) : State :=
  let k := s.pool.head
  let s' := s.submitBody [b]
  { s' with
    rst := false, turns := k :: s.turns
    pool := { s'.pool with dstCh := if s.pool.dstCh = 0 then 1 else s.pool.dstCh } }

/-- The bits of an opcode-table row placed where the machine fetches next (assumption log 12, 13). -/
def State.place (s : State) (nbits w : Nat) : State :=
  if nbits = 8 then s.placeFrame (BitVec.ofNat 8 w) else s.placeCommand (BitVec.ofNat 32 w)

end Sys2Proof.Machine
end

