-- ==== Sys2Proof/Safety.lean ====
section
/-! DEFINITION. The terms the statements use: what a command answers, when a command word is taken next, and the
invariants of the machine, each with the rule of spec/ it comes from. -/

namespace Sys2Proof

/-- The instruction is a row of a DST frame, which the agent of a slot runs and no command word holds (30_encoding.md
R151). -/
def Instr.isFrame : Instr → Bool
  | .dstfCoded _ => true
  | .dstfPlain _ => true
  | _ => false

end Sys2Proof

namespace Sys2Proof.Machine

/-! ## Answers -/

/-- The state after a response of status OK (30_encoding.md R144). -/
def State.okWith (s : State) (v : Value) : State := { s with rsp := s.rsp ++ [{ status := 0, value := v }] }

/-- The state after a response that reports an exception (30_encoding.md R144, 60_exceptions.md R601): the record, and
`LAST_ERROR` with the code in bits 7:0 and the low 24 bits of the value above it. -/
def State.refusedWith (s : State) (code v : Nat) : State :=
  { s with
    lastError := BitVec.ofNat 32 (code + v % 2 ^ 24 * 2 ^ 8)
    rsp := s.rsp ++ [{ status := BitVec.ofNat 8 code, value := BitVec.ofNat 64 v }] }

/-! ## When instructions run -/

/-- The sequencer takes a command word next: no reset, no slot's turn, no command in progress, not stuck. -/
def State.ready (s : State) : Prop := s.rst = false ∧ s.turns = [] ∧ s.stuck = false ∧ s.held = none

/-- The units are not owned by a session (48_session.md R542) and the selected slot holds no job (40_bitreader.md R200
(a)): the BitReader and arithmetic-decoder commands act. -/
def State.unitFree (s : State) : Prop := s.sess ≠ .track ∧ s.selected.slotState = .free

/-! ## Invariants -/

/-- The cursor of every slot stays within its buffer (10_state.md R60, 40_bitreader.md R208 (a)). -/
def State.cursorInv (s : State) : Prop := ∀ k, (s.slot k).br.pos ≤ (s.slot k).br.totalBits

/-- Every arithmetic decoder starts afresh or holds an interval `A` with `HALF ≤ A < ONE`, as every decode leaves it
(41_arith_decoder.md R220, R223, R226). -/
def State.intervalInv (s : State) : Prop :=
  ∀ k, (s.slot k).ac.acInit = true ∨ 2048 ≤ (s.slot k).ac.a.toNat ∧ (s.slot k).ac.a.toNat < 4096

/-- The slot `j` places after `tail` in the ring. -/
def State.ringSlot (s : State) (j : Nat) : Nat := (s.pool.tail + j) % Config.nSlots

/-- The invariants of the ring (44_dst_pool.md R340, 10_state.md R66). -/
structure State.RingInv (s : State) : Prop where
  count_le : s.pool.ringCount ≤ Config.nSlots
  tail_lt : s.pool.tail < Config.nSlots
  seq : (s.pool.submitSeq - s.pool.collectSeq).toNat = s.pool.ringCount
  head_eq : s.pool.head = s.ringSlot s.pool.ringCount
  jobs : ∀ j, j < s.pool.ringCount →
    (s.slot (s.ringSlot j)).slotState ≠ .free ∧
    (s.slot (s.ringSlot j)).slotSeq = s.pool.collectSeq + BitVec.ofNat 32 j
  others : ∀ k, (∀ j, j < s.pool.ringCount → k ≠ s.ringSlot j) → (s.slot k).slotState = .free

/-- A DSD rate and a channel count of a supported track (00_scope.md R9; 46_fx_files.md R465, R477; 47_fx_sector.md
R503). -/
def geometryLegal (rate ch : Nat) : Prop := dsdRateLegal rate = true ∧ 1 ≤ ch ∧ ch ≤ 6

/-- What the container gave the extractor is legal: the rate and channel count of an open file or of a selected track,
and of every area that has tracks (46_fx_files.md R465, R477; 47_fx_sector.md R503, R504, R506). -/
structure Fx.Inv (fx : Fx) : Prop where
  file : fx.kind = .dsf ∨ fx.kind = .dsdiff → geometryLegal fx.rate fx.ch
  area1 : fx.sec.area1.tracks ≠ 0 → geometryLegal fx.sec.area1.rate fx.sec.area1.ch
  area2 : fx.sec.area2.tracks ≠ 0 → geometryLegal fx.sec.area2.rate fx.sec.area2.ch

/-- The writable registers hold legal values (10_state.md R52), the channel counts are at most 6 (R51, R64, R80), and
the extractor's geometry is legal. -/
structure State.RegInv (s : State) : Prop where
  slotSel : s.slotSel < Config.nSlots
  ditherDepth : s.ditherDepth ≤ 32
  dstFb : 1 ≤ s.pool.dstFb ∧ s.pool.dstFb ≤ 18816
  dstCh : s.pool.dstCh ≤ 6
  ch : s.ch ≤ 6
  pcCh : s.pc.ch ≤ 6
  fx : s.fx.Inv

/-- The converter's counts (10_state.md R82, R86; 45_dsd_pcm.md R391): every channel has received `rx_count` bits, every
sample due has been produced, and `PCMBUF` holds the `pcm_n` samples of the last conversion. -/
structure Pc.Inv (pc : Pc) : Prop where
  channels : pc.hist.length = pc.ch
  received : ∀ h ∈ pc.hist, h.length = pc.rxCount
  produced : pc.outCount = pc.rxCount * pc.u / pc.d
  held : pc.pcmN * pc.ch ≤ pc.pcmBuf.length

/-- The sector reader stays within its buffers (47_fx_sector.md R510, R526 (b), (e)). -/
structure Fx.SectorInv (fx : Fx) : Prop where
  packets : fx.sec.pktCount ≤ 7 ∧ fx.sec.pktIdx ≤ fx.sec.pktCount
  assembled : fx.sec.asmStarted = true → fx.sec.asmSize ≤ fx.capacity
  position : fx.sec.curLsn ≤ fx.sec.trackStartLsn + fx.sec.trackLenLsn

end Sys2Proof.Machine
end

