-- ==== Sys2Proof/Certificates/Slice0/Obligations.lean ====
section
/-! DEFINITION. The statements for the provers, in the order of OBLIGATIONS.json. Each docstring names the rules of spec/
it formalises; a choice of the model's own is named with its assumption-log entry. -/

open Sys2Proof Sys2Proof.Machine

namespace Sys2Proof.Claims

/-! ## Encodings -/

/-- The commands of 30_encoding.md R143: the opcode and the bits of the low 24 that its format does not name (R141),
which must be 0. -/
def opcodeRows : List (Nat × Nat) :=
  [ (0x00, 0xFFFFFF), (0x01, 0xFFFFFF), (0x02, 0xFFFF), (0x03, 0), (0x04, 0xFFFFFF), (0x05, 0xFFFFFF), (0x06, 0xFFFF),
    (0x07, 0), (0x10, 0xFF), (0x11, 0xFFFFFF), (0x12, 0), (0x13, 0xFFFFFF), (0x14, 0xFFFFFF), (0x15, 0xFFFFFF),
    (0x16, 0xFFFFFF), (0x20, 0xFFFF), (0x21, 0), (0x22, 0), (0x23, 0), (0x24, 0xFFFFFF), (0x25, 0xFFFFFF), (0x30, 0),
    (0x31, 0xFFFFFF), (0x32, 0xFFFF), (0x33, 0xFFFF), (0x34, 0xFFFFFF), (0x35, 0xFFFF), (0x40, 0xFFFFFF), (0x41, 0xFF),
    (0x42, 0), (0x50, 0), (0x51, 0), (0x52, 0xFFFFFF), (0x53, 0xFFFFFF), (0x54, 0), (0x55, 0), (0x56, 0xFFFFFF) ]

/-- A word that is a command (30_encoding.md R141, R143, R160). -/
def legalWord (w : Word) : Prop := ∃ r ∈ opcodeRows, w.toNat / 2 ^ 24 = r.1 ∧ w.toNat &&& r.2 = 0

/-! ## Bits of a slot -/

/-- Stream bit `i` as 0 or 1: `(inbuf[i div 8] >> (7 − (i mod 8))) & 1` (40_bitreader.md R200 (b)). -/
def bitAt (buf : List Byte) (i : Nat) : Nat := (bufByte buf (i / 8)).toNat / 2 ^ (7 - i % 8) % 2

/-- The number that `n` stream bits from bit `pos` on stand for, the first most significant (40_bitreader.md R202). -/
def bitsAt (buf : List Byte) (pos n : Nat) : Nat :=
  ((List.range n).map fun j => bitAt buf (pos + j) * 2 ^ (n - 1 - j)).sum

/-- The selected slot with another BitReader. -/
def withBr (s : State) (br : BitReader) : State := s.setSlot s.slotSel { s.selected with br := br }

/-- A failed read on the selected slot: the cursor stays, `br_err` is set, the bits that remain are answered
(40_bitreader.md R200 (c)). -/
def readFails (s : State) : State :=
  (withBr s { s.selected.br with brErr := true }).refusedWith 0x10 (s.selected.br.totalBits - s.selected.br.pos)

/-- A read of `n` bits on the selected slot fails (40_bitreader.md R200 (c), (d)). -/
def tooFew (s : State) (n : Nat) : Prop :=
  s.selected.br.brErr = true ∨ s.selected.br.totalBits < s.selected.br.pos + n

/-- The Rice code of `v` with parameter `m` (30_encoding.md R152): a run of zeros and a one, `m` low bits, most
significant first, and a sign bit for a nonzero value. -/
def riceCode (m : Nat) (v : Int) : List Bool :=
  List.replicate (v.natAbs / 2 ^ m) false ++ [true] ++
    ((List.range m).map fun j => v.natAbs.testBit (m - 1 - j)) ++ (if v = 0 then [] else [decide (v < 0)])

/-! ## The arithmetic decoder -/

/-- Code bit `i` of the slot as 0 or 1, 0 past the end of the code (41_arith_decoder.md R222). -/
def codeAt (sl : Slot) (i : Nat) : Nat := if i < sl.ac.acLen then bitAt sl.br.inbuf (sl.ac.acBase + i) else 0

/-- The number that `n` code bits from code bit `i` on stand for. -/
def codeBits (sl : Slot) (i n : Nat) : Nat := ((List.range n).map fun j => codeAt sl (i + j) * 2 ^ (n - 1 - j)).sum

/-- `A`, `C` and `cbptr` at the start of a decode: loaded afresh while `ac_init = 1` (41_arith_decoder.md R224). -/
def acReady (sl : Slot) : Nat × Nat × Nat :=
  if sl.ac.acInit = true then (4095, codeBits sl 1 12, 13) else (sl.ac.a.toNat, sl.ac.c.toNat, sl.ac.cbptr)

/-! ## Frames and the ring -/

/-- What a job in a slot answers when it is collected: the status, the value and the bytes; a frame that does not decode
is silence (44_dst_pool.md R343, R348). -/
def jobResult (s : State) (sl : Slot) : Nat × Nat × List Byte :=
  let d := s.stepped sl
  if d.slotStatus = .ok then (0, d.outSize, bufBytes d.outbuf 0 d.outSize)
  else (0x11, d.slotCause.code, List.replicate (s.pool.dstCh * s.pool.dstFb) s.silence)

/-- The results of the jobs in the ring, oldest first. -/
def jobs (s : State) : List (Nat × Nat × List Byte) :=
  (List.range s.pool.ringCount).map fun j => jobResult s (s.slot (s.ringSlot j))

/-- The silence frame that replaces a failed frame in a slot (43_dst_residual.md R314). -/
def silenced (s : State) (sl : Slot) : Slot :=
  { sl with
    outbuf := List.replicate (s.pool.dstCh * s.pool.dstFb) s.silence ++ sl.outbuf.drop (s.pool.dstCh * s.pool.dstFb)
    outSize := s.pool.dstCh * s.pool.dstFb }

/-! ## The converter -/

/-- Input sample `t` of a channel with the history given, newest first: +1 or −1 (10_state.md R82, 45_dsd_pcm.md
R386). -/
def inputAt (hist : List Bool) (t : Nat) : Bool := hist.getD (hist.length - 1 - t) false

/-- The input bits of channel `c` in bytes interleaved for `ch` channels, earliest first: every byte of the channel in
turn, its most significant bit first (20_memory.md R101, R103; 45_dsd_pcm.md R386, R390). -/
def inputBits (ch c : Nat) (bytes : List Byte) : List Bool :=
  (List.range (8 * (bytes.length / ch))).map fun t => (bytes.getD (t / 8 * ch + c) 0).getLsbD (7 - t % 8)

/-- `y_c[m]` by the loop of 45_dsd_pcm.md R385, over every tap index `j`. -/
def outputAt (pc : Pc) (hist : List Bool) (m : Nat) : F64 :=
  let n := (m + 1) * pc.d - 1
  let phase := n % pc.u
  let q := n / pc.u
  (List.range (pc.t + 1)).foldl
    (fun acc j =>
      if phase + j * pc.u < pc.t ∧ j ≤ q then
        f64Add acc (if inputAt hist (q - j) then pc.h.getD (phase + j * pc.u) 0 else f64Neg (pc.h.getD (phase + j * pc.u) 0))
      else acc) 0

/-- The samples a conversion gathers, in order (45_dsd_pcm.md R390). -/
def converted (pc : Pc) (depth : Nat) (bytes : List Byte) : List F32 :=
  (pc.convert depth bytes).pcmBuf.take ((pc.convert depth bytes).pcmN * pc.ch)

/-- The value of three bytes as a 24-bit two's-complement number, least significant byte first (45_dsd_pcm.md R420). -/
def int24 (bs : List Byte) : Int := (BitVec.ofNat 24 (leNat bs)).toInt

/-- `err_count` with one more error, saturating (43_dst_residual.md R314). -/
def errorCounted (s : State) : Word := BitVec.ofNat 32 (min (s.errCount.toNat + 1) (2 ^ 32 - 1))

/-- The state in which the result of a failed decode in the selected slot is retired (43_dst_residual.md R314, R320). -/
def frameFailed (s : State) (sl : Slot) : State :=
  { s.setSlot s.slotSel (silenced s sl) with errCount := errorCounted s }

/-- A frame of the pool's size in bytes. -/
def poolFrame (s : State) : Nat := s.pool.dstCh * s.pool.dstFb

/-- A DST job just loaded into a slot as it is after reset. -/
def freshJob (bytes : List Byte) : Slot :=
  { Slot.reset with
    slotState := .busy, slotKind := .dst
    br := { inbuf := bytes, totalBits := 8 * bytes.length, pos := 0, brErr := false } }

/-- The mode table with the delays (45_dsd_pcm.md R371, R402): DSD code, PCM code, `pc_U`, `pc_D`, `pc_T`, `pc_spf`,
`pcm_out_delta`, `fade_len`. -/
def modeRows : List (Nat × Nat × Nat × Nat × Nat × Nat × Nat × Nat) :=
  [ (0, 0, 1, 32, 575, 1176, 8, 9), (0, 1, 5, 147, 2879, 1280, 9, 10), (0, 2, 1, 16, 575, 2352, 17, 18),
    (0, 3, 10, 147, 5757, 2560, 19, 20), (1, 0, 1, 64, 1149, 1176, 8, 9), (1, 1, 5, 294, 5757, 1280, 9, 10),
    (1, 2, 1, 32, 1149, 2352, 17, 18), (1, 3, 10, 294, 11513, 2560, 19, 20), (2, 0, 1, 128, 2297, 1176, 8, 9),
    (2, 1, 5, 588, 11513, 1280, 9, 10), (2, 2, 1, 64, 2297, 2352, 17, 18), (2, 3, 10, 588, 23025, 2560, 19, 20),
    (3, 0, 1, 256, 4593, 1176, 8, 9), (3, 1, 5, 1176, 23025, 1280, 9, 10), (3, 2, 1, 128, 4593, 2352, 17, 18),
    (3, 3, 10, 1176, 46049, 2560, 19, 20) ]

/-- The delays of the sixteen modes and the binary64 nearest to each (45_dsd_pcm.md R400, R403; 95_test_vectors.md
section 6). -/
def delayRows : List (Nat × Nat × Nat) :=
  [ (575, 64, 0x4021F80000000000), (2879, 294, 0x402395C4CA037BA5), (575, 32, 0x4031F80000000000),
    (5757, 294, 0x403394E5E0A72F05), (1149, 128, 0x4021F40000000000), (5757, 588, 0x402394E5E0A72F05),
    (1149, 64, 0x4031F40000000000), (11513, 588, 0x403394766BF908B5), (2297, 256, 0x4021F20000000000),
    (11513, 1176, 0x402394766BF908B5), (2297, 128, 0x4031F20000000000), (23025, 1176, 0x4033943EB1A1F58D),
    (4593, 512, 0x4021F10000000000), (23025, 2352, 0x4023943EB1A1F58D), (4593, 256, 0x4031F10000000000),
    (46049, 2352, 0x40339422D4766BF9) ]

/-- The dither generator after `n` draws (45_dsd_pcm.md R395). -/
def drawn (n : Nat) (lcg : Word) : Word := (fun x => 1664525 * x + 1013904223)^[n] lcg

/-- The sample `y` with the dither of draws `2i` and `2i + 1` after the generator value `lcg` (45_dsd_pcm.md R395):
`d = (s1 − s2) · 2^−(31 + depth)`. -/
def dithered (depth i : Nat) (lcg : Word) (y : F64) : F64 :=
  if depth = 0 then y
  else f64Add y (f64OfInt false
    (((drawn (2 * i + 1) lcg).toNat : Int) - (drawn (2 * i + 2) lcg).toNat) (-(31 + depth : Nat)))

/-- The rational a finite floating-point value stands for. -/
def rational (neg : Bool) (m : Nat) (e : Int) : ℚ := (if neg then -(m : ℚ) else m) * (2 : ℚ) ^ e

/-- `f32(f64(v) · (j / len))`, the product of 45_dsd_pcm.md R410. -/
def scaled (v : F32) (j len : Nat) : F32 := toF32 (f64Mul (toF64 v) (f64OfRatio j len))

/-- The PCMBUF elements of samples `skip .. skip + count − 1` as DOUT bytes (45_dsd_pcm.md R420). -/
def packedBytes (pc : Pc) (skip count : Nat) : List Byte :=
  ((pc.pcmBuf.drop (skip * pc.ch)).take (count * pc.ch)).flatMap pack24

/-- The block group in `blockbuf`, if one is there, is the medium's and came in full (46_fx_files.md R466, R470). -/
def groupHeld (s : State) : Prop :=
  s.fx.dsf.blkValid = true → s.fx.dsf.blkBad = false ∧ ∀ i, i < s.fx.ch * s.fx.dsf.blockSize →
    s.fx.dsf.blockbuf[i]? =
      some (Memory.read s.medium (s.fx.dataStart + s.fx.dsf.blkGroup * (s.fx.ch * s.fx.dsf.blockSize) + i))

/-- A frame of the selected track in bytes, `fx_ch · FB` (46_fx_files.md R453). -/
def fullFrame (s : State) : Nat := s.fx.ch * (s.fx.rate / 600)

/-- `READ_FRAME` and `SEEK` act: the container is open, no session owns it and a track is selected (46_fx_files.md R455,
R457). -/
def trackReady (s : State) : Prop := s.sess = .opened ∧ s.fx.trackSelected = true

/-- The converter commands act: no session owns it and it is initialised (45_dsd_pcm.md R390, R410, R420, R422). -/
def converterReady (s : State) : Prop := s.sess ≠ .track ∧ s.pc.t ≠ 0

/-- A submission acts: no session owns the ring, it has its geometry, it is not draining and a slot is free
(44_dst_pool.md R342, R346). -/
def ringOpen (s : State) : Prop :=
  s.sess ≠ .track ∧ s.pool.dstCh ≠ 0 ∧ s.pool.draining = false ∧ s.pool.ringCount < Config.nSlots

/-! ## Containers -/

/-- The `n` bytes of a number, most significant first (20_memory.md R102). -/
def beBytes (n v : Nat) : List Byte := (List.range n).map fun j => BitVec.ofNat 8 (v / 256 ^ (n - 1 - j))

/-- A chunk of a DSDIFF file: its identifier, its data and the byte that pads an odd length (46_fx_files.md R475). -/
structure DffChunk where
  id : List Byte
  data : List Byte
  pad : Byte
  deriving DecidableEq, Repr

/-- The bytes of a chunk (46_fx_files.md R475). -/
def DffChunk.bytes (c : DffChunk) : List Byte :=
  c.id ++ beBytes 8 c.data.length ++ c.data ++ (if c.data.length % 2 = 1 then [c.pad] else [])

/-- Chunks one after the other from offset `p` on, each with its offset. -/
def placed : Nat → List DffChunk → List (Nat × DffChunk)
  | _, [] => []
  | p, c :: cs => (p, c) :: placed (p + c.bytes.length) cs

/-- The chunks with an identifier. -/
def named (id : List Byte) (cs : List (Nat × DffChunk)) : List (Nat × DffChunk) := cs.filter fun c => c.2.id = id

/-- A DSDIFF file with these chunks in its form (46_fx_files.md R475). -/
def dffBytes (chunks : List DffChunk) : List Byte :=
  magicFrm8 ++ beBytes 8 (4 + (chunks.flatMap DffChunk.bytes).length) ++ magicDsd ++ chunks.flatMap DffChunk.bytes

/-- The extractor that the chunks of a form stand for, each known chunk once (46_fx_files.md R475 to R479). -/
def dffSays (chunks props : List DffChunk) (fx : Fx) : Prop :=
  ∃ pv v pp p pr r pn n pm m start stop frte off count,
    named magicFver (placed 16 chunks) = [(pv, v)] ∧ 4 ≤ v.data.length ∧ v.data.head? = some 1 ∧
    named magicProp (placed 16 chunks) = [(pp, p)] ∧ p.data = magicSnd ++ props.flatMap DffChunk.bytes ∧
    named magicFs (placed (pp + 16) props) = [(pr, r)] ∧ 4 ≤ r.data.length ∧
    beNat (r.data.take 4) ∈ [2822400, 5644800, 11289600, 22579200] ∧
    named magicChnl (placed (pp + 16) props) = [(pn, n)] ∧ 2 ≤ n.data.length ∧
    1 ≤ beNat (n.data.take 2) ∧ beNat (n.data.take 2) ≤ 6 ∧
    named magicCmpr (placed (pp + 16) props) = [(pm, m)] ∧
    (m.data.take 4 = magicDsd ∧ named magicDst (placed 16 chunks) = [] ∧
        (∃ pd d, named magicDsd (placed 16 chunks) = [(pd, d)] ∧ start = pd + 12 ∧ stop = pd + 12 + d.data.length) ∧
        frte = 0 ∨
      m.data.take 4 = magicDst ∧ named magicDsd (placed 16 chunks) = [] ∧
        ∃ pd d, ∃ q : DffChunk, ∃ rest, named magicDst (placed 16 chunks) = [(pd, d)] ∧ d.data = q.bytes ++ rest ∧ q.id = magicFrte ∧
          6 ≤ q.data.length ∧ beNat ((q.data.drop 4).take 2) = 75 ∧ start = pd + 12 + q.bytes.length ∧
          stop = pd + 12 + d.data.length ∧ frte = beNat (q.data.take 4)) ∧
    (named magicDsti (placed 16 chunks) = [] ∧ off = 0 ∧ count = 0 ∨
      ∃ pi x, named magicDsti (placed 16 chunks) = [(pi, x)] ∧ off = pi + 12 ∧ count = x.data.length / 12 ∧
        count < 2 ^ 32) ∧
    fx = { Fx.reset with
      kind := .dsdiff, ch := beNat (n.data.take 2), rate := beNat (r.data.take 4)
      dst := decide (m.data.take 4 = magicDst), trackCount := 1, dataStart := start, dataEnd := stop
      dff := { dstiOff := off, dstiCount := count, frameBytes := 0, frteCount := frte } }

/-- The data bytes of a sector of the disc image, fewer than 2048 where the image ends (47_fx_sector.md R500). -/
def discSector (s : State) (psn : Bool) (lsn : Nat) : List Byte :=
  s.mediumBytes (if psn then lsn * 2064 + 12 else lsn * 2048) 2048

/-- The area that its table of contents at sector `lsn`, `n` sectors long, describes; a start of 0 is an absent area
(47_fx_sector.md R501, R503, R504). -/
def discArea (s : State) (psn : Bool) (magic : List Byte) (lsn n : Nat) (a : Area) : Prop :=
  if lsn = 0 then a = { Area.reset with tocSize := n }
  else
    ∃ t i, t = discSector s psn lsn ∧ t.length = 2048 ∧ t.take 8 = magic ∧ beField t 8 1 ≤ 1 ∧ beField t 20 1 = 4 ∧
      beField t 21 1 % 16 ∈ [0, 2, 3] ∧ 1 ≤ beField t 32 1 ∧ beField t 32 1 ≤ 6 ∧ 1 ≤ i ∧ i < n ∧
      (∀ j, 1 ≤ j → j < i → (discSector s psn (lsn + j)).length = 2048 ∧
        (discSector s psn (lsn + j)).take 8 ≠ magicTrackList) ∧
      (discSector s psn (lsn + i)).length = 2048 ∧ (discSector s psn (lsn + i)).take 8 = magicTrackList ∧
      a = { tocLsn := lsn, tocSize := n, tracks := beField t 69 1, ch := beField t 32 1, fmt := beField t 21 1 % 16,
            rate := 2822400, trlLsn := lsn + i }

/-- Where a sector begins in the image (47_fx_sector.md R500; assumption log 26). -/
def sectorBegin (psn : Bool) (lsn : Nat) : Nat := lsn * (if psn then 2064 else 2048)

/-- What selecting a track leaves of the extractor, in `fx`, and of the medium's answers, in `u`, for every kind of
container: the rule of the kind, then what every `SET_TRACK` writes (46_fx_files.md R452, R467, R480; 47_fx_sector.md
R506; the sector of the track list is read once: assumption log 16). A frame count that does not fit its register is
free (assumption log 3). -/
def selectsTrack (s u : State) (fx : Fx) (track area : Nat) (a : AreaOperand) : Prop :=
  ∃ f : Fx,
    fx = { f with
      curTrack := track, curArea := area, frameIndex := 0, eot := false, badReads := 0, trackSelected := true } ∧
    match s.fx.kind with
    | .none => False
    | .dsf => u = s ∧
        f = { s.fx with
          frameTotal := f.frameTotal, cursor := s.fx.dataStart
          dsf := { s.fx.dsf with pos := 0, blkValid := false, blkBad := false } } ∧
        ∀ p fb, p = (s.fx.dataEnd - s.fx.dataStart) / s.fx.ch → fb = s.fx.rate / 600 → (p + fb - 1) / fb < 2 ^ 32 →
          f.frameTotal = (p + fb - 1) / fb
    | .dsdiff => u = s ∧
        (s.fx.dst = false →
          f = { s.fx with
            frameTotal := f.frameTotal, cursor := s.fx.dataStart
            dff := { s.fx.dff with frameBytes := s.fx.ch * (s.fx.rate / 600) } } ∧
          ∀ len size, len = s.fx.dataEnd - s.fx.dataStart → size = s.fx.ch * (s.fx.rate / 600) →
            (len + size - 1) / size < 2 ^ 32 → f.frameTotal = (len + size - 1) / size) ∧
        (s.fx.dst = true →
          f = { s.fx with
            frameTotal := if s.fx.dff.dstiOff ≠ 0 then s.fx.dff.dstiCount else s.fx.dff.frteCount
            cursor := s.fx.dataStart })
    | .sector => ∃ list ar i start len, (ar, i) = s.fx.sec.place track a ∧ (list, u) = s.sectorRead ar.trlLsn ∧
        start = beField list (8 + 4 * i) 4 ∧ len = beField list (1028 + 4 * i) 4 ∧
        f = { s.fx with
          ch := ar.ch, rate := ar.rate, dst := decide (ar.fmt = 0), frameTotal := 0
          dataStart := sectorBegin s.fx.sec.psn start, dataEnd := sectorBegin s.fx.sec.psn (start + len)
          cursor := sectorBegin s.fx.sec.psn start
          sec := { s.fx.sec with
            trackStartLsn := start, trackLenLsn := len, curLsn := start, pktIdx := 0, pktCount := 0, fiCount := 0
            asmStarted := false, asmSize := 0 } }

/-! ## Reading ahead -/

/-- `READ_FRAME` in the running session delivers `(more, type, bytes)` and leaves `u`; it is the command itself with
the session's ownership lifted (48_session.md, introduction; 30_encoding.md R148). -/
def readsFrame (s u : State) (more type : Nat) (bytes : List Byte) : Prop :=
  exec .readFrame { s with sess := .opened } = .next { u with
    sess := .opened, dout := s.dout ++ bytes
    rsp := s.rsp ++ [{ status := 0, value := val (bytes.length + type * 2 ^ 24 + more * 2 ^ 27) }] } ∧
  u.sess = s.sess ∧ u.dout = s.dout ∧ u.rsp = s.rsp

/-- A submission of `bytes` with its command, the session's ownership lifted and its bytes on DIN, leaves `w`
(48_session.md, introduction). -/
def submits (u w : State) (i : Instr) (bytes : List Byte) : Prop :=
  exec i { u with sess := .opened, din := bytes } =
    .next { w with sess := .opened, din := [], rsp := u.rsp ++ [{ status := 0, value := val u.pool.submitSeq.toNat }] } ∧
  w.sess = u.sess ∧ w.din = u.din ∧ w.rsp = u.rsp

/-- Step 1 of `DECODE_NEXT` may go on: the track has not ended and a slot is free (48_session.md R550). -/
def readsOn (s : State) : Prop := s.fx.eot = false ∧ s.pool.ringCount < Config.nSlots

/-- Step 1 of `DECODE_NEXT`, `n` frames of it, from `s` to `t`: the track ends; a frame of size 0 is skipped; a DST
frame is submitted with `SUBMIT`, a plain one with `SUBMIT_DSD`, and for an `INVALID` one a frame of silence is
submitted (48_session.md R550, R551, R555). -/
inductive ReadAhead : Nat → State → State → Prop where
  | here (s : State) : ReadAhead 0 s s
  | ended (n : Nat) (s u t : State) : readsOn s → readsFrame s u 0 0 [] → ReadAhead n u t → ReadAhead (n + 1) s t
  | empty (n type : Nat) (s u t : State) : readsOn s → readsFrame s u 1 type [] → ReadAhead n u t →
      ReadAhead (n + 1) s t
  | dst (n : Nat) (s u w t : State) (bytes : List Byte) : readsOn s → readsFrame s u 1 1 bytes → bytes ≠ [] →
      submits u w (.submit bytes.length) bytes → ReadAhead n w t → ReadAhead (n + 1) s t
  | dsd (n : Nat) (s u w t : State) (bytes : List Byte) : readsOn s → readsFrame s u 1 0 bytes → bytes ≠ [] →
      submits u w (.submitDsd bytes.length) bytes → ReadAhead n w t → ReadAhead (n + 1) s t
  | invalid (n : Nat) (s u w t : State) (bytes silence : List Byte) : readsOn s → readsFrame s u 1 2 bytes →
      bytes ≠ [] → silence = List.replicate (s.ch * (s.dsdRate / 600)) s.silence →
      submits u w (.submitDsd silence.length) silence → ReadAhead n w t → ReadAhead (n + 1) s t

/-! ## The frames of a disc -/

/-- What the reader of a disc meets: an audio packet of the sector `lsn` that begins or continues a frame, in a sector
of DST data or not (47_fx_sector.md R510), or a sector that cannot be read (`short`) or that claims more than it holds
(R522, R523). -/
inductive DiscItem where
  | packet (lsn : Nat) (first dst : Bool) (data : List Byte)
  | lost (short : Bool) (lsn : Nat)
  deriving DecidableEq, Repr

/-- The length field of packet `i` of a sector (47_fx_sector.md R510). -/
def packetLength (b : List Byte) (i : Nat) : Nat := beField b (1 + 2 * i) 2 % 2 ^ 11

/-- Where the data of packet `i` of a sector begin (47_fx_sector.md R510). -/
def packetOffset (b : List Byte) (i : Nat) : Nat :=
  1 + 2 * (beField b 0 1 / 2 ^ 5) + beField b 0 1 / 2 ^ 2 % 8 * (3 + beField b 0 1 % 2) +
    ((List.range i).map (packetLength b)).sum

/-- The audio packets of a sector from packet `i` on (47_fx_sector.md R510). -/
def audioPackets (lsn : Nat) (b : List Byte) (i : Nat) : List DiscItem :=
  ((List.range (beField b 0 1 / 2 ^ 5)).drop i).flatMap fun j =>
    if beField b (1 + 2 * j) 2 / 2 ^ 11 % 8 = 2 then
      [.packet lsn (beField b (1 + 2 * j) 2 / 2 ^ 15 = 1) (beField b 0 1 % 2 = 1)
        (slice b (packetOffset b j) (packetLength b j))]
    else []

/-- What a sector read holds for the reader (47_fx_sector.md R520, R522, R523). -/
def sectorItems (lsn : Nat) (b : List Byte) : List DiscItem :=
  if b.length < 2048 then [.lost true lsn]
  else if 2048 < packetOffset b (beField b 0 1 / 2 ^ 5) then [.lost false lsn]
  else audioPackets lsn b 0

/-- What `n` sectors read one after the other from `lsn` on hold, the medium answering each read as it will
(20_memory.md R106). -/
def itemsAhead : Nat → State → Nat → List DiscItem
  | 0, _, _ => []
  | n + 1, s, lsn => sectorItems lsn (s.sectorRead lsn).1 ++ itemsAhead n (s.sectorRead lsn).2 (lsn + 1)

/-- The reader's view of a sector it holds is that sector's: nothing is left of it, or the registers of
47_fx_sector.md R520 say what R510 says of it. -/
def sectorHeld (s : State) : Prop :=
  s.fx.sec.pktCount ≤ s.fx.sec.pktIdx ∨
    s.fx.sec.secbuf.length = 2048 ∧ s.fx.sec.pktCount = beField s.fx.sec.secbuf 0 1 / 2 ^ 5 ∧
    s.fx.sec.secDst = decide (beField s.fx.sec.secbuf 0 1 % 2 = 1) ∧
    s.fx.sec.pkt = (List.range s.fx.sec.pktCount).map (fun i =>
      { frameStart := decide (beField s.fx.sec.secbuf (1 + 2 * i) 2 / 2 ^ 15 = 1)
        dataType := beField s.fx.sec.secbuf (1 + 2 * i) 2 / 2 ^ 11 % 8, length := packetLength s.fx.sec.secbuf i }) ∧
    s.fx.sec.bufOff = packetOffset s.fx.sec.secbuf s.fx.sec.pktIdx ∧
    packetOffset s.fx.sec.secbuf s.fx.sec.pktCount ≤ 2048

/-- What is left of the selected track of a disc: the packets not used of the sector held, then the sectors to come. -/
def discItems (s : State) : List DiscItem :=
  (if s.fx.sec.pktCount ≤ s.fx.sec.pktIdx then []
    else audioPackets (s.fx.sec.curLsn - 1) s.fx.sec.secbuf s.fx.sec.pktIdx) ++
  itemsAhead (s.fx.sec.trackStartLsn + s.fx.sec.trackLenLsn - s.fx.sec.curLsn) s s.fx.sec.curLsn

/-- What a call of `read_frame` on a disc comes to: the end of the track, a frame, a lost sector, or a frame that grows
beyond its buffer at a packet of sector `lsn`. -/
inductive DiscFrame where
  | ended
  | frame (dst : Bool) (bytes : List Byte)
  | lost (short : Bool) (lsn : Nat)
  | overflow (lsn : Nat)
  deriving DecidableEq, Repr

/-- A frame is the packet that begins it and the packets that continue it, up to the next beginning or the end of the
track; packets that continue no frame are dropped, and a lost sector or an overflow ends the call
(47_fx_sector.md R511, R520, R522, R523). `begun` is the frame so far, `cap` the capacity. The items left are given. -/
def nextDiscFrame (cap : Bool → Nat) : Option (Bool × List Byte) → List DiscItem → DiscFrame × List DiscItem
  | none, [] => (.ended, [])
  | some f, [] => (.frame f.1 f.2, [])
  | _, .lost short lsn :: rest => (.lost short lsn, rest)
  | none, .packet lsn first dst data :: rest =>
    if first = false then nextDiscFrame cap none rest
    else if cap dst < data.length then (.overflow lsn, rest)
    else nextDiscFrame cap (some (dst, data)) rest
  | some f, .packet lsn first dst data :: rest =>
    if first = true then (.frame f.1 f.2, .packet lsn first dst data :: rest)
    else if cap f.1 < f.2.length + data.length then (.overflow lsn, rest)
    else nextDiscFrame cap (some (f.1, f.2 ++ data)) rest

/-- How `READ_FRAME` answers on a disc: the type code, the bytes and the exception of an `INVALID` frame with its
information, for a full frame of `full` bytes (47_fx_sector.md R520 to R524). -/
def discAnswer (full : Nat) : DiscFrame → Option (Nat × List Byte × Option (Nat × Nat))
  | .ended => none
  | .frame dst bytes =>
    if dst = true then some (1, bytes, none)
    else if bytes.length = full then some (0, bytes, none)
    else some (2, List.replicate full 0, some (0x11, 17))
  | .lost short lsn => some (2, List.replicate full 0, some (if short then 0x12 else 0x13, lsn))
  | .overflow lsn => some (2, List.replicate full 0, some (0x13, lsn))

/-! ## DSDIFF files with DST frames -/

/-- The state after an `INVALID` frame: it counts in `frame_index` and `err_count`, is recorded, and is a full frame of
zeros (46_fx_files.md R454, R489; `frame_index` fits: assumption log 3). -/
def invalidDelivered (u : State) (fx : Fx) (full code info : Nat) : State :=
  ({ u with
    fx := { fx with frameIndex := fx.frameIndex + 1 }, errCount := errorCounted u
    lastError := BitVec.ofNat 32 (code + info % 2 ^ 24 * 2 ^ 8), dout := u.dout ++ List.replicate full 0 } : State).okWith
    (val (full + 2 * 2 ^ 24 + 2 ^ 27))

/-- `bad_reads` with one more, saturating (46_fx_files.md R454). -/
def oneMoreBad (fx : Fx) : Fx := { fx with badReads := BitVec.ofNat 32 (min (fx.badReads.toNat + 1) (2 ^ 32 - 1)) }

/-- A DST frame of `n` bytes at `off`, the cursor going on at `next`: delivered, or `INVALID` when it comes short
(46_fx_files.md R454, R486, R487). -/
def dstDelivered (s : State) (off n next : Nat) : State :=
  if (s.mediumRead off n).1.length < n then
    invalidDelivered (s.mediumRead off n).2 (oneMoreBad { s.fx with cursor := next }) (fullFrame s) 0x12 off
  else ({ (s.mediumRead off n).2 with
    fx := { s.fx with cursor := next, frameIndex := s.fx.frameIndex + 1 }
    dout := s.dout ++ (s.mediumRead off n).1 } : State).okWith (val (n + 2 ^ 24 + 2 ^ 27))

/-- The chunk header at `p` on a medium that answers with its own bytes: the identifier and the size (46_fx_files.md
R475). -/
def chunkHeader (s : State) (p : Nat) (id : List Byte) (n : Nat) : Prop :=
  p + 12 ≤ s.fx.dataEnd ∧ (s.mediumBytes p 12).length = 12 ∧ id = (s.mediumBytes p 12).take 4 ∧
    n = beNat ((s.mediumBytes p 12).drop 4)

/-- `n` frames of the `DST ` chunk lie between `p` and `q`, whatever other chunks lie between them (46_fx_files.md R487,
R488). A `DSTF` chunk that is declared too large is a frame and ends the data (assumption log 15). -/
inductive FramesBetween (s : State) : Nat → Nat → Nat → Prop where
  | here (p : Nat) : FramesBetween s 0 p p
  | frame (n p q len : Nat) : chunkHeader s p magicDstf len →
      FramesBetween s n (if 112897 < len ∨ s.fx.dataEnd < p + 12 + len then s.fx.dataEnd else p + 12 + len + len % 2) q →
      FramesBetween s (n + 1) p q
  | other (n p q len : Nat) (id : List Byte) : chunkHeader s p id len → id ≠ magicDstf →
      FramesBetween s (n + 1) (p + 12 + len + len % 2) q → FramesBetween s (n + 1) p q

/-! ## Coded frames -/

/-- `v` in `n` bits, most significant first. -/
def fieldBits (n v : Nat) : List Bool := (List.range n).map fun j => v.testBit (n - 1 - j)

/-- The explicit segment lengths of a channel (42_dst_header.md R252): a 0, the resolution once (`first`), the length,
in as many bits as the bytes left ask for; then a 1. `m` is the bound `M`, `left` the bytes left. -/
def lengthBits (m res : Nat) : Bool → Nat → List Nat → List Bool
  | _, _, [] => [true]
  | first, left, len :: lens =>
    [false] ++ (if first then fieldBits (Nat.size m) res else []) ++ fieldBits (Nat.size (left / res)) len ++
      lengthBits m res false (left - res * len) lens

/-- The segment lengths of several channels. -/
def channelBits (m res : Nat) : Bool → List (List Nat) → List Bool
  | _, [] => []
  | first, row :: rows => lengthBits m res first m row ++ channelBits m res (first && row.isEmpty) rows

/-- A segmentation (42_dst_header.md R252). -/
def segmentationBits (m : Nat) (same : Bool) (sg : Segmentation) : List Bool :=
  same :: if same then lengthBits m sg.resolution true m (sg.seglen.headD []) else channelBits m sg.resolution true sg.seglen

/-- A segmentation that the rules allow (42_dst_header.md R252). -/
def segmentationLegal (ch fb minbits : Nat) (same : Bool) (sg : Segmentation) : Prop :=
  sg.seglen.length = ch ∧ (same = true → ∀ row ∈ sg.seglen, row = sg.seglen.headD []) ∧
  ((∀ row ∈ sg.seglen, row = []) → sg.resolution = 1) ∧
  ∀ row ∈ sg.seglen, row ≠ [] → row.length ≤ 7 ∧ 1 ≤ sg.resolution ∧ sg.resolution ≤ fb - minbits / 8 ∧
    (∀ len ∈ row, minbits ≤ 8 * sg.resolution * len) ∧ 8 * sg.resolution * row.sum + minbits ≤ 8 * fb

/-- Table numbers, each in as many bits as the number of tables declared so far asks for (42_dst_header.md R256). -/
def numberBits : Nat → List Nat → List Bool
  | _, [] => []
  | count, v :: vs => fieldBits (Nat.size count) v ++ numberBits (if v = count then count + 1 else count) vs

/-- Every table number is one of a declared table or declares the next one; `total` tables are declared in the end
(42_dst_header.md R256). -/
def numbersLegal : Nat → Nat → List Nat → Prop
  | count, total, [] => count = total
  | count, total, v :: vs => v ≤ count ∧ numbersLegal (if v = count then count + 1 else count) total vs

/-- The numbers of a mapping that have a field: all but the first segment's of channel 0, or channel 0's alone
(42_dst_header.md R256). -/
def mappedNumbers (same : Bool) (tab : List (List Nat)) : List Nat := if same then (tab.headD []).tail else tab.flatten.tail

/-- A mapping of `total` tables that the rules allow (42_dst_header.md R256). -/
def mappingLegal (ch total : Nat) (same : Bool) (sg : Segmentation) (tab : List (List Nat)) : Prop :=
  tab.map List.length = sg.seglen.map (fun row => row.length + 1) ∧ tab.flatten.head? = some 0 ∧
  (same = true → ∀ row ∈ tab, row = tab.headD []) ∧ numbersLegal 1 total (mappedNumbers same tab) ∧ total ≤ 2 * ch

/-- How a table is coded: raw, or with the Rice method and parameter given (42_dst_header.md R260, R265). -/
abbrev TableCoding := Option (Nat × Nat)

/-- The entries of a Rice-coded table after those in `before`, newest first (42_dst_header.md R262). -/
def deltaBits (pred : List Int) (m : Nat) : List Int → List Int → List Bool
  | _, [] => []
  | before, c :: cs =>
    let x := (List.zipWith (· * ·) pred before).sum
    riceCode m (if 0 ≤ x then c + (x + 4) / 8 else c - (-x + 3) / 8) ++ deltaBits pred m (c :: before) cs

/-- The entries of a table, coded as told, with its prediction constants and its raw field (42_dst_header.md R261, R262,
R266, R267). -/
def entryBits (preds : List (List Int)) (raw : Int → List Bool) (es : List Int) : TableCoding → List Bool
  | none => false :: es.flatMap raw
  | some (method, m) =>
    true :: fieldBits 2 method ++ (es.take (method + 1)).flatMap raw ++ fieldBits 3 m ++
      deltaBits (preds.getD method []) m (es.take (method + 1)).reverse (es.drop (method + 1))

/-- A filter (42_dst_header.md R260 to R263). -/
def filterBits (es : List Int) (coding : TableCoding) : List Bool :=
  fieldBits 7 (es.length - 1) ++
    entryBits [[-8], [-16, 8], [-9, -5, 6]] (fun c => fieldBits 9 (c % 512).toNat) es coding

/-- A Ptable (42_dst_header.md R263, R265 to R267). -/
def ptableBits (es : List Int) (coding : TableCoding) : List Bool :=
  fieldBits 6 (es.length - 1) ++
    if es.length = 1 then []
    else entryBits [[-8], [-16, 8], [-24, 24, -8]] (fun c => fieldBits 7 (c - 1).toNat) es coding

/-- A coding that fits a table of `len` entries (42_dst_header.md R262, R267). -/
def codingLegal (len : Nat) : TableCoding → Prop
  | none => True
  | some (method, m) => method < 3 ∧ method + 1 < len ∧ m ≤ 7

/-- The header of a coded frame: the `same` flags, the segmentations, the mappings, the half-probability bits, and the
tables with their codings (42_dst_header.md R250). -/
structure Header where
  copySeg : Bool
  sameFseg : Bool
  fseg : Segmentation
  samePseg : Bool
  pseg : Segmentation
  copyMap : Bool
  sameFmap : Bool
  ftab : List (List Nat)
  samePmap : Bool
  ptab : List (List Nat)
  half : List Bool
  filters : List (List Int × TableCoding)
  ptables : List (List Int × TableCoding)
  deriving DecidableEq, Repr

/-- The bits of a coded frame up to its arithmetic code (42_dst_header.md R250). -/
def Header.bits (x : Header) (fb : Nat) : List Bool :=
  [true, x.copySeg] ++ segmentationBits (fb - 128) x.sameFseg x.fseg ++
    (if x.copySeg then [] else segmentationBits (fb - 4) x.samePseg x.pseg) ++
    x.copyMap :: x.sameFmap :: numberBits 1 (mappedNumbers x.sameFmap x.ftab) ++
    (if x.copyMap then [] else x.samePmap :: numberBits 1 (mappedNumbers x.samePmap x.ptab)) ++ x.half ++
    x.filters.flatMap (fun t => filterBits t.1 t.2) ++ x.ptables.flatMap (fun t => ptableBits t.1 t.2)

/-- A header that the rules allow, for `ch` channels of `fb` bytes (42_dst_header.md R250 to R267). -/
structure Header.Legal (x : Header) (ch fb : Nat) : Prop where
  fseg : segmentationLegal ch fb 1024 x.sameFseg x.fseg
  pseg : if x.copySeg then x.pseg = x.fseg else segmentationLegal ch fb 32 x.samePseg x.pseg
  ftab : mappingLegal ch x.filters.length x.sameFmap x.fseg x.ftab
  ptab : if x.copyMap then x.ptab = x.ftab ∧ x.ptables.length = x.filters.length ∧
      x.pseg.seglen.map List.length = x.fseg.seglen.map List.length
    else mappingLegal ch x.ptables.length x.samePmap x.pseg x.ptab
  half : x.half.length = ch
  filters : ∀ t ∈ x.filters, 1 ≤ t.1.length ∧ t.1.length ≤ 128 ∧ (∀ c ∈ t.1, -256 ≤ c ∧ c ≤ 255) ∧
    codingLegal t.1.length t.2
  ptables : ∀ t ∈ x.ptables, 1 ≤ t.1.length ∧ t.1.length ≤ 64 ∧ (∀ c ∈ t.1, 1 ≤ c ∧ c ≤ 128) ∧
    (t.1.length = 1 → t.1 = [128]) ∧ codingLegal t.1.length t.2

/-- The segment bit `bn` of a channel lies in: as many explicit segments end at or before it (42_dst_header.md R254). -/
def segmentAt (sg : Segmentation) (c bn : Nat) : Nat :=
  ((List.range (sg.seglen.getD c []).length).filter fun j =>
    8 * sg.resolution * ((sg.seglen.getD c []).take (j + 1)).sum ≤ bn).length

/-- One arithmetic decode with probability `p` from `(A, C, cbptr)`: the bit and what is left (41_arith_decoder.md R223,
R226). -/
def acNext (sl : Slot) (p : Nat) (x : Nat × Nat × Nat) : Nat × Nat × Nat × Nat :=
  let ap := (x.1 / 256 ||| x.1 / 128 % 2) * p
  let h := x.1 - ap
  let y := if h ≤ x.2.1 then (0, ap, x.2.1 - h) else (1, h, x.2.1)
  let n := 12 - Nat.size y.2.1
  (y.1, y.2.1 * 2 ^ n, (y.2.2 * 2 ^ n + codeBits sl x.2.2 n) % 2 ^ 32, x.2.2 + n)

/-- The value of tap `i` before bit `bn`, from the bits `out` of the channel so far; before the frame the taps
alternate, the most recent one −1 (43_dst_residual.md R304, R310). -/
def tapAt (out : Nat → Bool) (bn i : Nat) : Int :=
  if i < bn then (if out (bn - 1 - i) then 1 else -1) else if (i - bn) % 2 = 1 then 1 else -1

/-- The filter of bit `bn` of a channel (43_dst_residual.md R310). -/
def filterAt (fd : FrameDec) (c bn : Nat) : List Int :=
  fd.coef.getD ((fd.ftab.getD c []).getD (segmentAt fd.fseg c bn) 0) []

/-- The prediction for bit `bn` of a channel (43_dst_residual.md R310, R311). -/
def predictedSum (fd : FrameDec) (out : Nat → Bool) (c bn : Nat) : Int :=
  ((List.range (filterAt fd c bn).length).map fun i => (filterAt fd c bn).getD i 0 * tapAt out bn i).sum

/-- The probability for bit `bn` of a channel (43_dst_residual.md R310, 41_arith_decoder.md R228). -/
def probabilityAt (fd : FrameDec) (out : Nat → Bool) (c bn : Nat) : Nat :=
  if fd.halfprob.getD c false = true ∧ bn < (filterAt fd c bn).length then 128
  else
    let table := fd.pone.getD ((fd.ptab.getD c []).getD (segmentAt fd.pseg c bn) 0) []
    (table.getD (min ((predictedSum fd out c bn).natAbs / 8) (table.length - 1)) 0).toNat

/-- The probability of the first decode of a frame: the low 7 bits of the first coefficient in reverse, and one
(41_arith_decoder.md R230, 43_dst_residual.md R305). -/
def firstProbability (fd : FrameDec) : Nat :=
  1 + ((List.range 7).map fun j =>
    (((fd.coef.getD 0 []).getD 0 0 % 128).toNat.testBit j).toNat * 2 ^ (6 - j)).sum

/-- The decode of a coded frame whose header is parsed (43_dst_residual.md R303 to R312): `at k` is the arithmetic
decoder after `k` decodes, the first of which is thrown away, and `out c bn` is bit `bn` of channel `c`. -/
structure Decoded (d : Slot) (ch fb : Nat) (after : Nat → Nat × Nat × Nat) (out : Nat → Nat → Bool) : Prop where
  start : after 0 = (4095, codeBits d 1 12, 13)
  xbit : after 1 = (acNext d (firstProbability d.fd) (after 0)).2
  sample : ∀ bn c, bn < 8 * fb → c < ch →
    after (bn * ch + c + 2) = (acNext d (probabilityAt d.fd (out c) c bn) (after (bn * ch + c + 1))).2 ∧
    out c bn = (decide (predictedSum d.fd (out c) c bn < 0) ^^
      decide ((acNext d (probabilityAt d.fd (out c) c bn) (after (bn * ch + c + 1))).1 = 1))

end Sys2Proof.Claims

open Sys2Proof.Claims

/-! ## Encodings and the step -/

/-- 30_encoding.md R141, R143, R151: for every well-formed instruction, with every operand at every value its encoding
admits, decoding its encoding gives it back. -/
def Obligations.DecodeOfEncode : Prop := ∀ i : Instr, i.wellFormed = true → decodeEncoding (encode i) = .ok i

/-- 30_encoding.md R141, R160 ("no encoding that executes as another command"): a word that decodes is the encoding of
the instruction it decodes to, so two words never stand for one instruction. -/
def Obligations.EncodeOfDecode : Prop :=
  (∀ w i, decode w = .ok i → i.wellFormed = true ∧ encode i = .command w) ∧
  (∀ b i, decodeFrameByte b = .ok i → i.wellFormed = true ∧ encode i = .frameByte b)

/-- 30_encoding.md R160, 60_exceptions.md R611: a word whose opcode is not in the table, or with a nonzero bit outside
its format's fields, is refused with `E_ILLEGAL` and the word, and nothing else changes; every other word decodes. -/
def Obligations.IllegalWordsAreRefused : Prop :=
  (∀ w, (∃ i, decode w = .ok i) ↔ legalWord w) ∧
  (∀ s w ws, s.ready → s.cmd = w :: ws → ¬ legalWord w →
    step s = .next (({ s with cmd := ws } : State).refusedWith 1 w.toNat))

/-- 30_encoding.md R143, R151: words written out from the encodings decode to the instructions they stand for. -/
def Obligations.SampleWordsDecode : Prop :=
  decode 0x03000001 = .ok (.initTrack 0 0 1) ∧ decode 0x10000200 = .ok (.setTrack 0 2) ∧
  decode 0x23000001 = .ok (.collect 1) ∧ decode 0x33090000 = .ok (.brReadSigned 9) ∧
  decode 0x41000100 = .ok (.acDecode 0 1) ∧ decode 0x4202FF00 = .ok (.acQuantize 2 0xFF00) ∧
  decode 0x55008002 = .ok (.pcPack 8 2) ∧ decodeFrameByte 0xFC = .ok (.dstfCoded 0x7C) ∧
  decodeFrameByte 0x40 = .ok (.dstfPlain 1)

/-- 20_memory.md R120, R122; 70_reset_and_hazards.md R710 (k): the next command word is taken off the port and run; a
command in progress is run again; a slot whose agent moves runs the frame its first byte names (assumption log 8, 12).
-/
def Obligations.StepRunsTheDecodedInstruction : Prop :=
  (∀ s w ws i, s.ready → s.cmd = w :: ws → decode w = .ok i → step s = exec i { s with cmd := ws }) ∧
  (∀ s i, s.rst = false → s.turns = [] → s.stuck = false → s.held = some i → step s = exec i { s with held := none }) ∧
  (∀ s k ks i, s.rst = false → s.turns = k :: ks → (s.slot k).slotState = .busy →
    decodeFrameByte (bufByte (s.slot k).br.inbuf 0) = .ok i → step s = exec i s)

/-- 70_reset_and_hazards.md R700, R701: the rst input puts the block in its reset state whatever it was doing, and takes
nothing from and gives nothing to the ports. That the rst input is low again after the step is the model's choice
(assumption log 11). -/
def Obligations.ResetInputResets : Prop :=
  ∀ s, s.rst = true → step s = .next
    { State.reset with
      cmd := s.cmd, din := s.din, dout := s.dout, rsp := s.rsp, medium := s.medium, mediumSize := s.mediumSize,
      answers := s.answers, turns := s.turns }

/-- 44_dst_pool.md R347: a submission to a full ring never completes. No byte of DIN is consumed, no response is given,
no later command is accepted, and the rst input ends the state. That the command is held in the state is the model's
form (assumption log 7). -/
def Obligations.FullRingIsStuck : Prop :=
  ∀ s size i, (i = .submit size ∨ i = .submitDsd size) → s.sess ≠ .track → s.pool.dstCh ≠ 0 →
    s.pool.draining = false → 1 ≤ size → (i = .submit size → size ≤ 112897) → (i = .submitDsd size → size ≤ 225792) →
    Config.nSlots ≤ s.pool.ringCount →
    exec i s = .next { s with held := some i, stuck := true } ∧
    (∀ t : State, t.stuck = true → t.rst = false → ∃ u, step t = .next u ∧ u.stuck = true ∧ u.cmd = t.cmd ∧
      u.din = t.din ∧ u.dout = t.dout ∧ u.rsp = t.rsp ∧ (t.turns = [] → u = t)) ∧
    (∀ t : State, t.rst = true → ∃ u, step t = .next u ∧ u.stuck = false ∧ u.held = none)

/-- 70_reset_and_hazards.md R710 (k): a command that takes more bytes than DIN holds waits and consumes none of them.
Holding the command in the state is the model's form (assumption log 7). -/
def Obligations.ShortDinWaits : Prop :=
  ∀ s size, s.sess ≠ .track → s.din.length < size →
    (s.selected.slotState = .free → size ≤ 112897 →
      exec (.brLoad size) s = .next { s with held := some (.brLoad size) }) ∧
    (s.pool.dstCh ≠ 0 → s.pool.draining = false → s.pool.ringCount < Config.nSlots → size ≤ 112897 →
      exec (.submit size) s = .next { s with held := some (.submit size) }) ∧
    (s.pool.dstCh ≠ 0 → s.pool.draining = false → s.pool.ringCount < Config.nSlots → size ≤ 225792 →
      exec (.submitDsd size) s = .next { s with held := some (.submitDsd size) }) ∧
    (s.pc.t ≠ 0 → size % s.pc.ch = 0 → size / s.pc.ch ≤ 4704 * s.pc.k →
      exec (.pcConvert size) s = .next { s with held := some (.pcConvert size) })

/-! ## Rules over all instructions -/

/-- 30_encoding.md R140, R144: a command only appends to DOUT and to RSP, takes a run of bytes from the front of DIN,
and gives exactly one response, or none while it waits. -/
def Obligations.PortsOfEveryCommand : Prop :=
  ∀ i s t, exec i s = .next t →
    (∃ out, t.dout = s.dout ++ out) ∧ (∃ n, t.din = s.din.drop n) ∧
    ((∃ r, t.rsp = s.rsp ++ [r]) ∨ (t.rsp = s.rsp ∧ (i.isFrame = true ∨ t.held = some i)))

/-- 60_exceptions.md R600 (a), R613: a command that ends with `E_OPERAND`, `E_STATE` or `E_ORDER` changes nothing but
LAST_ERROR and the response; only `SEEK` can have read the medium first, which uses up answers of the medium
(assumption log 6). -/
def Obligations.RefusalsChangeNothing : Prop :=
  ∀ i s t r, exec i s = .next t → t.rsp = s.rsp ++ [r] → r.status = 2 ∨ r.status = 3 ∨ r.status = 4 →
    t = { s with lastError := t.lastError, rsp := t.rsp, answers := t.answers } ∧
    ((∀ f, i ≠ .seek f) → t.answers = s.answers)

/-- 60_exceptions.md R601: every response whose status is not OK is recorded in LAST_ERROR, the code in bits 7:0 and the
low 24 bits of the value above it. -/
def Obligations.ExceptionsAreRecorded : Prop :=
  ∀ i s t r, exec i s = .next t → t.rsp = s.rsp ++ [r] → r.status ≠ 0 →
    t.lastError = BitVec.ofNat 32 (r.status.toNat + r.value.toNat % 2 ^ 24 * 2 ^ 8)

/-- 20_memory.md R106: the block never writes the medium; a step only asks it, and each read is answered by the next
answer. That the answers are a list in the state is the model's form (assumption log 6). -/
def Obligations.MediumIsReadOnly : Prop :=
  ∀ s t, step s = .next t →
    t.medium = s.medium ∧ t.mediumSize = s.mediumSize ∧ ∃ n, t.answers = s.answers.drop n

/-- 48_session.md R541: the session state changes only as its table says, and every other pair of state and session
command is refused with `E_STATE` and changes nothing. -/
def Obligations.SessionStateMachine : Prop :=
  (∀ s t, s.rst = true → step s = .next t → t.sess = .closed) ∧
  ∀ i s t, exec i s = .next t →
    match i with
    | .openMedium kind =>
      (kind ≤ 3 → s.sess ≠ .closed → t = s.refusedWith 3 s.sess.code) ∧
      ∃ r, t.rsp = s.rsp ++ [r] ∧ if r.status = 0 then s.sess = .closed ∧ t.sess = .opened else t.sess = s.sess
    | .initTrack _ _ _ =>
      (s.sess = .closed → t = s.refusedWith 3 0) ∧
      ∃ r, t.rsp = s.rsp ++ [r] ∧ if r.status = 0 then s.sess ≠ .closed ∧ t.sess = .track else t.sess = s.sess
    | .decodeNext =>
      (s.sess ≠ .track → t = s.refusedWith 3 s.sess.code) ∧
      (s.sess = .track → ∃ v, t.rsp = s.rsp ++ [{ status := 0, value := v }] ∧
        t.sess = if v.getLsbD 0 = true then .track else .drained)
    | .close => t.sess = .closed
    | .reset => t.sess = .closed
    | _ => t.sess = s.sess

/-- 48_session.md R542, 60_exceptions.md R602: while the session owns the units every unit-level command is refused
with `E_STATE`, value 2, whatever its operands; outside a session the commands on the selected slot are refused with
`E_STATE` when it holds a job (the value 0 where the rule names none: assumption log 18), whatever the operand is:
that the slot check comes before the operand check is assumption log 28. -/
def Obligations.UnitCommandsAreRefused : Prop :=
  (∀ s i, s.sess = .track →
    (match i with
      | .setTrack _ _ | .readFrame | .seek _ | .poolInit _ | .submit _ | .submitDsd _ | .collect _ | .dstDecode
      | .slotRead | .brLoad _ | .brReadBit | .brReadBits _ | .brReadSigned _ | .brReadByteAligned | .brRice _
      | .acStart | .acDecode _ _ | .pcInit _ _ _ | .pcConvert _ | .pcDegibbs _ _ | .pcPack _ _ | .pcReadf => True
      | _ => False) →
    exec i s = .next (s.refusedWith 3 2)) ∧
  (∀ s i, s.sess ≠ .track → s.selected.slotState ≠ .free →
    (match i with
      | .dstDecode | .slotRead | .brLoad _ | .brReadBit | .brReadBits _ | .brReadSigned _ | .brReadByteAligned
      | .brRice _ | .acStart | .acDecode _ _ => True
      | _ => False) →
    exec i s = .next (s.refusedWith 3 0))

/-! ## The session -/

/-- 48_session.md R540, 46_fx_files.md R462, R465, R475 to R479, 47_fx_sector.md R501, R503, R504: `OPEN` of any
medium ends with an open container of the kind asked for, with a legal geometry, or closed with the extractor at
reset. On a medium that answers every read with its own bytes: a well-formed DSF header opens as the header says, a
DSDIFF form as its chunks say, in whatever order they come and whatever other chunks lie between them, a disc as its
tables say, in either sector layout; a wrong master chunk size or a file size beyond the medium, a wrong form type, a
chunk beyond the form, a form without the chunks it needs, a newer major version or a disc without areas is a corrupt
container with the information of its rule; a kind above 3 is an operand error; a DSF asked for on a medium without
its magic is an unsupported format. How the DSDIFF walk reads a chunk is assumption log 15; that the sector of a track
list keeps a number that its register does not hold is assumption log 3. -/
def Obligations.OpenReadsTheContainer : Prop :=
  (∀ s kind, s.sess = .closed → kind ≤ 3 → ∃ t r, exec (.openMedium kind) s = .next t ∧
    t = { s with
      sess := t.sess, fx := t.fx, lastError := t.lastError, answers := t.answers, rsp := s.rsp ++ [r] } ∧
    (r.status = 0 ∧ r.value = val (t.fx.trackCount + t.fx.kind.code * 2 ^ 16) ∧ t.sess = .opened ∧
        t.lastError = s.lastError ∧ t.fx.kind ≠ .none ∧ (kind = 0 ∨ kind = t.fx.kind.code) ∧ t.fx.Inv ∧
        t.fx.trackSelected = false ∧
        t.fx.trackCount = (if t.fx.kind = .sector then t.fx.sec.area1.tracks + t.fx.sec.area2.tracks else 1) ∨
      (r.status = 0x20 ∨ r.status = 0x21) ∧ t.sess = .closed ∧ t.fx = Fx.reset)) ∧
  (∀ s kind hd, s.sess = .closed → s.answers = [] → kind = 0 ∨ kind = 3 →
    s.mediumBytes 0 4 = [0x44, 0x53, 0x44, 0x20] → hd = s.mediumBytes 0 92 → hd.length = 92 →
    (leField hd 4 8 ≠ 28 →
      exec (.openMedium kind) s = .next (({ s with fx := Fx.reset } : State).refusedWith 0x21 4)) ∧
    (leField hd 4 8 = 28 → s.mediumSize.toNat < leField hd 12 8 →
      exec (.openMedium kind) s = .next (({ s with fx := Fx.reset } : State).refusedWith 0x21 12)) ∧
    (leField hd 4 8 = 28 → leField hd 12 8 ≤ s.mediumSize.toNat → slice hd 28 4 = [0x66, 0x6D, 0x74, 0x20] →
      leField hd 32 8 = 52 → leField hd 40 4 = 1 → leField hd 44 4 = 0 →
      1 ≤ leField hd 52 4 ∧ leField hd 52 4 ≤ 6 → leField hd 56 4 ∈ [2822400, 5644800, 11289600, 22579200] →
      leField hd 60 4 = 1 ∨ leField hd 60 4 = 8 → 1 ≤ leField hd 72 4 ∧ leField hd 72 4 ≤ 65536 →
      slice hd 80 4 = [0x64, 0x61, 0x74, 0x61] → 12 ≤ leField hd 84 8 → 80 + leField hd 84 8 ≤ s.mediumSize.toNat →
      (leField hd 84 8 - 12) % (leField hd 52 4 * leField hd 72 4) = 0 →
      exec (.openMedium kind) s = .next (({ s with
        sess := .opened
        fx := { Fx.reset with
          kind := .dsf, ch := leField hd 52 4, rate := leField hd 56 4, trackCount := 1
          dataStart := 92, dataEnd := 80 + leField hd 84 8
          dsf := { Fx.reset.dsf with
            chtype := leField hd 48 4, lsb := decide (leField hd 60 4 = 1), sampleCount := leField hd 64 8
            blockSize := leField hd 72 4 } } } : State).okWith 0x30001))) ∧
  (∀ s kind chunks props fx, s.sess = .closed → s.answers = [] → kind = 0 ∨ kind = 2 →
    s.mediumBytes 0 (dffBytes chunks).length = dffBytes chunks → (∀ c ∈ chunks ++ props, c.id.length = 4) →
    dffSays chunks props fx →
    exec (.openMedium kind) s = .next (({ s with sess := .opened, fx := fx } : State).okWith 0x20001)) ∧
  (∀ s kind hd stop, s.sess = .closed → s.answers = [] → kind = 0 ∨ kind = 2 → hd = s.mediumBytes 0 16 →
    s.mediumBytes 0 4 = magicFrm8 → stop = min (12 + beField hd 4 8) s.mediumSize.toNat →
    (hd.length < 16 ∨ slice hd 12 4 ≠ magicDsd →
      exec (.openMedium kind) s = .next (({ s with fx := Fx.reset } : State).refusedWith 0x21 12)) ∧
    (hd.length = 16 → slice hd 12 4 = magicDsd → 28 ≤ stop → stop < 28 + beField (s.mediumBytes 16 12) 4 8 →
      exec (.openMedium kind) s = .next (({ s with fx := Fx.reset } : State).refusedWith 0x21 16)) ∧
    (hd.length = 16 → slice hd 12 4 = magicDsd → stop < 28 →
      exec (.openMedium kind) s = .next (({ s with fx := Fx.reset } : State).refusedWith 0x21 0))) ∧
  (∀ s kind psn m a1 a2, s.sess = .closed → s.answers = [] →
    kind = 1 ∨ kind = 0 ∧ s.mediumBytes 0 4 ≠ magicFrm8 ∧ s.mediumBytes 0 4 ≠ magicDsd →
    (psn = true → s.mediumBytes (510 * 2048) 8 ≠ magicMasterToc) → m = discSector s psn 510 → m.length = 2048 →
    m.take 8 = magicMasterToc →
    (beField m 8 1 ≤ 1 → beField m 64 4 ≠ 0 ∨ beField m 72 4 ≠ 0 →
      discArea s psn magicTwoChToc (beField m 64 4) (beField m 84 2) a1 →
      discArea s psn magicMulChToc (beField m 72 4) (beField m 86 2) a2 →
      exec (.openMedium kind) s = .next (({ s with
        sess := .opened
        fx := { Fx.reset with
          kind := .sector, trackCount := a1.tracks + a2.tracks
          sec := { Fx.reset.sec with psn := psn, area1 := a1, area2 := a2 } } } : State).okWith
        (val (a1.tracks + a2.tracks + 0x10000)))) ∧
    (1 < beField m 8 1 →
      exec (.openMedium kind) s = .next (({ s with fx := Fx.reset } : State).refusedWith 0x21 8)) ∧
    (beField m 8 1 ≤ 1 → beField m 64 4 = 0 → beField m 72 4 = 0 →
      exec (.openMedium kind) s = .next (({ s with fx := Fx.reset } : State).refusedWith 0x21 64))) ∧
  (∀ s kind, 3 < kind → exec (.openMedium kind) s = .next (s.refusedWith 2 kind)) ∧
  (∀ s, s.sess = .closed → s.answers = [] → s.mediumBytes 0 4 ≠ [0x44, 0x53, 0x44, 0x20] →
    exec (.openMedium 3) s = .next (({ s with fx := Fx.reset } : State).refusedWith 0x20 0))

/-- 46_fx_files.md R452, R467, R480, 47_fx_sector.md R505, R506: `SET_TRACK` on an open container, for every kind,
completes, leaves the extractor as the rule of the kind says, every register it does not name as it was, clears
`err_count` and answers the channel count. On a disc the sector of the track list must come in full; that it is read
once is assumption log 16, that a frame count fits its register assumption log 3, where a sector begins assumption log
26. -/
def Obligations.SetTrackSelects : Prop :=
  ∀ s track area a, s.sess = .opened → areaOperand area = some a → track < s.fx.tracksIn a →
    (s.fx.kind = .sector → (s.sectorRead (s.fx.sec.place track a).1.trlLsn).1.length = 2048) →
    ∃ u fx, selectsTrack s u fx track area a ∧ exec (.setTrack track area) s = .next { u with
      errCount := 0, fx := fx, rsp := s.rsp ++ [{ status := 0, value := val fx.ch }] }

/-- 48_session.md R545, R546, 44_dst_pool.md R341, 45_dsd_pcm.md R370: `INIT_TRACK`, for every kind of container,
completes: it is the body of `SET_TRACK`, the body of `POOL_INIT` after the decodes in flight have run to completion
and the body of `PC_INIT` with the track's channels and rate; the session's registers take the track's parameters and
it owns the units; nothing else changes. The track list is read once (assumption log 16); what PCMBUF holds is hidden
(assumption log 26). -/
def Obligations.InitTrackStartsTheSession : Prop :=
  ∀ s track area pcm a, s.sess ≠ .closed → areaOperand area = some a → pcm ≤ 3 → track < s.fx.tracksIn a →
    ¬ (s.fx.kind = .dsdiff ∧ s.fx.dst = true ∧ s.fx.rate = 22579200) →
    (s.fx.kind = .sector → (s.sectorRead (s.fx.sec.place track a).1.trlLsn).1.length = 2048) →
    ∃ u fx t, selectsTrack s u fx track area a ∧ exec (.initTrack track area pcm) s = .next t ∧
      t = { u with
        sess := .track, ch := fx.ch, dsdRate := fx.rate, k := fx.rate / 2822400
        pcmRate := [88200, 96000, 176400, 192000].getD pcm 0, errCount := 0, slots := t.slots
        pool := { dstCh := fx.ch, dstFb := if fx.rate / 600 ≤ 18816 then fx.rate / 600 else s.pool.dstFb, head := 0,
                  tail := 0, ringCount := 0, submitSeq := 0, collectSeq := 0, draining := false }
        fx := fx, pc := t.pc, rsp := s.rsp ++ [{ status := 0, value := val fx.ch }] } ∧
      (∀ j d, d = (if (s.slot j).slotState = .busy then (s.slot j).frameDecode s.pool.dstCh s.pool.dstFb else s.slot j) →
        t.slot j = { d with
          slotState := .free, slotStatus := .ok, slotCause := .none, outSize := 0
          br := { d.br with totalBits := 0, pos := 0, brErr := false }
          ac := { d.ac with acInit := true }, fd := { d.fd with dstate := .idle } }) ∧
      ∀ dsd u d tt spf delta fade, (dsd, pcm, u, d, tt, spf, delta, fade) ∈ modeRows → fx.rate = 2822400 * 2 ^ dsd →
        t.pc = {
          ch := fx.ch, t := tt, d := d, u := u, resample := decide (u ≠ 1), k := 2 ^ dsd, spf := spf
          h := coef (2 ^ dsd) ([88200, 96000, 176400, 192000].getD pcm 0), hist := List.replicate fx.ch [], rxCount := 0
          outCount := 0, lcg := s.ditherSeedHi ++ s.ditherSeedLo, delay := { num := tt, den := 2 * d }
          delayClamped := { num := tt, den := 2 * d }, pcmOutDelta := delta, fadeLen := fade, convertCalled := false
          pcmBuf := t.pc.pcmBuf, pcmN := 0 }

/-- 48_session.md R545, 46_fx_files.md R452, 47_fx_sector.md R506: what `SET_TRACK` and `INIT_TRACK` refuse, and the one
bad read that is a response status, after which nothing else has changed. -/
def Obligations.TrackSelectionRefused : Prop :=
  (∀ s track area, s.sess ≠ .opened → s.sess ≠ .track →
    exec (.setTrack track area) s = .next (s.refusedWith 3 s.sess.code)) ∧
  (∀ s track area, s.sess = .opened → 3 ≤ area → exec (.setTrack track area) s = .next (s.refusedWith 2 area)) ∧
  (∀ s track area a, s.sess = .opened → areaOperand area = some a → s.fx.tracksIn a ≤ track →
    exec (.setTrack track area) s = .next (s.refusedWith 2 track)) ∧
  (∀ s track area pcm, s.sess ≠ .closed →
    (3 ≤ area → exec (.initTrack track area pcm) s = .next (s.refusedWith 2 area)) ∧
    (area ≤ 2 → 4 ≤ pcm → exec (.initTrack track area pcm) s = .next (s.refusedWith 2 pcm))) ∧
  (∀ s track area pcm a, s.sess ≠ .closed → areaOperand area = some a → pcm ≤ 3 →
    (s.fx.tracksIn a ≤ track → exec (.initTrack track area pcm) s = .next (s.refusedWith 2 track)) ∧
    (track < s.fx.tracksIn a → s.fx.kind = .dsdiff → s.fx.dst = true → s.fx.rate = 22579200 →
      exec (.initTrack track area pcm) s = .next (s.refusedWith 2 8)) ∧
    (track < s.fx.tracksIn a → s.fx.kind = .sector →
      (s.sectorRead (s.fx.sec.place track a).1.trlLsn).1.length < 2048 → ∃ rest,
      exec (.initTrack track area pcm) s = .next
        (({ s with answers := rest } : State).refusedWith 0x12 (s.fx.sec.place track a).1.trlLsn) ∧
      (s.sess = .opened → exec (.setTrack track area) s = .next
        (({ s with answers := rest } : State).refusedWith 0x12 (s.fx.sec.place track a).1.trlLsn))))

/-- 48_session.md R550, R553: in a session `DECODE_NEXT` always completes with status OK, whatever the frames were; its
value tells `more` and the samples per channel, of which DOUT takes three bytes each; and a track that ended before any
sample was converted drains with nothing. -/
def Obligations.DecodeNextCompletes : Prop :=
  (∀ s, s.sess = .track → ∃ t more n bytes, exec .decodeNext s = .next t ∧
    t = { s with
      sess := t.sess, errCount := t.errCount, lastError := t.lastError, slots := t.slots, pool := t.pool, fx := t.fx
      pc := t.pc, answers := t.answers, dout := s.dout ++ bytes
      rsp := s.rsp ++ [{ status := 0, value := BitVec.ofNat 64 (more + n * 2 ^ 8) }] } ∧
    bytes.length = 3 * s.pc.ch * n ∧
    (more = 1 ∧ t.sess = .track ∨ more = 0 ∧ t.sess = .drained ∧ t.pool.ringCount = 0) ∧
    t.pool.dstCh = s.pool.dstCh ∧ t.pool.dstFb = s.pool.dstFb) ∧
  (∀ s, s.sess = .track → s.fx.eot = true → s.pool.ringCount = 0 → s.pc.convertCalled = false →
    exec .decodeNext s = .next (({ s with sess := .drained } : State).okWith 0))

/-- 48_session.md R558: `CLOSE` in any state: the ring, the converter and the extractor are given up, `err_count`,
LAST_ERROR and every writable register are kept. That the table `h` and PCMBUF are kept too is the model's choice
(assumption log 26). -/
def Obligations.CloseTearsDown : Prop :=
  ∀ s, ∃ t, exec .close s = .next t ∧
    t = { s with
      sess := .closed, ch := 0, dsdRate := 0, k := 0, pcmRate := 0, slots := t.slots
      pool := { dstCh := 0, dstFb := s.pool.dstFb, head := 0, tail := 0, ringCount := 0, submitSeq := 0, collectSeq := 0,
                draining := false }
      fx := Fx.reset, pc := { Pc.reset with h := s.pc.h, pcmBuf := s.pc.pcmBuf }
      rsp := s.rsp ++ [{ status := 0, value := 0 }] } ∧
    ∀ j, (t.slot j).slotState = .free ∧ (t.slot j).slotStatus = .ok ∧ (t.slot j).slotCause = .none ∧
      (t.slot j).outSize = 0 ∧ (t.slot j).br.totalBits = 0 ∧ (t.slot j).br.pos = 0 ∧ (t.slot j).br.brErr = false ∧
      (t.slot j).ac.acInit = true ∧ (t.slot j).fd.dstate = .idle

/-- 48_session.md R560, 10_state.md R52, R53: `RDREG` of every register, in every state; the registers of a `BUSY`
slot read 0; STATUS holds the fields of R53 (a `ring_count` above 255 does not occur: assumption log 1), in the state
after reset as in every other (assumption log 9). -/
def Obligations.RdregReadsEveryRegister : Prop :=
  (∀ s r, r ∈ [ (0x00, 0x53414344), (0x02, s.errCount.toNat), (0x03, s.warnThreshold.toNat), (0x04, s.slotSel),
      (0x05, Config.nSlots), (0x06, s.pool.dstFb), (0x07, s.pool.dstCh), (0x08, s.ditherDepth),
      (0x09, s.ditherSeedLo.toNat), (0x0A, s.ditherSeedHi.toNat), (0x0B, s.silence.toNat), (0x0C, s.ch),
      (0x0D, s.dsdRate), (0x0E, s.pcmRate), (0x0F, 75), (0x10, s.fx.frameIndex), (0x11, s.fx.frameTotal),
      (0x12, s.pc.pcmOutDelta), (0x13, s.pc.t), (0x14, s.pc.d), (0x15, s.pc.u), (0x1B, s.lastError.toNat),
      (0x1C, s.fx.badReads.toNat), (0x1D, s.fx.trackCount), (0x1E, s.pc.pcmN), (0x1F, s.pool.submitSeq.toNat),
      (0x20, s.pool.collectSeq.toNat) ] →
    exec (.rdreg r.1) s = .next (s.okWith (BitVec.ofNat 64 r.2))) ∧
  (∀ s r, r ∈ [ (0x16, s.selected.br.pos), (0x17, s.selected.br.totalBits), (0x18, s.selected.ac.a.toNat),
      (0x19, s.selected.ac.c.toNat), (0x1A, s.selected.ac.cbptr) ] →
    exec (.rdreg r.1) s =
      .next (s.okWith (BitVec.ofNat 64 (if s.selected.slotState = .busy then 0 else r.2)))) ∧
  (∀ s, s.pool.ringCount < 256 → ∃ w, exec (.rdreg 0x01) s = .next (s.okWith (BitVec.ofNat 64 w)) ∧
    w % 4 = s.sess.code ∧ (w.testBit 2 ↔ s.warnThreshold.toNat < s.errCount.toNat) ∧
    (w.testBit 3 ↔ s.pc.convertCalled = true) ∧
    (w.testBit 4 ↔ s.selected.slotState ≠ .busy ∧ s.selected.br.brErr = true) ∧
    (w.testBit 5 ↔ s.selected.slotState ≠ .busy ∧ s.selected.ac.acInit = true) ∧
    w / 2 ^ 6 % 4 = s.fx.kind.code ∧ w / 2 ^ 8 % 256 = s.pool.ringCount ∧
    w / 2 ^ 16 % 4 = s.selected.slotState.code ∧ (w.testBit 18 ↔ s.fx.eot = true) ∧ w < 2 ^ 19) ∧
  (∀ s idx, 0x20 < idx → exec (.rdreg idx) s = .next (s.refusedWith 2 idx))

/-- 48_session.md R561, 10_state.md R52: every writable register takes every legal value, nothing else changes, and
`RDREG` then gives it back; the refusals come in the order of the rule. -/
def Obligations.WrregWritesAndRefuses : Prop :=
  (∀ s idx v,
    (idx = 0x03 ∧ v < 2 ^ 16 → exec (.wrreg idx v) s =
      .next (({ s with warnThreshold := BitVec.ofNat 16 v } : State).okWith (val v))) ∧
    (idx = 0x04 ∧ v < Config.nSlots → exec (.wrreg idx v) s =
      .next (({ s with slotSel := v } : State).okWith (val v))) ∧
    (s.sess ≠ .track →
      (idx = 0x06 ∧ 1 ≤ v ∧ v ≤ 18816 ∧ s.pool.ringCount = 0 → exec (.wrreg idx v) s =
        .next (({ s with pool := { s.pool with dstFb := v } } : State).okWith (val v))) ∧
      (idx = 0x08 ∧ v ≤ 32 → exec (.wrreg idx v) s =
        .next (({ s with ditherDepth := v } : State).okWith (val v))) ∧
      (idx = 0x09 ∧ v < 2 ^ 16 → exec (.wrreg idx v) s =
        .next (({ s with ditherSeedLo := BitVec.ofNat 16 v } : State).okWith (val v))) ∧
      (idx = 0x0A ∧ v < 2 ^ 16 → exec (.wrreg idx v) s =
        .next (({ s with ditherSeedHi := BitVec.ofNat 16 v } : State).okWith (val v))) ∧
      (idx = 0x0B ∧ v ≤ 255 → exec (.wrreg idx v) s =
        .next (({ s with silence := BitVec.ofNat 8 v } : State).okWith (val v))))) ∧
  (∀ s t idx v, v < 2 ^ 16 → exec (.wrreg idx v) s = .next (t.okWith (val v)) →
    exec (.rdreg idx) t = .next (t.okWith (val v))) ∧
  (∀ s idx v, idx ∉ [0x03, 0x04, 0x06, 0x08, 0x09, 0x0A, 0x0B] → exec (.wrreg idx v) s = .next (s.refusedWith 2 idx)) ∧
  (∀ s v, (Config.nSlots ≤ v → exec (.wrreg 0x04 v) s = .next (s.refusedWith 2 v)) ∧
    (v = 0 ∨ 18816 < v → exec (.wrreg 0x06 v) s = .next (s.refusedWith 2 v)) ∧
    (32 < v → exec (.wrreg 0x08 v) s = .next (s.refusedWith 2 v)) ∧
    (255 < v → exec (.wrreg 0x0B v) s = .next (s.refusedWith 2 v))) ∧
  (∀ s idx v, s.sess = .track →
    (idx = 0x06 ∧ 1 ≤ v ∧ v ≤ 18816 ∨ idx = 0x08 ∧ v ≤ 32 ∨ idx = 0x09 ∨ idx = 0x0A ∨ idx = 0x0B ∧ v ≤ 255) →
    exec (.wrreg idx v) s = .next (s.refusedWith 3 2)) ∧
  (∀ s v, s.sess ≠ .track → 1 ≤ v → v ≤ 18816 → s.pool.ringCount ≠ 0 →
    exec (.wrreg 0x06 v) s = .next (s.refusedWith 3 s.pool.ringCount))

/-- 48_session.md R562, R563, 70_reset_and_hazards.md R700, R701: `NOP` only answers; `RESET` puts every piece of
state at its reset value, keeps the ports, and answers. That the medium's answers and the turns of the slots, which
stand for the outside, are kept is the model's choice (assumption log 6, 8, 13). -/
def Obligations.NopAndReset : Prop :=
  decode 0 = .ok .nop ∧
  (∀ s, exec .nop s = .next (s.okWith 0)) ∧
  (∀ s, exec .reset s = .next (({ State.reset with
    cmd := s.cmd, din := s.din, dout := s.dout, rsp := s.rsp, medium := s.medium, mediumSize := s.mediumSize
    answers := s.answers, turns := s.turns } : State).okWith 0))

/-! ## The BitReader -/

/-- 40_bitreader.md R200, R202, R203: `BR_READ_BITS n` on a free slot, for every `n`; `BR_READ_BIT` is exactly
`BR_READ_BITS 1`. -/
def Obligations.ReadBitsReadsBits : Prop :=
  (∀ s n, s.unitFree →
    (32 < n → exec (.brReadBits n) s = .next (s.refusedWith 2 n)) ∧
    (n ≤ 32 → tooFew s n → exec (.brReadBits n) s = .next (readFails s)) ∧
    (n ≤ 32 → ¬ tooFew s n → exec (.brReadBits n) s = .next
      ((withBr s { s.selected.br with pos := s.selected.br.pos + n }).okWith
        (BitVec.ofNat 64 (bitsAt s.selected.br.inbuf s.selected.br.pos n))))) ∧
  (∀ s, s.unitFree → ¬ tooFew s 1 → exec .brReadBit s = .next
    ((withBr s { s.selected.br with pos := s.selected.br.pos + 1 }).okWith
      (BitVec.ofNat 64 (bitAt s.selected.br.inbuf s.selected.br.pos)))) ∧
  (∀ s, exec .brReadBit s = exec (.brReadBits 1) s)

/-- 40_bitreader.md R204, R205: `BR_READ_SIGNED n` reads the `n` bits as two's complement, sign-extended;
`BR_READ_BYTE_ALIGNED` moves to the next multiple of 8 and reads a byte. -/
def Obligations.SignedAndAlignedReads : Prop :=
  (∀ s n, s.unitFree →
    (n = 0 ∨ 32 < n → exec (.brReadSigned n) s = .next (s.refusedWith 2 n)) ∧
    (1 ≤ n → n ≤ 32 → tooFew s n → exec (.brReadSigned n) s = .next (readFails s)) ∧
    (1 ≤ n → n ≤ 32 → ¬ tooFew s n → exec (.brReadSigned n) s = .next
      ((withBr s { s.selected.br with pos := s.selected.br.pos + n }).okWith
        ((BitVec.ofNat n (bitsAt s.selected.br.inbuf s.selected.br.pos n)).signExtend 64)))) ∧
  (∀ s p, s.unitFree → p = (s.selected.br.pos + 7) / 8 * 8 →
    (s.selected.br.brErr = true ∨ s.selected.br.totalBits < p + 8 →
      exec .brReadByteAligned s = .next (readFails s)) ∧
    (s.selected.br.brErr = false → p + 8 ≤ s.selected.br.totalBits → exec .brReadByteAligned s = .next
      ((withBr s { s.selected.br with pos := p + 8 }).okWith ((bufByte s.selected.br.inbuf (p / 8)).setWidth 64))))

/-- 42_dst_header.md R270, 30_encoding.md R152: `BR_RICE m` reads back every Rice code, and otherwise, where the code is
not whole, ends with `OutOfData`. -/
def Obligations.RiceReadsRiceCodes : Prop :=
  (∀ s m v, s.unitFree → m ≤ 7 → s.selected.br.brErr = false →
    s.selected.br.pos + (riceCode m v).length ≤ s.selected.br.totalBits →
    (∀ j, j < (riceCode m v).length →
      bitAt s.selected.br.inbuf (s.selected.br.pos + j) = ((riceCode m v).getD j false).toNat) →
    exec (.brRice m) s = .next
      ((withBr s { s.selected.br with pos := s.selected.br.pos + (riceCode m v).length }).okWith (BitVec.ofInt 64 v))) ∧
  (∀ s m, s.unitFree → m ≤ 7 → ∃ t r, exec (.brRice m) s = .next t ∧ t.rsp = s.rsp ++ [r] ∧
    (r.status = 0 ∨ r.status = 0x10 ∧ t.selected.br.brErr = true ∧
      r.value = BitVec.ofNat 64 (t.selected.br.totalBits - t.selected.br.pos))) ∧
  (∀ s m, s.unitFree → 7 < m → exec (.brRice m) s = .next (s.refusedWith 2 m))

/-- 40_bitreader.md R201, 41_arith_decoder.md R221: `BR_LOAD` loads the next bytes of DIN from index 0 and starts the
slot's BitReader and arithmetic decoder afresh; `AC_START` marks the code at the cursor. -/
def Obligations.LoadAndStart : Prop :=
  (∀ s size, s.unitFree → size ≤ 112897 → size ≤ s.din.length → exec (.brLoad size) s = .next
    (({ s with din := s.din.drop size } : State).setSlot s.slotSel
      { s.selected with
        br := { inbuf := s.din.take size ++ s.selected.br.inbuf.drop size, totalBits := 8 * size, pos := 0,
                brErr := false }
        ac := { s.selected.ac with acInit := true, acBase := 0, acLen := 0 }
        fd := { s.selected.fd with dstate := .idle } } |>.okWith (val (8 * size)))) ∧
  (∀ s size, s.unitFree → 112897 < size → exec (.brLoad size) s = .next (s.refusedWith 2 size)) ∧
  (∀ s, s.unitFree → exec .acStart s = .next
    ((s.setSlot s.slotSel
      { s.selected with
        ac := { s.selected.ac with
          acInit := true, acBase := s.selected.br.pos, acLen := s.selected.br.totalBits - s.selected.br.pos } }).okWith
      (val (s.selected.br.totalBits - s.selected.br.pos))))

/-! ## The arithmetic decoder -/

/-- 41_arith_decoder.md R222 to R224, R226: one decoded bit, from a decoder that starts afresh or holds an interval a
decode leaves; `cbptr` is taken not to reach its width (assumption log 3). The refusals of R223. -/
def Obligations.AcDecodeDecodesABit : Prop :=
  (∀ s p a c ptr k ap h, s.unitFree → 1 ≤ p → p ≤ 128 →
    (s.selected.ac.acInit = true ∨ 2048 ≤ s.selected.ac.a.toNat ∧ s.selected.ac.a.toNat ≤ 4095) →
    s.selected.ac.cbptr + 11 < 2 ^ 24 → (a, c, ptr) = acReady s.selected →
    k = a / 256 ||| a / 128 % 2 → ap = k * p → h = a - ap →
    ∃ a' c' n, (a', c') = (if h ≤ c then (ap, c - h) else (h, c)) ∧ n ≤ 8 ∧ 2048 ≤ a' * 2 ^ n ∧ a' * 2 ^ n < 4096 ∧
      (n ≠ 0 → a' * 2 ^ (n - 1) < 2048) ∧
      (c < a → c' * 2 ^ n + codeBits s.selected ptr n < a' * 2 ^ n) ∧
      exec (.acDecode p 0) s = .next
        ((s.setSlot s.slotSel
          { s.selected with
            ac := { s.selected.ac with
              acInit := false, a := BitVec.ofNat 32 (a' * 2 ^ n)
              c := BitVec.ofNat 32 (c' * 2 ^ n + codeBits s.selected ptr n), cbptr := ptr + n } }).okWith
          (if h ≤ c then 0 else 1))) ∧
  (∀ s p flush, s.unitFree → 2 ≤ flush → exec (.acDecode p flush) s = .next (s.refusedWith 2 flush)) ∧
  (∀ s p, s.unitFree → p = 0 ∨ 128 < p → exec (.acDecode p 0) s = .next (s.refusedWith 2 p))

/-- 41_arith_decoder.md R225: the flush tells whether at most 7 code bits are unread and all of them are 0; whatever `p`
is, the next decode starts afresh. -/
def Obligations.AcFlushTestsTheRest : Prop :=
  ∀ s p a c ptr, s.unitFree → s.selected.ac.acLen < 2 ^ 24 → (a, c, ptr) = acReady s.selected →
    ∃ ptr', ptr ≤ ptr' ∧ exec (.acDecode p 1) s = .next
      ((s.setSlot s.slotSel
        { s.selected with
          ac := { s.selected.ac with
            acInit := true, a := BitVec.ofNat 32 a, c := BitVec.ofNat 32 c, cbptr := ptr' } }).okWith
        (if s.selected.ac.acLen ≤ ptr + 7 ∧ codeBits s.selected ptr (s.selected.ac.acLen - ptr) = 0 then 1 else 0))

/-- 41_arith_decoder.md R228: `AC_QUANTIZE` in every session state: the magnitude of the signed operand divided by 8,
clamped to the last index; no state is read or written. -/
def Obligations.AcQuantizeClamps : Prop :=
  (∀ s len pred, 1 ≤ len → len ≤ 64 → exec (.acQuantize len pred) s =
    .next (s.okWith (val (min ((BitVec.ofNat 16 pred).toInt.natAbs / 8) (len - 1))))) ∧
  (∀ s len pred, len = 0 ∨ 64 < len → exec (.acQuantize len pred) s = .next (s.refusedWith 2 len))

/-! ## DST frames -/

/-- 43_dst_residual.md R301, R314, R320: `DST_DECODE` of a frame whose first bit is 0: bit 6 is ignored, nonzero
stuffing bits are an error, a frame that is too short runs out of data; a frame that fails is silence. -/
def Obligations.PlainFrameDecodes : Prop :=
  ∀ s b0, s.unitFree → s.pool.dstCh ≠ 0 → b0 = bufByte s.selected.br.inbuf 0 → b0.toNat < 128 →
    (b0.toNat % 64 = 0 → 8 * (1 + poolFrame s) ≤ s.selected.br.totalBits →
      ∃ t : State, exec .dstDecode s = .next (t.okWith (val (poolFrame s))) ∧ t = { s with slots := t.slots } ∧
        t.selected.outSize = poolFrame s ∧ t.selected.fd.nbitsDecoded = 8 * poolFrame s ∧
        t.selected.slotState = .free ∧
        bufBytes t.selected.outbuf 0 (poolFrame s) = bufBytes s.selected.br.inbuf 1 (poolFrame s)) ∧
    (∀ c, (c = 1 ∧ b0.toNat % 64 ≠ 0 ∧ 8 ≤ s.selected.br.totalBits ∨
        c = 14 ∧ b0.toNat % 64 = 0 ∧ 8 ≤ s.selected.br.totalBits ∧
          s.selected.br.totalBits < 8 * (1 + poolFrame s) ∨
        c = 14 ∧ s.selected.br.totalBits = 0) →
      ∃ t : State, exec .dstDecode s = .next (t.refusedWith 0x11 c) ∧
        t = { s with slots := t.slots, errCount := errorCounted s } ∧
        t.selected.outSize = poolFrame s ∧
        bufBytes t.selected.outbuf 0 (poolFrame s) = List.replicate (poolFrame s) s.silence)

/-- 43_dst_residual.md R300, R302 to R305, R310 to R314, 42_dst_header.md R254, R275, 41_arith_decoder.md R222 to
R226, R228, R230: every frame decode, whatever the bytes, ends `Done` with exactly `C·FB` bytes and `C·B` bits, or
`Failed` with a cause 1 to 14 (`BIT_BUDGET` is never raised); and a coded frame whose decode gets to its end has
decoded, from the tables of its header, the bits that the arithmetic code, the predictions and the probabilities give,
sample by sample, and is good exactly when the rest of the code is at most 7 bits, all 0. That a prediction of +32768
predicts 0 is assumption log 4; that a decode that fails at the end of its code keeps the tables, the code's place and
the output it has written is assumption log 22. -/
def Obligations.FrameResult : Prop :=
  ∀ (sl d : Slot) ch fb, d = sl.frameDecode ch fb →
    (d.slotStatus = .ok ∧ d.outSize = ch * fb ∧ d.fd.nbitsDecoded = ch * (8 * fb) ∧ d.fd.dstate = .done ∧
        d.ac.acInit = true ∧ ch * fb ≤ d.outbuf.length ∨
      d.slotStatus = .frameDecodeError ∧ d.fd.dstate = .failed ∧ 1 ≤ d.slotCause.code ∧ d.slotCause.code ≤ 14) ∧
    d.slotState = sl.slotState ∧ d.slotSeq = sl.slotSeq ∧ d.slotKind = sl.slotKind ∧
    d.br.inbuf = sl.br.inbuf ∧ d.br.totalBits = sl.br.totalBits ∧ d.br.pos ≤ d.br.totalBits ∧
    (1 ≤ ch → ch ≤ 6 → fb ≤ 18816 → bitAt sl.br.inbuf 0 = 1 → d.slotStatus = .ok ∨ d.slotCause = .acTermination →
      ∃ after out, Decoded d ch fb after out ∧ codeAt d 0 = 0 ∧ d.ac.acBase = d.br.pos ∧
        d.ac.acLen = d.br.totalBits - d.br.pos ∧
        (∀ rest, rest = (after (8 * fb * ch + 1)).2.2 →
          (d.slotStatus = .ok ↔ d.ac.acLen ≤ rest + 7 ∧ codeBits d rest (d.ac.acLen - rest) = 0)) ∧
        ∀ j c, j < fb → c < ch → bufByte d.outbuf (j * ch + c) =
          BitVec.ofNat 8 (((List.range 8).map fun b => (out c (8 * j + b)).toNat * 2 ^ (7 - b)).sum))

/-- 43_dst_residual.md R314, R320, R321: `DST_DECODE` answers what the decode gave and puts silence in the place of a
failed frame; `SLOT_READ` emits the slot's output. -/
def Obligations.DstDecodeAndSlotRead : Prop :=
  (∀ s d, s.unitFree → s.pool.dstCh ≠ 0 → d = s.selected.frameDecode s.pool.dstCh s.pool.dstFb →
    (d.slotStatus = .ok →
      exec .dstDecode s = .next ((s.setSlot s.slotSel d).okWith (val (poolFrame s)))) ∧
    (d.slotStatus ≠ .ok →
      exec .dstDecode s = .next ((frameFailed s d).refusedWith 0x11 d.slotCause.code) ∧
      bufBytes (frameFailed s d).selected.outbuf 0 (poolFrame s) = List.replicate (poolFrame s) s.silence)) ∧
  (∀ s, s.unitFree → s.pool.dstCh = 0 → exec .dstDecode s = .next (s.refusedWith 3 0)) ∧
  (∀ s, s.unitFree → exec .slotRead s = .next
    (({ s with dout := s.dout ++ bufBytes s.selected.outbuf 0 s.selected.outSize } : State).okWith
      (val s.selected.outSize)))

/-- 43_dst_residual.md R300: "the decode is a function of (inbuf, total_bits, C, FB) only": two slots that hold the
same frame decode it alike, whatever else they hold and whatever they decoded before. What the tables hold after a
failed decode, which the spec leaves open, is the model's choice (assumption log 22). -/
def Obligations.DecodeDependsOnlyOnTheFrame : Prop :=
  ∀ (sl sl' d d' : Slot) ch fb, sl.br.totalBits = sl'.br.totalBits →
    (∀ j, 8 * j < sl.br.totalBits → bufByte sl.br.inbuf j = bufByte sl'.br.inbuf j) →
    d = sl.frameDecode ch fb → d' = sl'.frameDecode ch fb →
    d.slotStatus = d'.slotStatus ∧ d.fd = d'.fd ∧ d.br.pos = d'.br.pos ∧
    (d.slotStatus ≠ .ok → d.slotCause = d'.slotCause) ∧
    (d.slotStatus = .ok → d.outSize = d'.outSize ∧
      bufBytes d.outbuf 0 (ch * fb) = bufBytes d'.outbuf 0 (ch * fb))

/-- 44_dst_pool.md R344, 30_encoding.md R150 to R152, 42_dst_header.md R250 to R267: a frame row run by the agent of a
`BUSY` slot whose frame begins with that row's byte decodes the frame and leaves the slot `DONE`, and the decode of a
coded frame reads every header back: with the bits of any header the rules allow at its front, every segmentation,
mapping and table, raw or Rice-coded, is the one encoded, and the arithmetic code begins right behind. The agents'
turns are the model's form (assumption log 8, 12); that a decode that fails at the first bit or at the end of the code
keeps what it has read is assumption log 22. -/
def Obligations.FrameRowsRun : Prop :=
  (∀ s k ks b rest, s.turns = k :: ks → (s.slot k).slotState = .busy → (s.slot k).br.inbuf = b :: rest →
    8 ≤ (s.slot k).br.totalBits →
    (∀ x, x < 128 → b = BitVec.ofNat 8 (128 + x) → exec (.dstfCoded x) s = .next
      { s.setSlot k { (s.slot k).frameDecode s.pool.dstCh s.pool.dstFb with slotState := .done } with turns := ks }) ∧
    (∀ x, x < 2 → b = BitVec.ofNat 8 (x * 64) → exec (.dstfPlain x) s = .next
      { s.setSlot k { (s.slot k).frameDecode s.pool.dstCh s.pool.dstFb with slotState := .done } with turns := ks })) ∧
  (∀ (sl d : Slot) ch fb (x : Header), x.Legal ch fb → (x.bits fb).length ≤ sl.br.totalBits →
    (∀ j, j < (x.bits fb).length → bitAt sl.br.inbuf j = ((x.bits fb).getD j false).toNat) → d = sl.frameDecode ch fb →
    d.fd.fseg = x.fseg ∧ d.fd.pseg = x.pseg ∧ d.fd.ftab = x.ftab ∧ d.fd.ptab = x.ptab ∧
    d.fd.nfilters = x.filters.length ∧ d.fd.nptables = x.ptables.length ∧ d.fd.halfprob = x.half ∧
    d.fd.coef = x.filters.map Prod.fst ∧ d.fd.pone = x.ptables.map Prod.fst ∧
    d.ac.acBase = (x.bits fb).length ∧ d.ac.acLen = sl.br.totalBits - (x.bits fb).length ∧
    (d.slotStatus = .ok ∨ d.slotCause = .acFirstBit ∧ codeAt d 0 = 1 ∨ d.slotCause = .acTermination ∧ codeAt d 0 = 0))

/-! ## The ring -/

/-- 44_dst_pool.md R341 to R343, R345, R346: `POOL_INIT` empties the ring for its channel count; what `POOL_INIT` and
the ring's other commands refuse. -/
def Obligations.PoolInitAndRefusals : Prop :=
  (∀ s ch, s.sess ≠ .track → 1 ≤ ch → ch ≤ 6 → s.pool.ringCount = 0 → ∃ t, exec (.poolInit ch) s = .next t ∧
    t = { s with
      slots := t.slots
      pool := { dstCh := ch, dstFb := s.pool.dstFb, head := 0, tail := 0, ringCount := 0, submitSeq := 0,
                collectSeq := 0, draining := false }
      rsp := s.rsp ++ [{ status := 0, value := val Config.nSlots }] } ∧
    ∀ j, t.slot j = { s.slot j with
      slotState := .free, slotStatus := .ok, slotCause := .none, outSize := 0
      br := { (s.slot j).br with totalBits := 0, pos := 0, brErr := false }
      ac := { (s.slot j).ac with acInit := true }, fd := { (s.slot j).fd with dstate := .idle } }) ∧
  (∀ s, s.sess ≠ .track →
    (∀ ch, ch = 0 ∨ 6 < ch → exec (.poolInit ch) s = .next (s.refusedWith 2 ch)) ∧
    (∀ ch, 1 ≤ ch → ch ≤ 6 → s.pool.ringCount ≠ 0 →
      exec (.poolInit ch) s = .next (s.refusedWith 3 s.pool.ringCount)) ∧
    (s.pool.dstCh = 0 → exec (.submit 0) s = .next (s.refusedWith 3 0)) ∧
    (∀ size, s.pool.dstCh = 0 ∨ s.pool.draining = true →
      (size ≠ 0 → exec (.submit size) s = .next (s.refusedWith 3 0)) ∧
      exec (.submitDsd size) s = .next (s.refusedWith 3 0)) ∧
    (∀ size, s.pool.dstCh ≠ 0 → s.pool.draining = false →
      (112897 < size → exec (.submit size) s = .next (s.refusedWith 2 size)) ∧
      (size = 0 ∨ 225792 < size → exec (.submitDsd size) s = .next (s.refusedWith 2 size))) ∧
    (∀ h, s.pool.ringCount = 0 → exec (.collect h) s = .next (s.refusedWith 3 0)) ∧
    (∀ h, s.pool.ringCount ≠ 0 → h ≠ s.pool.collectSeq.toNat % 2 ^ 24 →
      exec (.collect h) s = .next (s.refusedWith 4 s.pool.collectSeq.toNat)))

/-- 44_dst_pool.md R342, R345, R346: what `SUBMIT`, `SUBMIT_DSD` and the sentinel do to the ring and to the slot at
`head`; the handle is the submission number. -/
def Obligations.SubmitCompletes : Prop :=
  (∀ s size, ringOpen s → 1 ≤ size → size ≤ s.din.length →
    (size ≤ 112897 → exec (.submit size) s = .next
      (({ s with
          din := s.din.drop size
          pool := { s.pool with
            submitSeq := s.pool.submitSeq + 1, ringCount := s.pool.ringCount + 1
            head := (s.pool.head + 1) % Config.nSlots } } : State).setSlot s.pool.head
        { s.slot s.pool.head with
          br := { inbuf := s.din.take size ++ (s.slot s.pool.head).br.inbuf.drop size, totalBits := 8 * size, pos := 0,
                  brErr := false }
          slotKind := .dst, slotSeq := s.pool.submitSeq, slotStatus := .ok, slotState := .busy } |>.okWith
        (val s.pool.submitSeq.toNat))) ∧
    (size ≤ 225792 → exec (.submitDsd size) s = .next
      (({ s with
          din := s.din.drop size
          pool := { s.pool with
            submitSeq := s.pool.submitSeq + 1, ringCount := s.pool.ringCount + 1
            head := (s.pool.head + 1) % Config.nSlots } } : State).setSlot s.pool.head
        { s.slot s.pool.head with
          outbuf := s.din.take size ++ (s.slot s.pool.head).outbuf.drop size, outSize := size
          slotKind := .dsd, slotSeq := s.pool.submitSeq, slotStatus := .ok, slotState := .done } |>.okWith
        (val s.pool.submitSeq.toNat)))) ∧
  (∀ s, s.sess ≠ .track → s.pool.dstCh ≠ 0 → ∃ t, exec (.submit 0) s = .next t ∧
    t = { s with
      slots := t.slots, pool := { s.pool with draining := true }
      rsp := s.rsp ++ [{ status := 0, value := val s.pool.ringCount }] } ∧
    ∀ j, t.slot j =
      if (s.slot j).slotState = .busy then
        { (s.slot j).frameDecode s.pool.dstCh s.pool.dstFb with slotState := .done }
      else s.slot j)

/-- 44_dst_pool.md R344, R348: a submitted frame becomes the youngest result of the ring and leaves the others as they
are: for a DST frame what its decode gives (the same as in any slot, 43_dst_residual.md R300), for a bypass frame its
bytes; and a slot's own step changes no result. -/
def Obligations.SubmissionsJoinTheRing : Prop :=
  (∀ s size, s.RingInv → ringOpen s → 1 ≤ size → size ≤ s.din.length →
    (size ≤ 112897 → ∃ t, exec (.submit size) s = .next t ∧ t.RingInv ∧
      jobs t = jobs s ++ [jobResult s (freshJob (s.din.take size))]) ∧
    (size ≤ 225792 → ∃ t, exec (.submitDsd size) s = .next t ∧ t.RingInv ∧
      jobs t = jobs s ++ [(0, size, s.din.take size)])) ∧
  (∀ s k, jobs (s.slotStep k) = jobs s)

/-- 44_dst_pool.md R343, R348, 43_dst_residual.md R314: `COLLECT` of the oldest handle delivers the oldest result, bytes
and status, counts an error if the frame failed, and leaves the other results as they are. -/
def Obligations.CollectTakesTheOldest : Prop :=
  ∀ s st v out rest, s.RingInv → s.sess ≠ .track → jobs s = (st, v, out) :: rest →
    ∃ t, exec (.collect (s.pool.collectSeq.toNat % 2 ^ 24)) s = .next t ∧ t.RingInv ∧ jobs t = rest ∧
      t = { s with
        slots := t.slots, errCount := if st = 0 then s.errCount else errorCounted s
        lastError := if st = 0 then s.lastError else BitVec.ofNat 32 (st + v % 2 ^ 24 * 2 ^ 8)
        pool := { s.pool with
          collectSeq := s.pool.collectSeq + 1, ringCount := s.pool.ringCount - 1
          tail := (s.pool.tail + 1) % Config.nSlots }
        dout := s.dout ++ out, rsp := s.rsp ++ [{ status := BitVec.ofNat 8 st, value := val v }] }

/-- 48_session.md R550 to R552, R555: `DECODE_NEXT` first reads ahead: it does what it would do in the state that
reading frames and submitting them, one after the other, comes to when the ring is full or the track has ended. There
it retires the oldest result and converts it; the first block of the track loses the filter's delay and is faded in;
with the ring empty it converts one frame of silence and emits as many samples as were trimmed. The bound on the
frames read in one call, which no track reaches, is assumption log 21. -/
def Obligations.DecodeNextRetiresTheOldest : Prop :=
  (∀ n s t, s.sess = .track → ReadAhead n s t → ¬ readsOn t → n < 2 ^ 70 → exec .decodeNext s = exec .decodeNext t) ∧
  (∀ s st v out rest p skip, s.sess = .track → ¬ readsOn s → s.RingInv → s.pc.Inv →
    jobs s = (st, v, out) :: rest → p = s.pc.convert s.ditherDepth out →
    skip = (if s.pc.convertCalled = true then 0 else min p.pcmOutDelta p.pcmN) →
    ∃ t, exec .decodeNext s = .next t ∧ jobs t = rest ∧
      t.pc = (if s.pc.convertCalled = true then p else (p.degibbs skip (p.pcmN - skip) false).2) ∧
      t = { s with
        slots := t.slots, pool := t.pool, pc := t.pc
        errCount := if st = 0 then s.errCount else errorCounted s
        lastError := if st = 0 then s.lastError else BitVec.ofNat 32 (st + v % 2 ^ 24 * 2 ^ 8)
        dout := s.dout ++ packedBytes t.pc skip (p.pcmN - skip)
        rsp := s.rsp ++ [{ status := 0, value := val (1 + (p.pcmN - skip) * 2 ^ 8) }] }) ∧
  (∀ s p n, s.sess = .track → s.fx.eot = true → s.pool.ringCount = 0 → s.pc.Inv → s.pc.convertCalled = true →
    p = s.pc.convert s.ditherDepth (List.replicate (s.ch * (s.dsdRate / 600)) s.silence) →
    n = min p.pcmOutDelta p.pcmN →
    exec .decodeNext s = .next (({ s with
      sess := .drained, pc := (p.degibbs 0 n true).2
      dout := s.dout ++ packedBytes (p.degibbs 0 n true).2 0 n } : State).okWith (val (n * 2 ^ 8))))

/-! ## The converter -/

/-- 45_dsd_pcm.md R370, R371, R395, R400 to R402: `PC_INIT` in each of the sixteen modes, and what it refuses. What
PCMBUF holds after it is hidden (assumption log 26). -/
def Obligations.PcInitSetsTheMode : Prop :=
  (∀ s ch dsd pcm u d tt spf delta fade, s.sess ≠ .track → 1 ≤ ch → ch ≤ 6 →
    (dsd, pcm, u, d, tt, spf, delta, fade) ∈ modeRows → ∃ t, exec (.pcInit ch dsd pcm) s = .next t ∧
      t = { s with pc := t.pc, rsp := s.rsp ++ [{ status := 0, value := val tt }] } ∧
      t.pc = {
        ch := ch, t := tt, d := d, u := u, resample := decide (u ≠ 1), k := 2 ^ dsd, spf := spf
        h := coef (2 ^ dsd) ([88200, 96000, 176400, 192000].getD pcm 0), hist := List.replicate ch [], rxCount := 0
        outCount := 0, lcg := s.ditherSeedHi ++ s.ditherSeedLo, delay := { num := tt, den := 2 * d }
        delayClamped := { num := tt, den := 2 * d }, pcmOutDelta := delta, fadeLen := fade, convertCalled := false
        pcmBuf := t.pc.pcmBuf, pcmN := 0 }) ∧
  (∀ s ch dsd pcm, s.sess ≠ .track →
    (ch = 0 ∨ 6 < ch → exec (.pcInit ch dsd pcm) s = .next (s.refusedWith 2 ch)) ∧
    (1 ≤ ch → ch ≤ 6 → 3 < dsd → exec (.pcInit ch dsd pcm) s = .next (s.refusedWith 2 dsd)) ∧
    (1 ≤ ch → ch ≤ 6 → dsd ≤ 3 → 3 < pcm → exec (.pcInit ch dsd pcm) s = .next (s.refusedWith 2 pcm)))

/-- 45_dsd_pcm.md R403, R404, R422, 60_exceptions.md R602: the commands that read the converter, and the refusals before
`PC_INIT`, whose value 0 is the model's choice where the rule names none (assumption log 18). -/
def Obligations.ConverterReads : Prop :=
  (∀ s num den bits, s.pc.t ≠ 0 → s.pc.delayClamped = { num := num, den := den } → (num, den, bits) ∈ delayRows →
    exec .pcGetDelay s = .next (s.okWith (BitVec.ofNat 64 bits))) ∧
  State.reset.pc.convertCalled = false ∧
  (∀ s, exec .pcIsConvertCalled s = .next (s.okWith (if s.pc.convertCalled = true then 1 else 0))) ∧
  (∀ s, converterReady s → s.pc.pcmN * s.pc.ch ≤ s.pc.pcmBuf.length → exec .pcReadf s = .next
    (({ s with dout := s.dout ++ (s.pc.pcmBuf.take (s.pc.pcmN * s.pc.ch)).flatMap fun v =>
      [v.extractLsb' 0 8, v.extractLsb' 8 8, v.extractLsb' 16 8, v.extractLsb' 24 8] } : State).okWith
      (val s.pc.pcmN))) ∧
  (∀ s, s.pc.t = 0 → exec .pcGetDelay s = .next (s.refusedWith 3 0)) ∧
  (∀ s a b, s.sess ≠ .track → s.pc.t = 0 →
    exec (.pcConvert a) s = .next (s.refusedWith 3 0) ∧ exec (.pcDegibbs a b) s = .next (s.refusedWith 3 0) ∧
    exec (.pcPack a b) s = .next (s.refusedWith 3 0) ∧ exec .pcReadf s = .next (s.refusedWith 3 0))

/-- 45_dsd_pcm.md R390, R391, R395, R425: `PC_CONVERT` takes its bytes and leaves the converter as their conversion does
(the one of ConvertChunks, ConvertedSamples and SamplesStayInRange): it produces every sample that is due and no other,
draws twice per sample and channel, and keeps the mode; what it refuses. -/
def Obligations.ConvertCountsSamples : Prop :=
  (∀ s size, converterReady s → size % s.pc.ch = 0 → size / s.pc.ch ≤ 4704 * s.pc.k → size ≤ s.din.length →
    s.pc.Inv → ∃ t, exec (.pcConvert size) s = .next t ∧
      t = { s with
        din := s.din.drop size, pc := t.pc, rsp := s.rsp ++ [{ status := 0, value := val t.pc.pcmN }] } ∧
      t.pc = s.pc.convert s.ditherDepth (s.din.take size) ∧
      t.pc = { s.pc with
        hist := t.pc.hist, rxCount := s.pc.rxCount + 8 * (size / s.pc.ch)
        outCount := (s.pc.rxCount + 8 * (size / s.pc.ch)) * s.pc.u / s.pc.d
        pcmN := (s.pc.rxCount + 8 * (size / s.pc.ch)) * s.pc.u / s.pc.d - s.pc.rxCount * s.pc.u / s.pc.d
        lcg := if s.ditherDepth = 0 then s.pc.lcg else drawn (2 * (t.pc.pcmN * s.pc.ch)) s.pc.lcg
        convertCalled := s.pc.convertCalled || decide (size ≠ 0), pcmBuf := t.pc.pcmBuf } ∧
      t.pc.Inv) ∧
  (∀ s size, converterReady s → size % s.pc.ch ≠ 0 ∨ 4704 * s.pc.k < size / s.pc.ch →
    exec (.pcConvert size) s = .next (s.refusedWith 2 size))

/-- 45_dsd_pcm.md R390, R425: "two calls with n1 and n2 bytes give the same samples as one call with the concatenation
would", and leave the converter the same but for PCMBUF and its count. -/
def Obligations.ConvertChunks : Prop :=
  ∀ (pc : Pc) depth a b, pc.hist.length = pc.ch → a.length % pc.ch = 0 →
    converted pc depth (a ++ b) = converted pc depth a ++ converted (pc.convert depth a) depth b ∧
    pc.convert depth (a ++ b) =
      { (pc.convert depth a).convert depth b with
        pcmBuf := (pc.convert depth (a ++ b)).pcmBuf, pcmN := (pc.convert depth (a ++ b)).pcmN }

/-- 45_dsd_pcm.md R385, R386, R390, R395, R396, 20_memory.md R101, R103: a conversion puts the bits of each channel's
bytes, earliest first and the most significant bit of a byte first, after the input the channel had received; and every
sample it stores is the filter sum over that input, with its own two draws of dither, clamped and narrowed. -/
def Obligations.ConvertedSamples : Prop :=
  ∀ (pc p : Pc) depth bytes c hist, pc.Inv → pc.h.length = pc.t → 0 < pc.u → bytes.length % pc.ch = 0 →
    p = pc.convert depth bytes → c < pc.ch → hist = (inputBits pc.ch c bytes).reverse ++ pc.hist.getD c [] →
    p.hist.getD c [] = hist ∧
    ∀ j, j < p.pcmN → p.pcmBuf[j * pc.ch + c]? = some (toF32 (clamp1
      (dithered depth (j * pc.ch + c) pc.lcg (outputAt pc hist (pc.outCount + j)))))

/-- 45_dsd_pcm.md R410: `PC_DEGIBBS` scales the samples at the faded edge and no other, does nothing to a window that is
too short, and what it refuses. -/
def Obligations.DegibbsFadesTheEdge : Prop :=
  (∀ s side n, converterReady s → side ≤ 1 → n ≤ s.pc.pcmN →
    (n * s.pc.delayClamped.den < 2 * s.pc.delayClamped.num →
      exec (.pcDegibbs side n) s = .next (s.okWith 0)) ∧
    (2 * s.pc.delayClamped.num ≤ n * s.pc.delayClamped.den → ∃ t, exec (.pcDegibbs side n) s = .next t ∧
      t = { s with
        pc := { s.pc with pcmBuf := t.pc.pcmBuf }
        rsp := s.rsp ++ [{ status := 0, value := val s.pc.fadeLen }] } ∧
      t.pc.pcmBuf.length = s.pc.pcmBuf.length ∧
      ∀ i c v, c < s.pc.ch → s.pc.pcmBuf[i * s.pc.ch + c]? = some v →
        t.pc.pcmBuf[i * s.pc.ch + c]? = some (
          if side = 0 ∧ i < n ∧ i < s.pc.fadeLen then scaled v i s.pc.fadeLen
          else if side = 1 ∧ i < n ∧ n - 1 - i < s.pc.fadeLen then scaled v (n - 1 - i) s.pc.fadeLen
          else v))) ∧
  (∀ s side n, converterReady s → 1 < side ∨ s.pc.pcmN < n →
    exec (.pcDegibbs side n) s = .next (s.refusedWith 2 n))

/-- 45_dsd_pcm.md R420, 30_encoding.md R153: `PC_PACK` emits three bytes for every element of its samples; the three
bytes are the nearest integer to the element times 2^23, ties to even, saturated at the ends of 24 bits; what it
refuses. -/
def Obligations.PackRoundsAndSaturates : Prop :=
  (∀ s skip count, converterReady s → skip + count ≤ s.pc.pcmN → s.pc.pcmN * s.pc.ch ≤ s.pc.pcmBuf.length →
    exec (.pcPack skip count) s = .next
      (({ s with dout := s.dout ++ packedBytes s.pc skip count } : State).okWith (val count))) ∧
  (∀ v neg m e, binary32.value v.toNat = .finite neg m e → ∃ i : Int,
    |(i : ℚ) - rational neg m (e + 23)| ≤ 1 / 2 ∧ (|(i : ℚ) - rational neg m (e + 23)| = 1 / 2 → Even i) ∧
    (pack24 v).length = 3 ∧ int24 (pack24 v) = max (-8388608) (min 8388607 i)) ∧
  (∀ s skip count, converterReady s → s.pc.pcmN < skip + count →
    exec (.pcPack skip count) s = .next (s.refusedWith 2 s.pc.pcmN))

/-- 45_dsd_pcm.md R396 ("output float samples after dithering remain within [-1.0, 1.0]"): with a table of finite
entries every sample a conversion stores, whatever the input and the dither, is a number between −1 and +1: its
pattern without the sign bit is at most that of 1.0. -/
def Obligations.SamplesStayInRange : Prop :=
  ∀ (pc : Pc) depth bytes v, pc.hist.length = pc.ch → (∀ x ∈ pc.h, f64Finite x = true) →
    v ∈ converted pc depth bytes → v.toNat % 2 ^ 31 ≤ 0x3F800000

/-- 45_dsd_pcm.md R375: the coefficient table of every mode has its length, is finite and symmetric, is zero at the
nodes of its cut-off, which lies between 0 and 1/2, and has unity gain to within `pc_T` units in the last place of
`pc_U`. The table and the cut-off are otherwise free (assumption log 2). -/
def Obligations.CoefficientTables : Prop :=
  ∀ dsd pcm rate u d tt spf delta fade h (fc : ℚ), (dsd, pcm, u, d, tt, spf, delta, fade) ∈ modeRows →
    rate = [88200, 96000, 176400, 192000].getD pcm 0 → h = coef (2 ^ dsd) rate →
    fc = (cutOff (2 ^ dsd) rate).1 / (2 * (cutOff (2 ^ dsd) rate).2) →
    h.length = tt ∧ (∀ x ∈ h, f64Finite x = true) ∧ (∀ i, i < tt → h[i]? = h[tt - 1 - i]?) ∧
    0 < fc ∧ fc < 1 / 2 ∧ (∀ i, i < tt → i ≠ (tt - 1) / 2 →
      (∃ z : Int, 2 * fc * ((i : ℚ) - ((tt - 1) / 2 : Nat)) = z) → h[i]? = some 0) ∧
    (∃ neg m e, f64Value (h.foldl f64Add 0) = .finite neg m e ∧
      |rational neg m e - u| ≤ tt * (2 : ℚ) ^ ((Nat.size u : Int) - 53))

/-! ## The extractor -/

/-- 46_fx_files.md R458 to R461: the commands that read the extractor, in every session state; without a container they
are refused, with the value 0 as the model's choice (assumption log 18). -/
def Obligations.ExtractorReads : Prop :=
  (∀ s, s.fx.kind ≠ .none →
    exec .getChannels s = .next (s.okWith (val s.fx.ch)) ∧
    exec .getSamplerate s = .next (s.okWith (val s.fx.rate)) ∧
    exec .getFramerate s = .next (s.okWith 75) ∧
    exec .getProgress s = .next (s.okWith (val (
      if s.fx.kind = .sector then
        (if s.fx.trackSelected = true ∧ 0 < s.fx.sec.trackLenLsn then
          min 100 (100 * (s.fx.sec.curLsn - s.fx.sec.trackStartLsn) / s.fx.sec.trackLenLsn) else 0)
      else if 0 < s.fx.frameTotal then min 100 (100 * s.fx.frameIndex / s.fx.frameTotal) else 0)))) ∧
  (∀ s, s.fx.kind = .none →
    exec .getChannels s = .next (s.refusedWith 3 0) ∧ exec .getSamplerate s = .next (s.refusedWith 3 0) ∧
    exec .getFramerate s = .next (s.refusedWith 3 0) ∧ exec .getProgress s = .next (s.refusedWith 3 0))

/-- 46_fx_files.md R451, R454, R455, R489, 47_fx_sector.md R510, R511, R520, R522 to R524, 30_encoding.md R148:
`READ_FRAME` always answers OK with a frame or the end of the track; an `INVALID` frame is a full frame of zeros,
counted and recorded once, and no other frame touches the counters; after the end the medium is not read. On a disc,
whatever the medium answers, each call takes from the audio packets and lost sectors that are left what makes one
frame (its first packet and those that continue it, over any number of sectors; packets that continue none are
dropped), or ends with the sector that is lost or the packet that overflows, and leaves the rest. The frame count is
taken not to reach its width (assumption log 3). -/
def Obligations.ReadFrameCompletes : Prop :=
  (∀ s, trackReady s → ∃ t more type bytes, exec .readFrame s = .next t ∧
    t = { s with
      errCount := t.errCount, lastError := t.lastError, fx := t.fx, answers := t.answers, dout := s.dout ++ bytes
      rsp := s.rsp ++ [{ status := 0, value := val (bytes.length + type * 2 ^ 24 + more * 2 ^ 27) }] } ∧
    (s.fx.eot = true → more = 0 ∧ t.fx = s.fx ∧ t.answers = s.answers) ∧
    (more = 0 ∧ type = 0 ∧ bytes = [] ∧ t.fx.eot = true ∨
      more = 1 ∧ type ≤ 2 ∧ (s.fx.frameIndex + 1 < 2 ^ 32 → t.fx.frameIndex = s.fx.frameIndex + 1)) ∧
    (type = 2 → bytes = List.replicate (fullFrame s) 0 ∧ t.errCount = errorCounted s ∧
      t.lastError.toNat % 2 ^ 8 ∈ [0x11, 0x12, 0x13]) ∧
    (type ≠ 2 → t.errCount = s.errCount ∧ t.lastError = s.lastError ∧ t.fx.badReads = s.fx.badReads)) ∧
  (∀ s items, trackReady s → s.fx.eot = false → s.fx.kind = .sector → s.fx.sec.asmStarted = false → sectorHeld s →
    s.fx.frameIndex + 1 < 2 ^ 32 → items = discItems s → ∃ r t, exec .readFrame s = .next t ∧
    r = nextDiscFrame (fun dst => if dst then 112897 else fullFrame s) none items ∧
    discItems t = r.2 ∧ sectorHeld t ∧ t.fx.sec.asmStarted = false ∧
    t.fx = { s.fx with
      frameIndex := t.fx.frameIndex, eot := t.fx.eot, badReads := t.fx.badReads, cursor := t.fx.cursor
      sec := { t.fx.sec with
        psn := s.fx.sec.psn, area1 := s.fx.sec.area1, area2 := s.fx.sec.area2
        trackStartLsn := s.fx.sec.trackStartLsn, trackLenLsn := s.fx.sec.trackLenLsn } } ∧
    match discAnswer (fullFrame s) r.1 with
    | none => t = { s with
        fx := t.fx, answers := t.answers, rsp := s.rsp ++ [{ status := 0, value := 0 }] } ∧
        t.fx.eot = true ∧ t.fx.frameIndex = s.fx.frameIndex ∧ t.fx.badReads = s.fx.badReads
    | some (type, bytes, exc) => t = { s with
        fx := t.fx, answers := t.answers, dout := s.dout ++ bytes
        errCount := if exc.isSome then errorCounted s else s.errCount
        lastError := match exc with
          | none => s.lastError
          | some (code, info) => BitVec.ofNat 32 (code + info % 2 ^ 24 * 2 ^ 8)
        rsp := s.rsp ++ [{ status := 0, value := val (bytes.length + type * 2 ^ 24 + 2 ^ 27) }] } ∧
        t.fx.eot = false ∧ t.fx.frameIndex = s.fx.frameIndex + 1 ∧
        t.fx.badReads = if exc.map Prod.fst = some 0x12 then (oneMoreBad s.fx).badReads else s.fx.badReads) ∧
  (∀ s, s.sess ≠ .track → ¬ trackReady s → exec .readFrame s = .next (s.refusedWith 3 0))

/-- 46_fx_files.md R466, R470, 20_memory.md R103, 10_state.md R76: `READ_FRAME` of a DSF track on a medium that answers
with its own bytes: every byte of the frame is the byte of its channel's block, bits reversed where the file says so,
whatever block group is held. -/
def Obligations.DsfFramesInterleaveTheBlocks : Prop :=
  ∀ s p n bs ch, trackReady s → s.fx.eot = false → s.fx.kind = .dsf → s.answers = [] → Memory.wf s.medium = true →
    ch = s.fx.ch → bs = s.fx.dsf.blockSize → 0 < ch → 0 < bs → (s.fx.dataEnd - s.fx.dataStart) % (ch * bs) = 0 →
    s.fx.dataEnd ≤ s.mediumSize.toNat → groupHeld s → p = s.fx.dsf.pos →
    p < (s.fx.dataEnd - s.fx.dataStart) / ch → s.fx.frameIndex + 1 < 2 ^ 32 →
    n = min (s.fx.rate / 600) ((s.fx.dataEnd - s.fx.dataStart) / ch - p) →
    ∃ t bytes, exec .readFrame s = .next t ∧
      t = { s with
        fx := t.fx, dout := s.dout ++ bytes, rsp := s.rsp ++ [{ status := 0, value := val (ch * n + 2 ^ 27) }] } ∧
      t.fx.dsf.pos = p + n ∧ t.fx.frameIndex = s.fx.frameIndex + 1 ∧ t.fx.eot = false ∧ groupHeld t ∧
      bytes.length = ch * n ∧
      ∀ j c v, j < n → c < ch →
        v = Memory.read s.medium
          (s.fx.dataStart + (p + j) / bs * (ch * bs) + c * bs + (p + j) % bs) →
        bytes[j * ch + c]? = some (if s.fx.dsf.lsb = true then v.reverse else v)

/-- 46_fx_files.md R454, R485 to R487, R489: `READ_FRAME` of a DSDIFF track. Plain: a full answer of the medium is the
frame, a short one makes it `INVALID` and counts a bad read, the cursor moves alike, and the end of the data ends the
track. DST with an index: the frame its entry names. DST without one: the data of the next `DSTF` chunk, other chunks
skipped. A frame declared too large is a buffer overflow with its size, and an entry, header or frame that comes short
is a bad read with its offset; a header that does so ends the track. -/
def Obligations.DffFramesAndBadReads : Prop :=
  (∀ s most want got u, trackReady s → s.fx.eot = false → s.fx.kind = .dsdiff → s.fx.dst = false →
    most = min s.fx.dff.frameBytes (s.fx.dataEnd - s.fx.cursor) → want = most - most % s.fx.ch → 0 < want →
    s.fx.frameIndex + 1 < 2 ^ 32 → (got, u) = s.mediumRead s.fx.cursor want →
    (got.length = want → exec .readFrame s = .next (({ u with
      fx := { s.fx with cursor := s.fx.cursor + want, frameIndex := s.fx.frameIndex + 1 }
      dout := s.dout ++ got } : State).okWith (val (want + 2 ^ 27)))) ∧
    (got.length < want → exec .readFrame s = .next (({ u with
      fx := { s.fx with
        cursor := s.fx.cursor + want, frameIndex := s.fx.frameIndex + 1
        badReads := BitVec.ofNat 32 (min (s.fx.badReads.toNat + 1) (2 ^ 32 - 1)) }
      errCount := errorCounted s, lastError := BitVec.ofNat 32 (0x12 + s.fx.cursor % 2 ^ 24 * 2 ^ 8)
      dout := s.dout ++ List.replicate (fullFrame s) 0 } : State).okWith
      (val (fullFrame s + 2 * 2 ^ 24 + 2 ^ 27))))) ∧
  (∀ s, trackReady s → s.fx.eot = false → s.fx.kind = .dsdiff → s.fx.dst = false → s.fx.dataEnd ≤ s.fx.cursor →
    exec .readFrame s = .next (({ s with fx := { s.fx with eot := true } } : State).okWith 0)) ∧
  (∀ s e u entry off len, trackReady s → s.fx.eot = false → s.fx.kind = .dsdiff → s.fx.dst = true →
    s.fx.dff.dstiOff ≠ 0 → s.fx.frameIndex + 1 < 2 ^ 32 → entry = s.fx.dff.dstiOff + 12 * s.fx.frameIndex →
    (e, u) = s.mediumRead entry 12 → off = beNat (e.take 8) → len = beNat (e.drop 8) →
    (s.fx.dff.dstiCount ≤ s.fx.frameIndex →
      exec .readFrame s = .next (({ s with fx := { s.fx with eot := true } } : State).okWith 0)) ∧
    (s.fx.frameIndex < s.fx.dff.dstiCount →
      (e.length < 12 → exec .readFrame s = .next (invalidDelivered u (oneMoreBad s.fx) (fullFrame s) 0x12 entry)) ∧
      (e.length = 12 → 112897 < len ∨ s.mediumSize.toNat < off + len →
        exec .readFrame s = .next (invalidDelivered u s.fx (fullFrame s) 0x13 len)) ∧
      (e.length = 12 → len ≤ 112897 → off + len ≤ s.mediumSize.toNat →
        exec .readFrame s = .next (dstDelivered u off len (off + len))))) ∧
  (∀ s hd u p n next, trackReady s → s.fx.eot = false → s.fx.kind = .dsdiff → s.fx.dst = true →
    s.fx.dff.dstiOff = 0 → s.fx.frameIndex + 1 < 2 ^ 32 → p = s.fx.cursor → (hd, u) = s.mediumRead p 12 →
    n = beNat (hd.drop 4) → next = p + 12 + n + n % 2 →
    (s.fx.dataEnd < p + 12 →
      exec .readFrame s = .next (({ s with fx := { s.fx with eot := true } } : State).okWith 0)) ∧
    (p + 12 ≤ s.fx.dataEnd →
      (hd.length < 12 → exec .readFrame s =
        .next (invalidDelivered u { oneMoreBad s.fx with eot := true } (fullFrame s) 0x12 p)) ∧
      (hd.length = 12 → hd.take 4 = magicDstf →
        (112897 < n ∨ s.fx.dataEnd < p + 12 + n → exec .readFrame s =
          .next (invalidDelivered u { s.fx with cursor := s.fx.dataEnd } (fullFrame s) 0x13 n)) ∧
        (n ≤ 112897 → p + 12 + n ≤ s.fx.dataEnd → exec .readFrame s = .next (dstDelivered u (p + 12) n next))) ∧
      (hd.length = 12 → hd.take 4 ≠ magicDstf →
        exec .readFrame s = exec .readFrame { u with fx := { s.fx with cursor := next } })))

/-- 46_fx_files.md R457, R471, R488, 47_fx_sector.md R525: `SEEK` for every kind of container, and what it refuses.
That the block group held is given up is the model's reading of 20_memory.md R127 (assumption log 24); that a frame
declared too large counts as one is assumption log 15. -/
def Obligations.SeekCompletes : Prop :=
  (∀ s frame, trackReady s →
    (s.fx.kind = .dsf → frame ≤ s.fx.frameTotal → exec (.seek frame) s = .next (({ s with
      fx := { s.fx with
        frameIndex := frame, eot := false
        dsf := { s.fx.dsf with
          pos := min (frame * (s.fx.rate / 600)) ((s.fx.dataEnd - s.fx.dataStart) / s.fx.ch)
          blkValid := false } } } : State).okWith (val frame))) ∧
    (s.fx.kind = .dsdiff → s.fx.dst = false → frame ≤ s.fx.frameTotal → exec (.seek frame) s = .next (({ s with
      fx := { s.fx with
        frameIndex := frame, eot := false
        cursor := min (s.fx.dataStart + frame * s.fx.dff.frameBytes) s.fx.dataEnd } } : State).okWith (val frame))) ∧
    (s.fx.kind = .dsdiff → s.fx.dst = true → s.fx.dff.dstiOff ≠ 0 → frame ≤ s.fx.frameTotal →
      exec (.seek frame) s = .next
        (({ s with fx := { s.fx with frameIndex := frame, eot := false } } : State).okWith (val frame))) ∧
    (s.fx.kind = .dsdiff → s.fx.dst = true → s.fx.dff.dstiOff = 0 → exec (.seek 0) s = .next
        (({ s with fx := { s.fx with frameIndex := 0, eot := false, cursor := s.fx.dataStart } } : State).okWith 0)) ∧
    (s.fx.kind = .dsdiff → s.fx.dst = true → s.fx.dff.dstiOff = 0 → s.answers = [] → frame ≤ s.fx.frameTotal →
      (∀ q, FramesBetween s frame s.fx.dataStart q → exec (.seek frame) s = .next
        (({ s with fx := { s.fx with frameIndex := frame, eot := false, cursor := q } } : State).okWith (val frame))) ∧
      ((∀ q, ¬ FramesBetween s frame s.fx.dataStart q) → exec (.seek frame) s = .next (s.refusedWith 2 frame))) ∧
    (s.fx.kind = .sector → exec (.seek 0) s = .next (({ s with
      fx := { s.fx with
        frameIndex := 0, eot := false, cursor := s.fx.dataStart
        sec := { s.fx.sec with
          curLsn := s.fx.sec.trackStartLsn, pktIdx := 0, pktCount := 0, fiCount := 0, asmStarted := false
          asmSize := 0 } } } : State).okWith 0)) ∧
    (s.fx.kind = .dsf ∨ s.fx.kind = .dsdiff → s.fx.frameTotal < frame →
      exec (.seek frame) s = .next (s.refusedWith 2 frame)) ∧
    (s.fx.kind = .sector → frame ≠ 0 → exec (.seek frame) s = .next (s.refusedWith 2 frame))) ∧
  (∀ s frame, s.sess ≠ .track → ¬ trackReady s → exec (.seek frame) s = .next (s.refusedWith 3 0))

/-! ## Invariants of every step -/

/-- 44_dst_pool.md R340: the invariants of the ring hold after every command. -/
def Obligations.RingStaysConsistent : Prop := ∀ s t, s.RingInv → step s = .next t → t.RingInv

/-- 10_state.md R60, 40_bitreader.md R208, 47_fx_sector.md R526 (b), (e): no BitReader cursor leaves its buffer, and the
disc reader stays within its track and its assembly buffer. -/
def Obligations.CursorsStayInBounds : Prop :=
  (∀ s t, s.cursorInv → step s = .next t → t.cursorInv) ∧
  (∀ s t, s.fx.SectorInv → step s = .next t → t.fx.SectorInv)

/-- 10_state.md R51, R52, 30_encoding.md R161, 46_fx_files.md R465, R477, 47_fx_sector.md R503, R504: every writable
register keeps a legal value, and a container's rate and channel count are legal ones, whatever the medium answers. -/
def Obligations.RegistersStayLegal : Prop := ∀ s t, s.RegInv → step s = .next t → t.RegInv

/-- 45_dsd_pcm.md R391: after any amount of input `out_count = (rx_count · pc_U) div pc_D`, every channel has received
the same count, and PCMBUF holds the samples counted. -/
def Obligations.SampleCountLawHolds : Prop := ∀ s t, s.pc.Inv → step s = .next t → t.pc.Inv

/-- 41_arith_decoder.md R223, R226, 60_exceptions.md R613: the interval `A` of every arithmetic decoder stays within
`HALF ≤ A < ONE` while it is in use, and then no step ever faults or is refused. -/
def Obligations.NoRunEverStops : Prop :=
  ∀ s, s.intervalInv → ∃ t, step s = .next t ∧ t.intervalInv

/-- 70_reset_and_hazards.md R701, 10_state.md R52: the value of every register and of every other piece of state right
after reset, and the invariants hold there. That STATUS reads 0x20, since `ac_init` is 1, is assumption log 9; the
buffers and tables that 70_reset_and_hazards.md R701 leaves unspecified are not named (assumption log 5). -/
def Obligations.ResetMeetsTheInvariants : Prop :=
  (∀ r, r ∈ [ (0x00, 0x53414344), (0x01, 0x20), (0x02, 0), (0x03, 8), (0x04, 0), (0x05, Config.nSlots), (0x06, 4704),
      (0x07, 0), (0x08, 24), (0x09, 0), (0x0A, 0), (0x0B, 0x69), (0x0C, 0), (0x0D, 0), (0x0E, 0), (0x0F, 75), (0x10, 0),
      (0x11, 0), (0x12, 0), (0x13, 0), (0x14, 0), (0x15, 0), (0x16, 0), (0x17, 0), (0x18, 0), (0x19, 0), (0x1A, 0),
      (0x1B, 0), (0x1C, 0), (0x1D, 0), (0x1E, 0), (0x1F, 0), (0x20, 0) ] →
    exec (.rdreg r.1) State.reset = .next (State.reset.okWith (BitVec.ofNat 64 r.2))) ∧
  State.reset.sess = .closed ∧ State.reset.k = 0 ∧ State.reset.stuck = false ∧
  (∀ j, State.reset.slot j = {
    slotState := .free, slotSeq := 0, slotKind := .dsd, slotStatus := .ok, slotCause := .none, outSize := 0
    br := { (State.reset.slot j).br with totalBits := 0, pos := 0, brErr := false }
    ac := { a := 0, c := 0, cbptr := 0, acBase := 0, acLen := 0, acInit := true }
    fd := { (State.reset.slot j).fd with dstate := .idle, nbitsDecoded := 0 }
    outbuf := (State.reset.slot j).outbuf }) ∧
  State.reset.pool = {
    dstCh := 0, dstFb := 4704, head := 0, tail := 0, ringCount := 0, submitSeq := 0, collectSeq := 0, draining := false } ∧
  State.reset.fx = {
    kind := .none, ch := 0, rate := 0, dst := false, frameIndex := 0, frameTotal := 0, eot := false, badReads := 0
    cursor := 0, dataStart := 0, dataEnd := 0, trackCount := 0, curTrack := 0, curArea := 0, trackSelected := false
    dsf := { State.reset.fx.dsf with
      blockSize := 0, lsb := false, sampleCount := 0, chtype := 0, pos := 0, blkGroup := 0, blkValid := false
      blkBad := false }
    dff := { dstiOff := 0, dstiCount := 0, frameBytes := 0, frteCount := 0 }
    sec := { State.reset.fx.sec with
      psn := false, area1 := { tocLsn := 0, tocSize := 0, tracks := 0, ch := 0, fmt := 0, rate := 0, trlLsn := 0 }
      area2 := { tocLsn := 0, tocSize := 0, tracks := 0, ch := 0, fmt := 0, rate := 0, trlLsn := 0 }, trackStartLsn := 0
      trackLenLsn := 0, curLsn := 0, pktCount := 0, fiCount := 0, secDst := false, pktIdx := 0, bufOff := 0, asmSize := 0
      asmStarted := false, asmDst := false } } ∧
  State.reset.pc = { State.reset.pc with
    ch := 0, t := 0, d := 0, u := 0, resample := false, k := 0, spf := 0, hist := [], rxCount := 0, outCount := 0, lcg := 0
    pcmOutDelta := 0, fadeLen := 0, convertCalled := false, pcmN := 0 } ∧
  State.reset.pc.delay.num = 0 ∧ State.reset.pc.delayClamped.num = 0 ∧
  State.reset.RingInv ∧ State.reset.cursorInv ∧ State.reset.fx.SectorInv ∧ State.reset.RegInv ∧ State.reset.pc.Inv ∧
  State.reset.intervalInv ∧ Memory.wf State.reset.medium = true
end

