-- ==== Sys2Proof/Laws/Config.lean ====
section
/-! SUPPORT. The parameters of 00_scope.md R9 as numbers: what each name of the configuration stands for by its default,
the bounds of the open parameters, and the rules that tie the parameters to the machine. -/

namespace Sys2Proof.Config

/-! ## The defaults (00_scope.md R9)

The proofs are `id rfl`, so that `simp` rewrites with them by congruence and the decidability of a check stays in its
usual form. -/

@[simp] theorem chMin_eq : chMin = 1 := id rfl
@[simp] theorem chMax_eq : chMax = 6 := id rfl
@[simp] theorem dsdRateBase_eq : dsdRateBase = 2822400 := id rfl
@[simp] theorem frameRate_eq : frameRate = 75 := id rfl
@[simp] theorem maxSegs_eq : maxSegs = 8 := id rfl
@[simp] theorem minFsegBits_eq : minFsegBits = 1024 := id rfl
@[simp] theorem minPsegBits_eq : minPsegBits = 32 := id rfl
@[simp] theorem nRiceMethods_eq : nRiceMethods = 3 := id rfl
@[simp] theorem maxReadBits_eq : maxReadBits = 32 := id rfl
@[simp] theorem maxDsdBytesInFrame_eq : maxDsdBytesInFrame = 18816 := id rfl
@[simp] theorem tapsDec_eq (k : Nat) : tapsDec k = 574 * k + 1 := id rfl
@[simp] theorem tapsRes_eq (k div : Nat) : tapsRes k div = 2878 * k * div + 1 := id rfl
@[simp] theorem ditherDepthReset_eq : ditherDepthReset = 24 := id rfl
@[simp] theorem pcmMax_eq : pcmMax = 8388607 := id rfl
@[simp] theorem pcmMin_eq : pcmMin = -8388608 := id rfl
@[simp] theorem sectorBytes_eq : sectorBytes = 2048 := id rfl
@[simp] theorem sectorPsn_eq : sectorPsn = 2064 := id rfl
@[simp] theorem psnHeader_eq : psnHeader = 12 := id rfl
@[simp] theorem dsfMasterChunk_eq : dsfMasterChunk = 28 := id rfl
@[simp] theorem warnThresholdReset_eq : warnThresholdReset = 8 := id rfl
@[simp] theorem sizeCodedPredOrder_eq : sizeCodedPredOrder = 7 := id rfl
@[simp] theorem sizePredCoef_eq : sizePredCoef = 9 := id rfl
@[simp] theorem sizeRiceMethod_eq : sizeRiceMethod = 2 := id rfl
@[simp] theorem sizeRiceM_eq : sizeRiceM = 3 := id rfl
@[simp] theorem acHisBits_eq : acHisBits = 6 := id rfl
@[simp] theorem acQstep_eq : acQstep = 3 := id rfl
@[simp] theorem maxTables_eq (ch : Nat) : maxTables ch = 2 * ch := id rfl
@[simp] theorem silenceReset_eq : silenceReset = 0x69 := id rfl
@[simp] theorem lcgA_eq : lcgA = 1664525 := id rfl
@[simp] theorem lcgC_eq : lcgC = 1013904223 := id rfl
@[simp] theorem ditherSeed_eq : ditherSeed = 0 := id rfl
@[simp] theorem signFromBit15_eq : signFromBit15 = false := id rfl
@[simp] theorem mtocLsn_eq : mtocLsn = 510 := id rfl
@[simp] theorem pbits_eq : pbits = 8 := id rfl
@[simp] theorem discTables_eq : discTables = {} := id rfl

/-! ## What follows from them -/

@[simp] theorem dsdOrder_eq (rate : Nat) : dsdOrder rate = rate / 2822400 := id rfl
@[simp] theorem frameBytes_eq (rate : Nat) : frameBytes rate = rate / 600 := by
  change rate / 8 / 75 = rate / 600
  rw [Nat.div_div_eq_div_mul]
@[simp] theorem frameBits_eq (fb : Nat) : frameBits fb = 8 * fb := id rfl
@[simp] theorem orderFrameBytes_eq (k : Nat) : orderFrameBytes k = 4704 * k := by
  rw [orderFrameBytes, frameBytes_eq, dsdRateBase_eq]
  omega
@[simp] theorem samplesPerFrame_eq (pcm : Nat) : samplesPerFrame pcm = pcm / 75 := id rfl
@[simp] theorem abits_eq : abits = 12 := id rfl
@[simp] theorem inCap_eq : inCap = 112897 := id rfl
@[simp] theorem outCap_eq : outCap = 225792 := id rfl
@[simp] theorem dsfMaxBlock_eq : dsfMaxBlock = 65536 := id rfl
@[simp] theorem dstFbReset_eq : dstFbReset = 4704 := id rfl

/-- The registers `A` and `C` of the arithmetic decoder have the width `AC_REG_WIDTH`. -/
theorem acRegWidth_word : BitVec acRegWidth = Word := rfl

/-! ## The open parameters -/

theorem nSlots_pos : 0 < nSlots := Nat.succ_pos _

theorem nSlots_le : nSlots ≤ 255 := by
  change nSlotsRaw % 255 + 1 ≤ 255
  omega

/-- `0 < 2·FC_NORM < 1` (45_dsd_pcm.md R375 (d)). -/
theorem fcNorm_bounds (k pcm : Nat) : 0 < (fcNorm k pcm).1 ∧ (fcNorm k pcm).1 < (fcNorm k pcm).2 := by
  change 0 < (fcNormRaw k pcm).1 + 1 ∧ (fcNormRaw k pcm).1 + 1 < (fcNormRaw k pcm).1 + (fcNormRaw k pcm).2 + 2
  omega

end Sys2Proof.Config

namespace Sys2Proof.Machine

/-! ## The legal sets (00_scope.md R9) -/

theorem channelsLegal_iff (ch : Nat) : channelsLegal ch = true ↔ 1 ≤ ch ∧ ch ≤ 6 := by
  simp [channelsLegal]

theorem dsdRateLegal_iff (rate : Nat) :
    dsdRateLegal rate = true ↔ rate = 2822400 ∨ rate = 5644800 ∨ rate = 11289600 ∨ rate = 22579200 := by
  simp [dsdRateLegal, show Config.dsdRates = [2822400, 5644800, 11289600, 22579200] from rfl]

/-- A PCM rate code is at most 3 and names a rate of the list (30_encoding.md R142). -/
theorem pcmOperand_eq (code : Nat) :
    pcmOperand code = if code ≤ 3 then some ([88200, 96000, 176400, 192000].getD code 0) else none := by
  rcases code with _ | _ | _ | _ | n <;> simp [pcmOperand, show Config.pcmRates = [88200, 96000, 176400, 192000] from rfl]

/-- The orders of the table predictions are the methods' numbers plus one, at most `MAX_CPRED_ORDER`
(42_dst_header.md R262, R263). -/
theorem predictor_orders (method : Nat) (h : method < Config.nRiceMethods) :
    (fcpred method).length = method + 1 ∧ (pcpred method).length = method + 1 ∧ method + 1 ≤ Config.maxCpredOrder := by
  rw [Config.nRiceMethods_eq] at h
  interval_cases method <;> decide

end Sys2Proof.Machine
end

