-- ==== Sys2Proof/Laws/Memory.lean ====
section
/-! SUPPORT. The laws of byte memories: the canonical form is kept, a read after a write, a run is its bytes. -/

namespace Sys2Proof.Machine

theorem Memory.wfFrom_mono : ∀ (m : Memory) (lo lo' : Nat), lo' ≤ lo → Memory.wfFrom lo m = true →
    Memory.wfFrom lo' m = true
  | [], _, _, _, _ => rfl
  | (k, v) :: m, lo, lo', h, hw => by
    simp only [Memory.wfFrom, Bool.and_eq_true, decide_eq_true_eq] at hw ⊢
    exact ⟨⟨h.trans hw.1.1, hw.1.2⟩, hw.2⟩

/-- Below the least address a memory lists, every byte is unlisted. -/
theorem Memory.read_below : ∀ (m : Memory) (lo a : Nat), Memory.wfFrom lo m = true → a < lo →
    Memory.read m a = Memory.unlisted
  | [], _, _, _, _ => rfl
  | (k, v) :: m, lo, a, hw, ha => by
    simp only [Memory.wfFrom, Bool.and_eq_true, decide_eq_true_eq] at hw
    rw [Memory.read, if_neg (by omega)]
    exact Memory.read_below m (k + 1) a hw.2 (by omega)

theorem Memory.wfFrom_write : ∀ (m : Memory) (lo a : Nat) (v : Byte), lo ≤ a → Memory.wfFrom lo m = true →
    Memory.wfFrom lo (Memory.write m a v) = true
  | [], lo, a, v, ha, _ => by
    unfold Memory.write
    split
    · rfl
    · next h => simp [Memory.wfFrom, ha, h]
  | (k, w) :: m, lo, a, v, ha, hw => by
    have hw' := hw
    simp only [Memory.wfFrom, Bool.and_eq_true, decide_eq_true_eq, bne_iff_ne] at hw'
    unfold Memory.write
    split
    · split
      · exact hw
      · next h1 h2 =>
        simp only [Memory.wfFrom, Bool.and_eq_true, decide_eq_true_eq, bne_iff_ne]
        exact ⟨⟨ha, h2⟩, ⟨by omega, hw'.1.2⟩, hw'.2⟩
    · split
      · next h1 h2 =>
        subst h2
        split
        · exact Memory.wfFrom_mono m (a + 1) lo (by omega) hw'.2
        · next h3 => simp [Memory.wfFrom, ha, h3, hw'.2]
      · next h1 h2 =>
        simp only [Memory.wfFrom, Bool.and_eq_true, decide_eq_true_eq, bne_iff_ne]
        exact ⟨hw'.1, Memory.wfFrom_write m (k + 1) a v (by omega) hw'.2⟩

/-- A write keeps the canonical form. -/
theorem Memory.wf_write (m : Memory) (a : Nat) (v : Byte) (h : m.wf = true) : (Memory.write m a v).wf = true :=
  Memory.wfFrom_write m 0 a v (Nat.zero_le a) h

/-- A run of writes keeps the canonical form. -/
theorem Memory.wf_writeRun : ∀ (bs : List Byte) (m : Memory) (a : Nat), m.wf = true →
    (Memory.writeRun m a bs).wf = true
  | [], _, _, h => h
  | b :: bs, m, a, h => Memory.wf_writeRun bs _ (a + 1) (Memory.wf_write m a b h)

/-- Reading what was just written. -/
theorem Memory.read_write_same : ∀ (m : Memory) (lo a : Nat) (v : Byte), Memory.wfFrom lo m = true →
    Memory.read (Memory.write m a v) a = v
  | [], _, a, v, _ => by
    unfold Memory.write
    split
    · next h => rw [h]; rfl
    · simp [Memory.read]
  | (k, w) :: m, lo, a, v, hw => by
    simp only [Memory.wfFrom, Bool.and_eq_true, decide_eq_true_eq] at hw
    unfold Memory.write
    split
    · next h1 =>
      split
      · next h2 =>
        rw [Memory.read, if_neg (by omega), Memory.read_below m (k + 1) a hw.2 (by omega), h2]
      · simp [Memory.read]
    · split
      · next h2 =>
        subst h2
        split
        · next h3 => rw [Memory.read_below m (a + 1) a hw.2 (by omega), h3]
        · simp [Memory.read]
      · next h1 h2 => rw [Memory.read, if_neg (by omega), Memory.read_write_same m (k + 1) a v hw.2]

/-- A write leaves every other byte alone. -/
theorem Memory.read_write_other : ∀ (m : Memory) (a b : Nat) (v : Byte), b ≠ a →
    Memory.read (Memory.write m a v) b = Memory.read m b
  | [], a, b, v, h => by
    unfold Memory.write
    split
    · rfl
    · simp [Memory.read, h.symm]
  | (k, w) :: m, a, b, v, h => by
    unfold Memory.write
    split
    · split
      · rfl
      · simp only [Memory.read, if_neg h.symm]
    · split
      · next h2 =>
        subst h2
        split <;> simp only [Memory.read, if_neg h.symm]
      · simp only [Memory.read, Memory.read_write_other m a b v h]

/-- Dropping the addresses below `a` changes no byte from `a` on. -/
theorem Memory.read_dropWhile : ∀ (m : Memory) (a b : Nat), a ≤ b →
    Memory.read (m.dropWhile fun c => c.1 < a) b = Memory.read m b
  | [], _, _, _ => rfl
  | (k, v) :: m, a, b, h => by
    by_cases hk : k < a
    · rw [List.dropWhile_cons_of_pos (by simpa using hk), Memory.read, if_neg (by omega),
        Memory.read_dropWhile m a b h]
    · rw [List.dropWhile_cons_of_neg (by simpa using hk)]

theorem Memory.wfFrom_dropWhile : ∀ (m : Memory) (lo a : Nat), Memory.wfFrom lo m = true →
    Memory.wfFrom a (m.dropWhile fun c => c.1 < a) = true
  | [], _, _, _ => rfl
  | (k, v) :: m, lo, a, hw => by
    have hw' := hw
    simp only [Memory.wfFrom, Bool.and_eq_true, decide_eq_true_eq] at hw'
    by_cases hk : k < a
    · rw [List.dropWhile_cons_of_pos (by simpa using hk)]
      exact Memory.wfFrom_dropWhile m (k + 1) a hw'.2
    · rw [List.dropWhile_cons_of_neg (by simpa using hk)]
      simp only [Memory.wfFrom, Bool.and_eq_true, decide_eq_true_eq]
      exact ⟨⟨by omega, hw'.1.2⟩, hw'.2⟩

theorem Memory.runFrom_nil : ∀ (n a : Nat), Memory.runFrom n a [] = List.replicate n Memory.unlisted
  | 0, _ => rfl
  | n + 1, _ => by rw [Memory.runFrom, Memory.runFrom_nil n 0, List.replicate_succ]

theorem Memory.runFrom_eq : ∀ (n a : Nat) (m : Memory), Memory.wfFrom a m = true →
    Memory.runFrom n a m = (List.range n).map fun i => Memory.read m (a + i)
  | 0, _, _, _ => rfl
  | n + 1, a, [], _ => by
    rw [Memory.runFrom_nil]
    simp [Memory.read, List.map_const']
  | n + 1, a, (k, v) :: m, hw => by
    have hw' := hw
    simp only [Memory.wfFrom, Bool.and_eq_true, decide_eq_true_eq] at hw'
    rw [List.range_succ_eq_map, List.map_cons, List.map_map]
    unfold Memory.runFrom
    split
    · next h =>
      subst h
      rw [Memory.runFrom_eq n (k + 1) m hw'.2]
      congr 1
      · simp [Memory.read]
      · apply List.map_congr_left
        intro i _
        simp only [Function.comp, Memory.read]
        rw [if_neg (by omega)]
        congr 1
        omega
    · next h =>
      rw [Memory.runFrom_eq n (a + 1) ((k, v) :: m)
        (by simp only [Memory.wfFrom, Bool.and_eq_true, decide_eq_true_eq]; exact ⟨⟨by omega, hw'.1.2⟩, hw'.2⟩)]
      congr 1
      · rw [Memory.read, if_neg (by omega), Memory.read_below m (k + 1) _ hw'.2 (by omega)]
      · apply List.map_congr_left
        intro i _
        simp only [Function.comp]
        congr 1
        omega

/-- A run is the bytes of its addresses, one by one (20_memory.md R106). -/
theorem Memory.run_eq (m : Memory) (a n : Nat) (h : m.wf = true) :
    m.run a n = (List.range n).map fun i => Memory.read m (a + i) := by
  rw [Memory.run, Memory.runFrom_eq n a _ (Memory.wfFrom_dropWhile m 0 a h)]
  exact List.map_congr_left fun i _ => Memory.read_dropWhile m a (a + i) (Nat.le_add_right a i)

/-- A run has as many bytes as it is asked for. -/
@[simp] theorem Memory.length_run (m : Memory) (a n : Nat) : (m.run a n).length = n := by
  have h : ∀ (n a : Nat) (m : Memory), (Memory.runFrom n a m).length = n := by
    intro n
    induction n with
    | zero => intro a m; rfl
    | succ n ih =>
      intro a m
      cases m with
      | nil => simp [Memory.runFrom_nil]
      | cons c m =>
        obtain ⟨k, v⟩ := c
        unfold Memory.runFrom
        split <;> simp [ih]
  exact h n a _

end Sys2Proof.Machine
end

