-- ==== Sys2Proof/Laws/State.lean ====
section
/-! SUPPORT. One lemma per field per update of State, true by rfl, so that no proof unfolds an update. -/

namespace Sys2Proof.Machine

variable (s : State)

/-! ### `State.respond` -/

@[simp] theorem State.respond_sess (v : Value) : (s.respond v).sess = s.sess := rfl
@[simp] theorem State.respond_ch (v : Value) : (s.respond v).ch = s.ch := rfl
@[simp] theorem State.respond_dsdRate (v : Value) : (s.respond v).dsdRate = s.dsdRate := rfl
@[simp] theorem State.respond_k (v : Value) : (s.respond v).k = s.k := rfl
@[simp] theorem State.respond_pcmRate (v : Value) : (s.respond v).pcmRate = s.pcmRate := rfl
@[simp] theorem State.respond_errCount (v : Value) : (s.respond v).errCount = s.errCount := rfl
@[simp] theorem State.respond_warnThreshold (v : Value) : (s.respond v).warnThreshold = s.warnThreshold := rfl
@[simp] theorem State.respond_slotSel (v : Value) : (s.respond v).slotSel = s.slotSel := rfl
@[simp] theorem State.respond_ditherDepth (v : Value) : (s.respond v).ditherDepth = s.ditherDepth := rfl
@[simp] theorem State.respond_ditherSeedLo (v : Value) : (s.respond v).ditherSeedLo = s.ditherSeedLo := rfl
@[simp] theorem State.respond_ditherSeedHi (v : Value) : (s.respond v).ditherSeedHi = s.ditherSeedHi := rfl
@[simp] theorem State.respond_silence (v : Value) : (s.respond v).silence = s.silence := rfl
@[simp] theorem State.respond_lastError (v : Value) : (s.respond v).lastError = s.lastError := rfl
@[simp] theorem State.respond_stuck (v : Value) : (s.respond v).stuck = s.stuck := rfl
@[simp] theorem State.respond_slots (v : Value) : (s.respond v).slots = s.slots := rfl
@[simp] theorem State.respond_pool (v : Value) : (s.respond v).pool = s.pool := rfl
@[simp] theorem State.respond_fx (v : Value) : (s.respond v).fx = s.fx := rfl
@[simp] theorem State.respond_pc (v : Value) : (s.respond v).pc = s.pc := rfl
@[simp] theorem State.respond_cmd (v : Value) : (s.respond v).cmd = s.cmd := rfl
@[simp] theorem State.respond_din (v : Value) : (s.respond v).din = s.din := rfl
@[simp] theorem State.respond_dout (v : Value) : (s.respond v).dout = s.dout := rfl
@[simp] theorem State.respond_rsp (v : Value) : (s.respond v).rsp = s.rsp ++ [{ status := 0, value := v }] := rfl
@[simp] theorem State.respond_rst (v : Value) : (s.respond v).rst = s.rst := rfl
@[simp] theorem State.respond_medium (v : Value) : (s.respond v).medium = s.medium := rfl
@[simp] theorem State.respond_mediumSize (v : Value) : (s.respond v).mediumSize = s.mediumSize := rfl
@[simp] theorem State.respond_answers (v : Value) : (s.respond v).answers = s.answers := rfl
@[simp] theorem State.respond_held (v : Value) : (s.respond v).held = s.held := rfl
@[simp] theorem State.respond_turns (v : Value) : (s.respond v).turns = s.turns := rfl

/-! ### `State.raise` -/

@[simp] theorem State.raise_sess (e : Exc) (v : Value) : (s.raise e v).sess = s.sess := rfl
@[simp] theorem State.raise_ch (e : Exc) (v : Value) : (s.raise e v).ch = s.ch := rfl
@[simp] theorem State.raise_dsdRate (e : Exc) (v : Value) : (s.raise e v).dsdRate = s.dsdRate := rfl
@[simp] theorem State.raise_k (e : Exc) (v : Value) : (s.raise e v).k = s.k := rfl
@[simp] theorem State.raise_pcmRate (e : Exc) (v : Value) : (s.raise e v).pcmRate = s.pcmRate := rfl
@[simp] theorem State.raise_errCount (e : Exc) (v : Value) : (s.raise e v).errCount = s.errCount := rfl
@[simp] theorem State.raise_warnThreshold (e : Exc) (v : Value) : (s.raise e v).warnThreshold = s.warnThreshold := rfl
@[simp] theorem State.raise_slotSel (e : Exc) (v : Value) : (s.raise e v).slotSel = s.slotSel := rfl
@[simp] theorem State.raise_ditherDepth (e : Exc) (v : Value) : (s.raise e v).ditherDepth = s.ditherDepth := rfl
@[simp] theorem State.raise_ditherSeedLo (e : Exc) (v : Value) : (s.raise e v).ditherSeedLo = s.ditherSeedLo := rfl
@[simp] theorem State.raise_ditherSeedHi (e : Exc) (v : Value) : (s.raise e v).ditherSeedHi = s.ditherSeedHi := rfl
@[simp] theorem State.raise_silence (e : Exc) (v : Value) : (s.raise e v).silence = s.silence := rfl
@[simp] theorem State.raise_lastError (e : Exc) (v : Value) : (s.raise e v).lastError = errorWord e v.toNat := rfl
@[simp] theorem State.raise_stuck (e : Exc) (v : Value) : (s.raise e v).stuck = s.stuck := rfl
@[simp] theorem State.raise_slots (e : Exc) (v : Value) : (s.raise e v).slots = s.slots := rfl
@[simp] theorem State.raise_pool (e : Exc) (v : Value) : (s.raise e v).pool = s.pool := rfl
@[simp] theorem State.raise_fx (e : Exc) (v : Value) : (s.raise e v).fx = s.fx := rfl
@[simp] theorem State.raise_pc (e : Exc) (v : Value) : (s.raise e v).pc = s.pc := rfl
@[simp] theorem State.raise_cmd (e : Exc) (v : Value) : (s.raise e v).cmd = s.cmd := rfl
@[simp] theorem State.raise_din (e : Exc) (v : Value) : (s.raise e v).din = s.din := rfl
@[simp] theorem State.raise_dout (e : Exc) (v : Value) : (s.raise e v).dout = s.dout := rfl
@[simp] theorem State.raise_rsp (e : Exc) (v : Value) : (s.raise e v).rsp = s.rsp ++ [{ status := BitVec.ofNat 8 e.code, value := v }] := rfl
@[simp] theorem State.raise_rst (e : Exc) (v : Value) : (s.raise e v).rst = s.rst := rfl
@[simp] theorem State.raise_medium (e : Exc) (v : Value) : (s.raise e v).medium = s.medium := rfl
@[simp] theorem State.raise_mediumSize (e : Exc) (v : Value) : (s.raise e v).mediumSize = s.mediumSize := rfl
@[simp] theorem State.raise_answers (e : Exc) (v : Value) : (s.raise e v).answers = s.answers := rfl
@[simp] theorem State.raise_held (e : Exc) (v : Value) : (s.raise e v).held = s.held := rfl
@[simp] theorem State.raise_turns (e : Exc) (v : Value) : (s.raise e v).turns = s.turns := rfl

/-! ### `State.absorb` -/

@[simp] theorem State.absorb_sess (e : Exc) (n : Nat) : (s.absorb e n).sess = s.sess := rfl
@[simp] theorem State.absorb_ch (e : Exc) (n : Nat) : (s.absorb e n).ch = s.ch := rfl
@[simp] theorem State.absorb_dsdRate (e : Exc) (n : Nat) : (s.absorb e n).dsdRate = s.dsdRate := rfl
@[simp] theorem State.absorb_k (e : Exc) (n : Nat) : (s.absorb e n).k = s.k := rfl
@[simp] theorem State.absorb_pcmRate (e : Exc) (n : Nat) : (s.absorb e n).pcmRate = s.pcmRate := rfl
@[simp] theorem State.absorb_errCount (e : Exc) (n : Nat) : (s.absorb e n).errCount = s.errCount := rfl
@[simp] theorem State.absorb_warnThreshold (e : Exc) (n : Nat) : (s.absorb e n).warnThreshold = s.warnThreshold := rfl
@[simp] theorem State.absorb_slotSel (e : Exc) (n : Nat) : (s.absorb e n).slotSel = s.slotSel := rfl
@[simp] theorem State.absorb_ditherDepth (e : Exc) (n : Nat) : (s.absorb e n).ditherDepth = s.ditherDepth := rfl
@[simp] theorem State.absorb_ditherSeedLo (e : Exc) (n : Nat) : (s.absorb e n).ditherSeedLo = s.ditherSeedLo := rfl
@[simp] theorem State.absorb_ditherSeedHi (e : Exc) (n : Nat) : (s.absorb e n).ditherSeedHi = s.ditherSeedHi := rfl
@[simp] theorem State.absorb_silence (e : Exc) (n : Nat) : (s.absorb e n).silence = s.silence := rfl
@[simp] theorem State.absorb_lastError (e : Exc) (n : Nat) : (s.absorb e n).lastError = errorWord e n := rfl
@[simp] theorem State.absorb_stuck (e : Exc) (n : Nat) : (s.absorb e n).stuck = s.stuck := rfl
@[simp] theorem State.absorb_slots (e : Exc) (n : Nat) : (s.absorb e n).slots = s.slots := rfl
@[simp] theorem State.absorb_pool (e : Exc) (n : Nat) : (s.absorb e n).pool = s.pool := rfl
@[simp] theorem State.absorb_fx (e : Exc) (n : Nat) : (s.absorb e n).fx = s.fx := rfl
@[simp] theorem State.absorb_pc (e : Exc) (n : Nat) : (s.absorb e n).pc = s.pc := rfl
@[simp] theorem State.absorb_cmd (e : Exc) (n : Nat) : (s.absorb e n).cmd = s.cmd := rfl
@[simp] theorem State.absorb_din (e : Exc) (n : Nat) : (s.absorb e n).din = s.din := rfl
@[simp] theorem State.absorb_dout (e : Exc) (n : Nat) : (s.absorb e n).dout = s.dout := rfl
@[simp] theorem State.absorb_rsp (e : Exc) (n : Nat) : (s.absorb e n).rsp = s.rsp := rfl
@[simp] theorem State.absorb_rst (e : Exc) (n : Nat) : (s.absorb e n).rst = s.rst := rfl
@[simp] theorem State.absorb_medium (e : Exc) (n : Nat) : (s.absorb e n).medium = s.medium := rfl
@[simp] theorem State.absorb_mediumSize (e : Exc) (n : Nat) : (s.absorb e n).mediumSize = s.mediumSize := rfl
@[simp] theorem State.absorb_answers (e : Exc) (n : Nat) : (s.absorb e n).answers = s.answers := rfl
@[simp] theorem State.absorb_held (e : Exc) (n : Nat) : (s.absorb e n).held = s.held := rfl
@[simp] theorem State.absorb_turns (e : Exc) (n : Nat) : (s.absorb e n).turns = s.turns := rfl

/-! ### `State.emit` -/

@[simp] theorem State.emit_sess (bs : List Byte) : (s.emit bs).sess = s.sess := rfl
@[simp] theorem State.emit_ch (bs : List Byte) : (s.emit bs).ch = s.ch := rfl
@[simp] theorem State.emit_dsdRate (bs : List Byte) : (s.emit bs).dsdRate = s.dsdRate := rfl
@[simp] theorem State.emit_k (bs : List Byte) : (s.emit bs).k = s.k := rfl
@[simp] theorem State.emit_pcmRate (bs : List Byte) : (s.emit bs).pcmRate = s.pcmRate := rfl
@[simp] theorem State.emit_errCount (bs : List Byte) : (s.emit bs).errCount = s.errCount := rfl
@[simp] theorem State.emit_warnThreshold (bs : List Byte) : (s.emit bs).warnThreshold = s.warnThreshold := rfl
@[simp] theorem State.emit_slotSel (bs : List Byte) : (s.emit bs).slotSel = s.slotSel := rfl
@[simp] theorem State.emit_ditherDepth (bs : List Byte) : (s.emit bs).ditherDepth = s.ditherDepth := rfl
@[simp] theorem State.emit_ditherSeedLo (bs : List Byte) : (s.emit bs).ditherSeedLo = s.ditherSeedLo := rfl
@[simp] theorem State.emit_ditherSeedHi (bs : List Byte) : (s.emit bs).ditherSeedHi = s.ditherSeedHi := rfl
@[simp] theorem State.emit_silence (bs : List Byte) : (s.emit bs).silence = s.silence := rfl
@[simp] theorem State.emit_lastError (bs : List Byte) : (s.emit bs).lastError = s.lastError := rfl
@[simp] theorem State.emit_stuck (bs : List Byte) : (s.emit bs).stuck = s.stuck := rfl
@[simp] theorem State.emit_slots (bs : List Byte) : (s.emit bs).slots = s.slots := rfl
@[simp] theorem State.emit_pool (bs : List Byte) : (s.emit bs).pool = s.pool := rfl
@[simp] theorem State.emit_fx (bs : List Byte) : (s.emit bs).fx = s.fx := rfl
@[simp] theorem State.emit_pc (bs : List Byte) : (s.emit bs).pc = s.pc := rfl
@[simp] theorem State.emit_cmd (bs : List Byte) : (s.emit bs).cmd = s.cmd := rfl
@[simp] theorem State.emit_din (bs : List Byte) : (s.emit bs).din = s.din := rfl
@[simp] theorem State.emit_dout (bs : List Byte) : (s.emit bs).dout = s.dout ++ bs := rfl
@[simp] theorem State.emit_rsp (bs : List Byte) : (s.emit bs).rsp = s.rsp := rfl
@[simp] theorem State.emit_rst (bs : List Byte) : (s.emit bs).rst = s.rst := rfl
@[simp] theorem State.emit_medium (bs : List Byte) : (s.emit bs).medium = s.medium := rfl
@[simp] theorem State.emit_mediumSize (bs : List Byte) : (s.emit bs).mediumSize = s.mediumSize := rfl
@[simp] theorem State.emit_answers (bs : List Byte) : (s.emit bs).answers = s.answers := rfl
@[simp] theorem State.emit_held (bs : List Byte) : (s.emit bs).held = s.held := rfl
@[simp] theorem State.emit_turns (bs : List Byte) : (s.emit bs).turns = s.turns := rfl

/-! ### `State.hold` -/

@[simp] theorem State.hold_sess (i : Instr) : (s.hold i).sess = s.sess := rfl
@[simp] theorem State.hold_ch (i : Instr) : (s.hold i).ch = s.ch := rfl
@[simp] theorem State.hold_dsdRate (i : Instr) : (s.hold i).dsdRate = s.dsdRate := rfl
@[simp] theorem State.hold_k (i : Instr) : (s.hold i).k = s.k := rfl
@[simp] theorem State.hold_pcmRate (i : Instr) : (s.hold i).pcmRate = s.pcmRate := rfl
@[simp] theorem State.hold_errCount (i : Instr) : (s.hold i).errCount = s.errCount := rfl
@[simp] theorem State.hold_warnThreshold (i : Instr) : (s.hold i).warnThreshold = s.warnThreshold := rfl
@[simp] theorem State.hold_slotSel (i : Instr) : (s.hold i).slotSel = s.slotSel := rfl
@[simp] theorem State.hold_ditherDepth (i : Instr) : (s.hold i).ditherDepth = s.ditherDepth := rfl
@[simp] theorem State.hold_ditherSeedLo (i : Instr) : (s.hold i).ditherSeedLo = s.ditherSeedLo := rfl
@[simp] theorem State.hold_ditherSeedHi (i : Instr) : (s.hold i).ditherSeedHi = s.ditherSeedHi := rfl
@[simp] theorem State.hold_silence (i : Instr) : (s.hold i).silence = s.silence := rfl
@[simp] theorem State.hold_lastError (i : Instr) : (s.hold i).lastError = s.lastError := rfl
@[simp] theorem State.hold_stuck (i : Instr) : (s.hold i).stuck = s.stuck := rfl
@[simp] theorem State.hold_slots (i : Instr) : (s.hold i).slots = s.slots := rfl
@[simp] theorem State.hold_pool (i : Instr) : (s.hold i).pool = s.pool := rfl
@[simp] theorem State.hold_fx (i : Instr) : (s.hold i).fx = s.fx := rfl
@[simp] theorem State.hold_pc (i : Instr) : (s.hold i).pc = s.pc := rfl
@[simp] theorem State.hold_cmd (i : Instr) : (s.hold i).cmd = s.cmd := rfl
@[simp] theorem State.hold_din (i : Instr) : (s.hold i).din = s.din := rfl
@[simp] theorem State.hold_dout (i : Instr) : (s.hold i).dout = s.dout := rfl
@[simp] theorem State.hold_rsp (i : Instr) : (s.hold i).rsp = s.rsp := rfl
@[simp] theorem State.hold_rst (i : Instr) : (s.hold i).rst = s.rst := rfl
@[simp] theorem State.hold_medium (i : Instr) : (s.hold i).medium = s.medium := rfl
@[simp] theorem State.hold_mediumSize (i : Instr) : (s.hold i).mediumSize = s.mediumSize := rfl
@[simp] theorem State.hold_answers (i : Instr) : (s.hold i).answers = s.answers := rfl
@[simp] theorem State.hold_held (i : Instr) : (s.hold i).held = some i := rfl
@[simp] theorem State.hold_turns (i : Instr) : (s.hold i).turns = s.turns := rfl

/-! ### `State.jam` -/

@[simp] theorem State.jam_sess (i : Instr) : (s.jam i).sess = s.sess := rfl
@[simp] theorem State.jam_ch (i : Instr) : (s.jam i).ch = s.ch := rfl
@[simp] theorem State.jam_dsdRate (i : Instr) : (s.jam i).dsdRate = s.dsdRate := rfl
@[simp] theorem State.jam_k (i : Instr) : (s.jam i).k = s.k := rfl
@[simp] theorem State.jam_pcmRate (i : Instr) : (s.jam i).pcmRate = s.pcmRate := rfl
@[simp] theorem State.jam_errCount (i : Instr) : (s.jam i).errCount = s.errCount := rfl
@[simp] theorem State.jam_warnThreshold (i : Instr) : (s.jam i).warnThreshold = s.warnThreshold := rfl
@[simp] theorem State.jam_slotSel (i : Instr) : (s.jam i).slotSel = s.slotSel := rfl
@[simp] theorem State.jam_ditherDepth (i : Instr) : (s.jam i).ditherDepth = s.ditherDepth := rfl
@[simp] theorem State.jam_ditherSeedLo (i : Instr) : (s.jam i).ditherSeedLo = s.ditherSeedLo := rfl
@[simp] theorem State.jam_ditherSeedHi (i : Instr) : (s.jam i).ditherSeedHi = s.ditherSeedHi := rfl
@[simp] theorem State.jam_silence (i : Instr) : (s.jam i).silence = s.silence := rfl
@[simp] theorem State.jam_lastError (i : Instr) : (s.jam i).lastError = s.lastError := rfl
@[simp] theorem State.jam_stuck (i : Instr) : (s.jam i).stuck = true := rfl
@[simp] theorem State.jam_slots (i : Instr) : (s.jam i).slots = s.slots := rfl
@[simp] theorem State.jam_pool (i : Instr) : (s.jam i).pool = s.pool := rfl
@[simp] theorem State.jam_fx (i : Instr) : (s.jam i).fx = s.fx := rfl
@[simp] theorem State.jam_pc (i : Instr) : (s.jam i).pc = s.pc := rfl
@[simp] theorem State.jam_cmd (i : Instr) : (s.jam i).cmd = s.cmd := rfl
@[simp] theorem State.jam_din (i : Instr) : (s.jam i).din = s.din := rfl
@[simp] theorem State.jam_dout (i : Instr) : (s.jam i).dout = s.dout := rfl
@[simp] theorem State.jam_rsp (i : Instr) : (s.jam i).rsp = s.rsp := rfl
@[simp] theorem State.jam_rst (i : Instr) : (s.jam i).rst = s.rst := rfl
@[simp] theorem State.jam_medium (i : Instr) : (s.jam i).medium = s.medium := rfl
@[simp] theorem State.jam_mediumSize (i : Instr) : (s.jam i).mediumSize = s.mediumSize := rfl
@[simp] theorem State.jam_answers (i : Instr) : (s.jam i).answers = s.answers := rfl
@[simp] theorem State.jam_held (i : Instr) : (s.jam i).held = some i := rfl
@[simp] theorem State.jam_turns (i : Instr) : (s.jam i).turns = s.turns := rfl

/-! ### `State.countError` -/

@[simp] theorem State.countError_sess : (s.countError).sess = s.sess := rfl
@[simp] theorem State.countError_ch : (s.countError).ch = s.ch := rfl
@[simp] theorem State.countError_dsdRate : (s.countError).dsdRate = s.dsdRate := rfl
@[simp] theorem State.countError_k : (s.countError).k = s.k := rfl
@[simp] theorem State.countError_pcmRate : (s.countError).pcmRate = s.pcmRate := rfl
@[simp] theorem State.countError_errCount : (s.countError).errCount = satInc s.errCount := rfl
@[simp] theorem State.countError_warnThreshold : (s.countError).warnThreshold = s.warnThreshold := rfl
@[simp] theorem State.countError_slotSel : (s.countError).slotSel = s.slotSel := rfl
@[simp] theorem State.countError_ditherDepth : (s.countError).ditherDepth = s.ditherDepth := rfl
@[simp] theorem State.countError_ditherSeedLo : (s.countError).ditherSeedLo = s.ditherSeedLo := rfl
@[simp] theorem State.countError_ditherSeedHi : (s.countError).ditherSeedHi = s.ditherSeedHi := rfl
@[simp] theorem State.countError_silence : (s.countError).silence = s.silence := rfl
@[simp] theorem State.countError_lastError : (s.countError).lastError = s.lastError := rfl
@[simp] theorem State.countError_stuck : (s.countError).stuck = s.stuck := rfl
@[simp] theorem State.countError_slots : (s.countError).slots = s.slots := rfl
@[simp] theorem State.countError_pool : (s.countError).pool = s.pool := rfl
@[simp] theorem State.countError_fx : (s.countError).fx = s.fx := rfl
@[simp] theorem State.countError_pc : (s.countError).pc = s.pc := rfl
@[simp] theorem State.countError_cmd : (s.countError).cmd = s.cmd := rfl
@[simp] theorem State.countError_din : (s.countError).din = s.din := rfl
@[simp] theorem State.countError_dout : (s.countError).dout = s.dout := rfl
@[simp] theorem State.countError_rsp : (s.countError).rsp = s.rsp := rfl
@[simp] theorem State.countError_rst : (s.countError).rst = s.rst := rfl
@[simp] theorem State.countError_medium : (s.countError).medium = s.medium := rfl
@[simp] theorem State.countError_mediumSize : (s.countError).mediumSize = s.mediumSize := rfl
@[simp] theorem State.countError_answers : (s.countError).answers = s.answers := rfl
@[simp] theorem State.countError_held : (s.countError).held = s.held := rfl
@[simp] theorem State.countError_turns : (s.countError).turns = s.turns := rfl

/-! ### `State.setSlot` -/

@[simp] theorem State.setSlot_sess (j : Nat) (sl : Slot) : (s.setSlot j sl).sess = s.sess := rfl
@[simp] theorem State.setSlot_ch (j : Nat) (sl : Slot) : (s.setSlot j sl).ch = s.ch := rfl
@[simp] theorem State.setSlot_dsdRate (j : Nat) (sl : Slot) : (s.setSlot j sl).dsdRate = s.dsdRate := rfl
@[simp] theorem State.setSlot_k (j : Nat) (sl : Slot) : (s.setSlot j sl).k = s.k := rfl
@[simp] theorem State.setSlot_pcmRate (j : Nat) (sl : Slot) : (s.setSlot j sl).pcmRate = s.pcmRate := rfl
@[simp] theorem State.setSlot_errCount (j : Nat) (sl : Slot) : (s.setSlot j sl).errCount = s.errCount := rfl
@[simp] theorem State.setSlot_warnThreshold (j : Nat) (sl : Slot) : (s.setSlot j sl).warnThreshold = s.warnThreshold := rfl
@[simp] theorem State.setSlot_slotSel (j : Nat) (sl : Slot) : (s.setSlot j sl).slotSel = s.slotSel := rfl
@[simp] theorem State.setSlot_ditherDepth (j : Nat) (sl : Slot) : (s.setSlot j sl).ditherDepth = s.ditherDepth := rfl
@[simp] theorem State.setSlot_ditherSeedLo (j : Nat) (sl : Slot) : (s.setSlot j sl).ditherSeedLo = s.ditherSeedLo := rfl
@[simp] theorem State.setSlot_ditherSeedHi (j : Nat) (sl : Slot) : (s.setSlot j sl).ditherSeedHi = s.ditherSeedHi := rfl
@[simp] theorem State.setSlot_silence (j : Nat) (sl : Slot) : (s.setSlot j sl).silence = s.silence := rfl
@[simp] theorem State.setSlot_lastError (j : Nat) (sl : Slot) : (s.setSlot j sl).lastError = s.lastError := rfl
@[simp] theorem State.setSlot_stuck (j : Nat) (sl : Slot) : (s.setSlot j sl).stuck = s.stuck := rfl
@[simp] theorem State.setSlot_slots (j : Nat) (sl : Slot) : (s.setSlot j sl).slots = setSlotAt s.slots j sl := rfl
@[simp] theorem State.setSlot_pool (j : Nat) (sl : Slot) : (s.setSlot j sl).pool = s.pool := rfl
@[simp] theorem State.setSlot_fx (j : Nat) (sl : Slot) : (s.setSlot j sl).fx = s.fx := rfl
@[simp] theorem State.setSlot_pc (j : Nat) (sl : Slot) : (s.setSlot j sl).pc = s.pc := rfl
@[simp] theorem State.setSlot_cmd (j : Nat) (sl : Slot) : (s.setSlot j sl).cmd = s.cmd := rfl
@[simp] theorem State.setSlot_din (j : Nat) (sl : Slot) : (s.setSlot j sl).din = s.din := rfl
@[simp] theorem State.setSlot_dout (j : Nat) (sl : Slot) : (s.setSlot j sl).dout = s.dout := rfl
@[simp] theorem State.setSlot_rsp (j : Nat) (sl : Slot) : (s.setSlot j sl).rsp = s.rsp := rfl
@[simp] theorem State.setSlot_rst (j : Nat) (sl : Slot) : (s.setSlot j sl).rst = s.rst := rfl
@[simp] theorem State.setSlot_medium (j : Nat) (sl : Slot) : (s.setSlot j sl).medium = s.medium := rfl
@[simp] theorem State.setSlot_mediumSize (j : Nat) (sl : Slot) : (s.setSlot j sl).mediumSize = s.mediumSize := rfl
@[simp] theorem State.setSlot_answers (j : Nat) (sl : Slot) : (s.setSlot j sl).answers = s.answers := rfl
@[simp] theorem State.setSlot_held (j : Nat) (sl : Slot) : (s.setSlot j sl).held = s.held := rfl
@[simp] theorem State.setSlot_turns (j : Nat) (sl : Slot) : (s.setSlot j sl).turns = s.turns := rfl

/-! ### `State.setFx` -/

@[simp] theorem State.setFx_sess (fx : Fx) : (s.setFx fx).sess = s.sess := rfl
@[simp] theorem State.setFx_ch (fx : Fx) : (s.setFx fx).ch = s.ch := rfl
@[simp] theorem State.setFx_dsdRate (fx : Fx) : (s.setFx fx).dsdRate = s.dsdRate := rfl
@[simp] theorem State.setFx_k (fx : Fx) : (s.setFx fx).k = s.k := rfl
@[simp] theorem State.setFx_pcmRate (fx : Fx) : (s.setFx fx).pcmRate = s.pcmRate := rfl
@[simp] theorem State.setFx_errCount (fx : Fx) : (s.setFx fx).errCount = s.errCount := rfl
@[simp] theorem State.setFx_warnThreshold (fx : Fx) : (s.setFx fx).warnThreshold = s.warnThreshold := rfl
@[simp] theorem State.setFx_slotSel (fx : Fx) : (s.setFx fx).slotSel = s.slotSel := rfl
@[simp] theorem State.setFx_ditherDepth (fx : Fx) : (s.setFx fx).ditherDepth = s.ditherDepth := rfl
@[simp] theorem State.setFx_ditherSeedLo (fx : Fx) : (s.setFx fx).ditherSeedLo = s.ditherSeedLo := rfl
@[simp] theorem State.setFx_ditherSeedHi (fx : Fx) : (s.setFx fx).ditherSeedHi = s.ditherSeedHi := rfl
@[simp] theorem State.setFx_silence (fx : Fx) : (s.setFx fx).silence = s.silence := rfl
@[simp] theorem State.setFx_lastError (fx : Fx) : (s.setFx fx).lastError = s.lastError := rfl
@[simp] theorem State.setFx_stuck (fx : Fx) : (s.setFx fx).stuck = s.stuck := rfl
@[simp] theorem State.setFx_slots (fx : Fx) : (s.setFx fx).slots = s.slots := rfl
@[simp] theorem State.setFx_pool (fx : Fx) : (s.setFx fx).pool = s.pool := rfl
@[simp] theorem State.setFx_fx (fx : Fx) : (s.setFx fx).fx = fx := rfl
@[simp] theorem State.setFx_pc (fx : Fx) : (s.setFx fx).pc = s.pc := rfl
@[simp] theorem State.setFx_cmd (fx : Fx) : (s.setFx fx).cmd = s.cmd := rfl
@[simp] theorem State.setFx_din (fx : Fx) : (s.setFx fx).din = s.din := rfl
@[simp] theorem State.setFx_dout (fx : Fx) : (s.setFx fx).dout = s.dout := rfl
@[simp] theorem State.setFx_rsp (fx : Fx) : (s.setFx fx).rsp = s.rsp := rfl
@[simp] theorem State.setFx_rst (fx : Fx) : (s.setFx fx).rst = s.rst := rfl
@[simp] theorem State.setFx_medium (fx : Fx) : (s.setFx fx).medium = s.medium := rfl
@[simp] theorem State.setFx_mediumSize (fx : Fx) : (s.setFx fx).mediumSize = s.mediumSize := rfl
@[simp] theorem State.setFx_answers (fx : Fx) : (s.setFx fx).answers = s.answers := rfl
@[simp] theorem State.setFx_held (fx : Fx) : (s.setFx fx).held = s.held := rfl
@[simp] theorem State.setFx_turns (fx : Fx) : (s.setFx fx).turns = s.turns := rfl

/-! ### `State.countBadRead` -/

@[simp] theorem State.countBadRead_sess : (s.countBadRead).sess = s.sess := rfl
@[simp] theorem State.countBadRead_ch : (s.countBadRead).ch = s.ch := rfl
@[simp] theorem State.countBadRead_dsdRate : (s.countBadRead).dsdRate = s.dsdRate := rfl
@[simp] theorem State.countBadRead_k : (s.countBadRead).k = s.k := rfl
@[simp] theorem State.countBadRead_pcmRate : (s.countBadRead).pcmRate = s.pcmRate := rfl
@[simp] theorem State.countBadRead_errCount : (s.countBadRead).errCount = s.errCount := rfl
@[simp] theorem State.countBadRead_warnThreshold : (s.countBadRead).warnThreshold = s.warnThreshold := rfl
@[simp] theorem State.countBadRead_slotSel : (s.countBadRead).slotSel = s.slotSel := rfl
@[simp] theorem State.countBadRead_ditherDepth : (s.countBadRead).ditherDepth = s.ditherDepth := rfl
@[simp] theorem State.countBadRead_ditherSeedLo : (s.countBadRead).ditherSeedLo = s.ditherSeedLo := rfl
@[simp] theorem State.countBadRead_ditherSeedHi : (s.countBadRead).ditherSeedHi = s.ditherSeedHi := rfl
@[simp] theorem State.countBadRead_silence : (s.countBadRead).silence = s.silence := rfl
@[simp] theorem State.countBadRead_lastError : (s.countBadRead).lastError = s.lastError := rfl
@[simp] theorem State.countBadRead_stuck : (s.countBadRead).stuck = s.stuck := rfl
@[simp] theorem State.countBadRead_slots : (s.countBadRead).slots = s.slots := rfl
@[simp] theorem State.countBadRead_pool : (s.countBadRead).pool = s.pool := rfl
@[simp] theorem State.countBadRead_fx : (s.countBadRead).fx = { s.fx with badReads := satInc s.fx.badReads } := rfl
@[simp] theorem State.countBadRead_pc : (s.countBadRead).pc = s.pc := rfl
@[simp] theorem State.countBadRead_cmd : (s.countBadRead).cmd = s.cmd := rfl
@[simp] theorem State.countBadRead_din : (s.countBadRead).din = s.din := rfl
@[simp] theorem State.countBadRead_dout : (s.countBadRead).dout = s.dout := rfl
@[simp] theorem State.countBadRead_rsp : (s.countBadRead).rsp = s.rsp := rfl
@[simp] theorem State.countBadRead_rst : (s.countBadRead).rst = s.rst := rfl
@[simp] theorem State.countBadRead_medium : (s.countBadRead).medium = s.medium := rfl
@[simp] theorem State.countBadRead_mediumSize : (s.countBadRead).mediumSize = s.mediumSize := rfl
@[simp] theorem State.countBadRead_answers : (s.countBadRead).answers = s.answers := rfl
@[simp] theorem State.countBadRead_held : (s.countBadRead).held = s.held := rfl
@[simp] theorem State.countBadRead_turns : (s.countBadRead).turns = s.turns := rfl

/-! ### `State.moveCursor` -/

@[simp] theorem State.moveCursor_sess (p : Nat) : (s.moveCursor p).sess = s.sess := rfl
@[simp] theorem State.moveCursor_ch (p : Nat) : (s.moveCursor p).ch = s.ch := rfl
@[simp] theorem State.moveCursor_dsdRate (p : Nat) : (s.moveCursor p).dsdRate = s.dsdRate := rfl
@[simp] theorem State.moveCursor_k (p : Nat) : (s.moveCursor p).k = s.k := rfl
@[simp] theorem State.moveCursor_pcmRate (p : Nat) : (s.moveCursor p).pcmRate = s.pcmRate := rfl
@[simp] theorem State.moveCursor_errCount (p : Nat) : (s.moveCursor p).errCount = s.errCount := rfl
@[simp] theorem State.moveCursor_warnThreshold (p : Nat) : (s.moveCursor p).warnThreshold = s.warnThreshold := rfl
@[simp] theorem State.moveCursor_slotSel (p : Nat) : (s.moveCursor p).slotSel = s.slotSel := rfl
@[simp] theorem State.moveCursor_ditherDepth (p : Nat) : (s.moveCursor p).ditherDepth = s.ditherDepth := rfl
@[simp] theorem State.moveCursor_ditherSeedLo (p : Nat) : (s.moveCursor p).ditherSeedLo = s.ditherSeedLo := rfl
@[simp] theorem State.moveCursor_ditherSeedHi (p : Nat) : (s.moveCursor p).ditherSeedHi = s.ditherSeedHi := rfl
@[simp] theorem State.moveCursor_silence (p : Nat) : (s.moveCursor p).silence = s.silence := rfl
@[simp] theorem State.moveCursor_lastError (p : Nat) : (s.moveCursor p).lastError = s.lastError := rfl
@[simp] theorem State.moveCursor_stuck (p : Nat) : (s.moveCursor p).stuck = s.stuck := rfl
@[simp] theorem State.moveCursor_slots (p : Nat) : (s.moveCursor p).slots = s.slots := rfl
@[simp] theorem State.moveCursor_pool (p : Nat) : (s.moveCursor p).pool = s.pool := rfl
@[simp] theorem State.moveCursor_fx (p : Nat) : (s.moveCursor p).fx = { s.fx with cursor := p } := rfl
@[simp] theorem State.moveCursor_pc (p : Nat) : (s.moveCursor p).pc = s.pc := rfl
@[simp] theorem State.moveCursor_cmd (p : Nat) : (s.moveCursor p).cmd = s.cmd := rfl
@[simp] theorem State.moveCursor_din (p : Nat) : (s.moveCursor p).din = s.din := rfl
@[simp] theorem State.moveCursor_dout (p : Nat) : (s.moveCursor p).dout = s.dout := rfl
@[simp] theorem State.moveCursor_rsp (p : Nat) : (s.moveCursor p).rsp = s.rsp := rfl
@[simp] theorem State.moveCursor_rst (p : Nat) : (s.moveCursor p).rst = s.rst := rfl
@[simp] theorem State.moveCursor_medium (p : Nat) : (s.moveCursor p).medium = s.medium := rfl
@[simp] theorem State.moveCursor_mediumSize (p : Nat) : (s.moveCursor p).mediumSize = s.mediumSize := rfl
@[simp] theorem State.moveCursor_answers (p : Nat) : (s.moveCursor p).answers = s.answers := rfl
@[simp] theorem State.moveCursor_held (p : Nat) : (s.moveCursor p).held = s.held := rfl
@[simp] theorem State.moveCursor_turns (p : Nat) : (s.moveCursor p).turns = s.turns := rfl

/-! ### `State.setSec` -/

@[simp] theorem State.setSec_sess (sec : Sec) : (s.setSec sec).sess = s.sess := rfl
@[simp] theorem State.setSec_ch (sec : Sec) : (s.setSec sec).ch = s.ch := rfl
@[simp] theorem State.setSec_dsdRate (sec : Sec) : (s.setSec sec).dsdRate = s.dsdRate := rfl
@[simp] theorem State.setSec_k (sec : Sec) : (s.setSec sec).k = s.k := rfl
@[simp] theorem State.setSec_pcmRate (sec : Sec) : (s.setSec sec).pcmRate = s.pcmRate := rfl
@[simp] theorem State.setSec_errCount (sec : Sec) : (s.setSec sec).errCount = s.errCount := rfl
@[simp] theorem State.setSec_warnThreshold (sec : Sec) : (s.setSec sec).warnThreshold = s.warnThreshold := rfl
@[simp] theorem State.setSec_slotSel (sec : Sec) : (s.setSec sec).slotSel = s.slotSel := rfl
@[simp] theorem State.setSec_ditherDepth (sec : Sec) : (s.setSec sec).ditherDepth = s.ditherDepth := rfl
@[simp] theorem State.setSec_ditherSeedLo (sec : Sec) : (s.setSec sec).ditherSeedLo = s.ditherSeedLo := rfl
@[simp] theorem State.setSec_ditherSeedHi (sec : Sec) : (s.setSec sec).ditherSeedHi = s.ditherSeedHi := rfl
@[simp] theorem State.setSec_silence (sec : Sec) : (s.setSec sec).silence = s.silence := rfl
@[simp] theorem State.setSec_lastError (sec : Sec) : (s.setSec sec).lastError = s.lastError := rfl
@[simp] theorem State.setSec_stuck (sec : Sec) : (s.setSec sec).stuck = s.stuck := rfl
@[simp] theorem State.setSec_slots (sec : Sec) : (s.setSec sec).slots = s.slots := rfl
@[simp] theorem State.setSec_pool (sec : Sec) : (s.setSec sec).pool = s.pool := rfl
@[simp] theorem State.setSec_fx (sec : Sec) : (s.setSec sec).fx = { s.fx with sec := sec } := rfl
@[simp] theorem State.setSec_pc (sec : Sec) : (s.setSec sec).pc = s.pc := rfl
@[simp] theorem State.setSec_cmd (sec : Sec) : (s.setSec sec).cmd = s.cmd := rfl
@[simp] theorem State.setSec_din (sec : Sec) : (s.setSec sec).din = s.din := rfl
@[simp] theorem State.setSec_dout (sec : Sec) : (s.setSec sec).dout = s.dout := rfl
@[simp] theorem State.setSec_rsp (sec : Sec) : (s.setSec sec).rsp = s.rsp := rfl
@[simp] theorem State.setSec_rst (sec : Sec) : (s.setSec sec).rst = s.rst := rfl
@[simp] theorem State.setSec_medium (sec : Sec) : (s.setSec sec).medium = s.medium := rfl
@[simp] theorem State.setSec_mediumSize (sec : Sec) : (s.setSec sec).mediumSize = s.mediumSize := rfl
@[simp] theorem State.setSec_answers (sec : Sec) : (s.setSec sec).answers = s.answers := rfl
@[simp] theorem State.setSec_held (sec : Sec) : (s.setSec sec).held = s.held := rfl
@[simp] theorem State.setSec_turns (sec : Sec) : (s.setSec sec).turns = s.turns := rfl

/-! ### `State.clearRing` -/

@[simp] theorem State.clearRing_sess (n : Nat) : (s.clearRing n).sess = s.sess := rfl
@[simp] theorem State.clearRing_ch (n : Nat) : (s.clearRing n).ch = s.ch := rfl
@[simp] theorem State.clearRing_dsdRate (n : Nat) : (s.clearRing n).dsdRate = s.dsdRate := rfl
@[simp] theorem State.clearRing_k (n : Nat) : (s.clearRing n).k = s.k := rfl
@[simp] theorem State.clearRing_pcmRate (n : Nat) : (s.clearRing n).pcmRate = s.pcmRate := rfl
@[simp] theorem State.clearRing_errCount (n : Nat) : (s.clearRing n).errCount = s.errCount := rfl
@[simp] theorem State.clearRing_warnThreshold (n : Nat) : (s.clearRing n).warnThreshold = s.warnThreshold := rfl
@[simp] theorem State.clearRing_slotSel (n : Nat) : (s.clearRing n).slotSel = s.slotSel := rfl
@[simp] theorem State.clearRing_ditherDepth (n : Nat) : (s.clearRing n).ditherDepth = s.ditherDepth := rfl
@[simp] theorem State.clearRing_ditherSeedLo (n : Nat) : (s.clearRing n).ditherSeedLo = s.ditherSeedLo := rfl
@[simp] theorem State.clearRing_ditherSeedHi (n : Nat) : (s.clearRing n).ditherSeedHi = s.ditherSeedHi := rfl
@[simp] theorem State.clearRing_silence (n : Nat) : (s.clearRing n).silence = s.silence := rfl
@[simp] theorem State.clearRing_lastError (n : Nat) : (s.clearRing n).lastError = s.lastError := rfl
@[simp] theorem State.clearRing_stuck (n : Nat) : (s.clearRing n).stuck = s.stuck := rfl
@[simp] theorem State.clearRing_slots (n : Nat) : (s.clearRing n).slots = s.slots.map Slot.cleared := rfl
@[simp] theorem State.clearRing_pool (n : Nat) : (s.clearRing n).pool = { Pool.reset with dstCh := n, dstFb := s.pool.dstFb } := rfl
@[simp] theorem State.clearRing_fx (n : Nat) : (s.clearRing n).fx = s.fx := rfl
@[simp] theorem State.clearRing_pc (n : Nat) : (s.clearRing n).pc = s.pc := rfl
@[simp] theorem State.clearRing_cmd (n : Nat) : (s.clearRing n).cmd = s.cmd := rfl
@[simp] theorem State.clearRing_din (n : Nat) : (s.clearRing n).din = s.din := rfl
@[simp] theorem State.clearRing_dout (n : Nat) : (s.clearRing n).dout = s.dout := rfl
@[simp] theorem State.clearRing_rsp (n : Nat) : (s.clearRing n).rsp = s.rsp := rfl
@[simp] theorem State.clearRing_rst (n : Nat) : (s.clearRing n).rst = s.rst := rfl
@[simp] theorem State.clearRing_medium (n : Nat) : (s.clearRing n).medium = s.medium := rfl
@[simp] theorem State.clearRing_mediumSize (n : Nat) : (s.clearRing n).mediumSize = s.mediumSize := rfl
@[simp] theorem State.clearRing_answers (n : Nat) : (s.clearRing n).answers = s.answers := rfl
@[simp] theorem State.clearRing_held (n : Nat) : (s.clearRing n).held = s.held := rfl
@[simp] theorem State.clearRing_turns (n : Nat) : (s.clearRing n).turns = s.turns := rfl

/-! ### `State.drainBusy` -/

@[simp] theorem State.drainBusy_sess : (s.drainBusy).sess = s.sess := rfl
@[simp] theorem State.drainBusy_ch : (s.drainBusy).ch = s.ch := rfl
@[simp] theorem State.drainBusy_dsdRate : (s.drainBusy).dsdRate = s.dsdRate := rfl
@[simp] theorem State.drainBusy_k : (s.drainBusy).k = s.k := rfl
@[simp] theorem State.drainBusy_pcmRate : (s.drainBusy).pcmRate = s.pcmRate := rfl
@[simp] theorem State.drainBusy_errCount : (s.drainBusy).errCount = s.errCount := rfl
@[simp] theorem State.drainBusy_warnThreshold : (s.drainBusy).warnThreshold = s.warnThreshold := rfl
@[simp] theorem State.drainBusy_slotSel : (s.drainBusy).slotSel = s.slotSel := rfl
@[simp] theorem State.drainBusy_ditherDepth : (s.drainBusy).ditherDepth = s.ditherDepth := rfl
@[simp] theorem State.drainBusy_ditherSeedLo : (s.drainBusy).ditherSeedLo = s.ditherSeedLo := rfl
@[simp] theorem State.drainBusy_ditherSeedHi : (s.drainBusy).ditherSeedHi = s.ditherSeedHi := rfl
@[simp] theorem State.drainBusy_silence : (s.drainBusy).silence = s.silence := rfl
@[simp] theorem State.drainBusy_lastError : (s.drainBusy).lastError = s.lastError := rfl
@[simp] theorem State.drainBusy_stuck : (s.drainBusy).stuck = s.stuck := rfl
@[simp] theorem State.drainBusy_slots : (s.drainBusy).slots = s.slots.map s.stepped := rfl
@[simp] theorem State.drainBusy_pool : (s.drainBusy).pool = s.pool := rfl
@[simp] theorem State.drainBusy_fx : (s.drainBusy).fx = s.fx := rfl
@[simp] theorem State.drainBusy_pc : (s.drainBusy).pc = s.pc := rfl
@[simp] theorem State.drainBusy_cmd : (s.drainBusy).cmd = s.cmd := rfl
@[simp] theorem State.drainBusy_din : (s.drainBusy).din = s.din := rfl
@[simp] theorem State.drainBusy_dout : (s.drainBusy).dout = s.dout := rfl
@[simp] theorem State.drainBusy_rsp : (s.drainBusy).rsp = s.rsp := rfl
@[simp] theorem State.drainBusy_rst : (s.drainBusy).rst = s.rst := rfl
@[simp] theorem State.drainBusy_medium : (s.drainBusy).medium = s.medium := rfl
@[simp] theorem State.drainBusy_mediumSize : (s.drainBusy).mediumSize = s.mediumSize := rfl
@[simp] theorem State.drainBusy_answers : (s.drainBusy).answers = s.answers := rfl
@[simp] theorem State.drainBusy_held : (s.drainBusy).held = s.held := rfl
@[simp] theorem State.drainBusy_turns : (s.drainBusy).turns = s.turns := rfl

/-! ### `State.enqueue` -/

@[simp] theorem State.enqueue_sess (sl : Slot) : (s.enqueue sl).sess = s.sess := rfl
@[simp] theorem State.enqueue_ch (sl : Slot) : (s.enqueue sl).ch = s.ch := rfl
@[simp] theorem State.enqueue_dsdRate (sl : Slot) : (s.enqueue sl).dsdRate = s.dsdRate := rfl
@[simp] theorem State.enqueue_k (sl : Slot) : (s.enqueue sl).k = s.k := rfl
@[simp] theorem State.enqueue_pcmRate (sl : Slot) : (s.enqueue sl).pcmRate = s.pcmRate := rfl
@[simp] theorem State.enqueue_errCount (sl : Slot) : (s.enqueue sl).errCount = s.errCount := rfl
@[simp] theorem State.enqueue_warnThreshold (sl : Slot) : (s.enqueue sl).warnThreshold = s.warnThreshold := rfl
@[simp] theorem State.enqueue_slotSel (sl : Slot) : (s.enqueue sl).slotSel = s.slotSel := rfl
@[simp] theorem State.enqueue_ditherDepth (sl : Slot) : (s.enqueue sl).ditherDepth = s.ditherDepth := rfl
@[simp] theorem State.enqueue_ditherSeedLo (sl : Slot) : (s.enqueue sl).ditherSeedLo = s.ditherSeedLo := rfl
@[simp] theorem State.enqueue_ditherSeedHi (sl : Slot) : (s.enqueue sl).ditherSeedHi = s.ditherSeedHi := rfl
@[simp] theorem State.enqueue_silence (sl : Slot) : (s.enqueue sl).silence = s.silence := rfl
@[simp] theorem State.enqueue_lastError (sl : Slot) : (s.enqueue sl).lastError = s.lastError := rfl
@[simp] theorem State.enqueue_stuck (sl : Slot) : (s.enqueue sl).stuck = s.stuck := rfl
@[simp] theorem State.enqueue_slots (sl : Slot) : (s.enqueue sl).slots = setSlotAt s.slots s.pool.head sl := rfl
@[simp] theorem State.enqueue_fx (sl : Slot) : (s.enqueue sl).fx = s.fx := rfl
@[simp] theorem State.enqueue_pc (sl : Slot) : (s.enqueue sl).pc = s.pc := rfl
@[simp] theorem State.enqueue_cmd (sl : Slot) : (s.enqueue sl).cmd = s.cmd := rfl
@[simp] theorem State.enqueue_din (sl : Slot) : (s.enqueue sl).din = s.din := rfl
@[simp] theorem State.enqueue_dout (sl : Slot) : (s.enqueue sl).dout = s.dout := rfl
@[simp] theorem State.enqueue_rsp (sl : Slot) : (s.enqueue sl).rsp = s.rsp := rfl
@[simp] theorem State.enqueue_rst (sl : Slot) : (s.enqueue sl).rst = s.rst := rfl
@[simp] theorem State.enqueue_medium (sl : Slot) : (s.enqueue sl).medium = s.medium := rfl
@[simp] theorem State.enqueue_mediumSize (sl : Slot) : (s.enqueue sl).mediumSize = s.mediumSize := rfl
@[simp] theorem State.enqueue_answers (sl : Slot) : (s.enqueue sl).answers = s.answers := rfl
@[simp] theorem State.enqueue_held (sl : Slot) : (s.enqueue sl).held = s.held := rfl
@[simp] theorem State.enqueue_turns (sl : Slot) : (s.enqueue sl).turns = s.turns := rfl

/-! ### `State.dequeue` -/

@[simp] theorem State.dequeue_sess : (s.dequeue).sess = s.sess := rfl
@[simp] theorem State.dequeue_ch : (s.dequeue).ch = s.ch := rfl
@[simp] theorem State.dequeue_dsdRate : (s.dequeue).dsdRate = s.dsdRate := rfl
@[simp] theorem State.dequeue_k : (s.dequeue).k = s.k := rfl
@[simp] theorem State.dequeue_pcmRate : (s.dequeue).pcmRate = s.pcmRate := rfl
@[simp] theorem State.dequeue_errCount : (s.dequeue).errCount = s.errCount := rfl
@[simp] theorem State.dequeue_warnThreshold : (s.dequeue).warnThreshold = s.warnThreshold := rfl
@[simp] theorem State.dequeue_slotSel : (s.dequeue).slotSel = s.slotSel := rfl
@[simp] theorem State.dequeue_ditherDepth : (s.dequeue).ditherDepth = s.ditherDepth := rfl
@[simp] theorem State.dequeue_ditherSeedLo : (s.dequeue).ditherSeedLo = s.ditherSeedLo := rfl
@[simp] theorem State.dequeue_ditherSeedHi : (s.dequeue).ditherSeedHi = s.ditherSeedHi := rfl
@[simp] theorem State.dequeue_silence : (s.dequeue).silence = s.silence := rfl
@[simp] theorem State.dequeue_lastError : (s.dequeue).lastError = s.lastError := rfl
@[simp] theorem State.dequeue_stuck : (s.dequeue).stuck = s.stuck := rfl
@[simp] theorem State.dequeue_fx : (s.dequeue).fx = s.fx := rfl
@[simp] theorem State.dequeue_pc : (s.dequeue).pc = s.pc := rfl
@[simp] theorem State.dequeue_cmd : (s.dequeue).cmd = s.cmd := rfl
@[simp] theorem State.dequeue_din : (s.dequeue).din = s.din := rfl
@[simp] theorem State.dequeue_dout : (s.dequeue).dout = s.dout := rfl
@[simp] theorem State.dequeue_rsp : (s.dequeue).rsp = s.rsp := rfl
@[simp] theorem State.dequeue_rst : (s.dequeue).rst = s.rst := rfl
@[simp] theorem State.dequeue_medium : (s.dequeue).medium = s.medium := rfl
@[simp] theorem State.dequeue_mediumSize : (s.dequeue).mediumSize = s.mediumSize := rfl
@[simp] theorem State.dequeue_answers : (s.dequeue).answers = s.answers := rfl
@[simp] theorem State.dequeue_held : (s.dequeue).held = s.held := rfl
@[simp] theorem State.dequeue_turns : (s.dequeue).turns = s.turns := rfl

/-! ### `State.pcInitBody` -/

@[simp] theorem State.pcInitBody_sess (c j p : Nat) : (s.pcInitBody c j p).sess = s.sess := rfl
@[simp] theorem State.pcInitBody_ch (c j p : Nat) : (s.pcInitBody c j p).ch = s.ch := rfl
@[simp] theorem State.pcInitBody_dsdRate (c j p : Nat) : (s.pcInitBody c j p).dsdRate = s.dsdRate := rfl
@[simp] theorem State.pcInitBody_k (c j p : Nat) : (s.pcInitBody c j p).k = s.k := rfl
@[simp] theorem State.pcInitBody_pcmRate (c j p : Nat) : (s.pcInitBody c j p).pcmRate = s.pcmRate := rfl
@[simp] theorem State.pcInitBody_errCount (c j p : Nat) : (s.pcInitBody c j p).errCount = s.errCount := rfl
@[simp] theorem State.pcInitBody_warnThreshold (c j p : Nat) : (s.pcInitBody c j p).warnThreshold = s.warnThreshold := rfl
@[simp] theorem State.pcInitBody_slotSel (c j p : Nat) : (s.pcInitBody c j p).slotSel = s.slotSel := rfl
@[simp] theorem State.pcInitBody_ditherDepth (c j p : Nat) : (s.pcInitBody c j p).ditherDepth = s.ditherDepth := rfl
@[simp] theorem State.pcInitBody_ditherSeedLo (c j p : Nat) : (s.pcInitBody c j p).ditherSeedLo = s.ditherSeedLo := rfl
@[simp] theorem State.pcInitBody_ditherSeedHi (c j p : Nat) : (s.pcInitBody c j p).ditherSeedHi = s.ditherSeedHi := rfl
@[simp] theorem State.pcInitBody_silence (c j p : Nat) : (s.pcInitBody c j p).silence = s.silence := rfl
@[simp] theorem State.pcInitBody_lastError (c j p : Nat) : (s.pcInitBody c j p).lastError = s.lastError := rfl
@[simp] theorem State.pcInitBody_stuck (c j p : Nat) : (s.pcInitBody c j p).stuck = s.stuck := rfl
@[simp] theorem State.pcInitBody_slots (c j p : Nat) : (s.pcInitBody c j p).slots = s.slots := rfl
@[simp] theorem State.pcInitBody_pool (c j p : Nat) : (s.pcInitBody c j p).pool = s.pool := rfl
@[simp] theorem State.pcInitBody_fx (c j p : Nat) : (s.pcInitBody c j p).fx = s.fx := rfl
@[simp] theorem State.pcInitBody_pc (c j p : Nat) : (s.pcInitBody c j p).pc = s.pc.start c j p s.ditherSeed := rfl
@[simp] theorem State.pcInitBody_cmd (c j p : Nat) : (s.pcInitBody c j p).cmd = s.cmd := rfl
@[simp] theorem State.pcInitBody_din (c j p : Nat) : (s.pcInitBody c j p).din = s.din := rfl
@[simp] theorem State.pcInitBody_dout (c j p : Nat) : (s.pcInitBody c j p).dout = s.dout := rfl
@[simp] theorem State.pcInitBody_rsp (c j p : Nat) : (s.pcInitBody c j p).rsp = s.rsp := rfl
@[simp] theorem State.pcInitBody_rst (c j p : Nat) : (s.pcInitBody c j p).rst = s.rst := rfl
@[simp] theorem State.pcInitBody_medium (c j p : Nat) : (s.pcInitBody c j p).medium = s.medium := rfl
@[simp] theorem State.pcInitBody_mediumSize (c j p : Nat) : (s.pcInitBody c j p).mediumSize = s.mediumSize := rfl
@[simp] theorem State.pcInitBody_answers (c j p : Nat) : (s.pcInitBody c j p).answers = s.answers := rfl
@[simp] theorem State.pcInitBody_held (c j p : Nat) : (s.pcInitBody c j p).held = s.held := rfl
@[simp] theorem State.pcInitBody_turns (c j p : Nat) : (s.pcInitBody c j p).turns = s.turns := rfl

/-! ### `State.pcConvertBody` -/

@[simp] theorem State.pcConvertBody_sess (bs : List Byte) : (s.pcConvertBody bs).sess = s.sess := rfl
@[simp] theorem State.pcConvertBody_ch (bs : List Byte) : (s.pcConvertBody bs).ch = s.ch := rfl
@[simp] theorem State.pcConvertBody_dsdRate (bs : List Byte) : (s.pcConvertBody bs).dsdRate = s.dsdRate := rfl
@[simp] theorem State.pcConvertBody_k (bs : List Byte) : (s.pcConvertBody bs).k = s.k := rfl
@[simp] theorem State.pcConvertBody_pcmRate (bs : List Byte) : (s.pcConvertBody bs).pcmRate = s.pcmRate := rfl
@[simp] theorem State.pcConvertBody_errCount (bs : List Byte) : (s.pcConvertBody bs).errCount = s.errCount := rfl
@[simp] theorem State.pcConvertBody_warnThreshold (bs : List Byte) : (s.pcConvertBody bs).warnThreshold = s.warnThreshold := rfl
@[simp] theorem State.pcConvertBody_slotSel (bs : List Byte) : (s.pcConvertBody bs).slotSel = s.slotSel := rfl
@[simp] theorem State.pcConvertBody_ditherDepth (bs : List Byte) : (s.pcConvertBody bs).ditherDepth = s.ditherDepth := rfl
@[simp] theorem State.pcConvertBody_ditherSeedLo (bs : List Byte) : (s.pcConvertBody bs).ditherSeedLo = s.ditherSeedLo := rfl
@[simp] theorem State.pcConvertBody_ditherSeedHi (bs : List Byte) : (s.pcConvertBody bs).ditherSeedHi = s.ditherSeedHi := rfl
@[simp] theorem State.pcConvertBody_silence (bs : List Byte) : (s.pcConvertBody bs).silence = s.silence := rfl
@[simp] theorem State.pcConvertBody_lastError (bs : List Byte) : (s.pcConvertBody bs).lastError = s.lastError := rfl
@[simp] theorem State.pcConvertBody_stuck (bs : List Byte) : (s.pcConvertBody bs).stuck = s.stuck := rfl
@[simp] theorem State.pcConvertBody_slots (bs : List Byte) : (s.pcConvertBody bs).slots = s.slots := rfl
@[simp] theorem State.pcConvertBody_pool (bs : List Byte) : (s.pcConvertBody bs).pool = s.pool := rfl
@[simp] theorem State.pcConvertBody_fx (bs : List Byte) : (s.pcConvertBody bs).fx = s.fx := rfl
@[simp] theorem State.pcConvertBody_pc (bs : List Byte) : (s.pcConvertBody bs).pc = s.pc.convert s.ditherDepth bs := rfl
@[simp] theorem State.pcConvertBody_cmd (bs : List Byte) : (s.pcConvertBody bs).cmd = s.cmd := rfl
@[simp] theorem State.pcConvertBody_din (bs : List Byte) : (s.pcConvertBody bs).din = s.din := rfl
@[simp] theorem State.pcConvertBody_dout (bs : List Byte) : (s.pcConvertBody bs).dout = s.dout := rfl
@[simp] theorem State.pcConvertBody_rsp (bs : List Byte) : (s.pcConvertBody bs).rsp = s.rsp := rfl
@[simp] theorem State.pcConvertBody_rst (bs : List Byte) : (s.pcConvertBody bs).rst = s.rst := rfl
@[simp] theorem State.pcConvertBody_medium (bs : List Byte) : (s.pcConvertBody bs).medium = s.medium := rfl
@[simp] theorem State.pcConvertBody_mediumSize (bs : List Byte) : (s.pcConvertBody bs).mediumSize = s.mediumSize := rfl
@[simp] theorem State.pcConvertBody_answers (bs : List Byte) : (s.pcConvertBody bs).answers = s.answers := rfl
@[simp] theorem State.pcConvertBody_held (bs : List Byte) : (s.pcConvertBody bs).held = s.held := rfl
@[simp] theorem State.pcConvertBody_turns (bs : List Byte) : (s.pcConvertBody bs).turns = s.turns := rfl

/-! ### `State.toReset` -/

@[simp] theorem State.toReset_sess : (s.toReset).sess = State.reset.sess := rfl
@[simp] theorem State.toReset_ch : (s.toReset).ch = State.reset.ch := rfl
@[simp] theorem State.toReset_dsdRate : (s.toReset).dsdRate = State.reset.dsdRate := rfl
@[simp] theorem State.toReset_k : (s.toReset).k = State.reset.k := rfl
@[simp] theorem State.toReset_pcmRate : (s.toReset).pcmRate = State.reset.pcmRate := rfl
@[simp] theorem State.toReset_errCount : (s.toReset).errCount = State.reset.errCount := rfl
@[simp] theorem State.toReset_warnThreshold : (s.toReset).warnThreshold = State.reset.warnThreshold := rfl
@[simp] theorem State.toReset_slotSel : (s.toReset).slotSel = State.reset.slotSel := rfl
@[simp] theorem State.toReset_ditherDepth : (s.toReset).ditherDepth = State.reset.ditherDepth := rfl
@[simp] theorem State.toReset_ditherSeedLo : (s.toReset).ditherSeedLo = State.reset.ditherSeedLo := rfl
@[simp] theorem State.toReset_ditherSeedHi : (s.toReset).ditherSeedHi = State.reset.ditherSeedHi := rfl
@[simp] theorem State.toReset_silence : (s.toReset).silence = State.reset.silence := rfl
@[simp] theorem State.toReset_lastError : (s.toReset).lastError = State.reset.lastError := rfl
@[simp] theorem State.toReset_stuck : (s.toReset).stuck = State.reset.stuck := rfl
@[simp] theorem State.toReset_slots : (s.toReset).slots = State.reset.slots := rfl
@[simp] theorem State.toReset_pool : (s.toReset).pool = State.reset.pool := rfl
@[simp] theorem State.toReset_fx : (s.toReset).fx = State.reset.fx := rfl
@[simp] theorem State.toReset_pc : (s.toReset).pc = State.reset.pc := rfl
@[simp] theorem State.toReset_cmd : (s.toReset).cmd = s.cmd := rfl
@[simp] theorem State.toReset_din : (s.toReset).din = s.din := rfl
@[simp] theorem State.toReset_dout : (s.toReset).dout = s.dout := rfl
@[simp] theorem State.toReset_rsp : (s.toReset).rsp = s.rsp := rfl
@[simp] theorem State.toReset_rst : (s.toReset).rst = State.reset.rst := rfl
@[simp] theorem State.toReset_medium : (s.toReset).medium = s.medium := rfl
@[simp] theorem State.toReset_mediumSize : (s.toReset).mediumSize = s.mediumSize := rfl
@[simp] theorem State.toReset_answers : (s.toReset).answers = s.answers := rfl
@[simp] theorem State.toReset_held : (s.toReset).held = State.reset.held := rfl
@[simp] theorem State.toReset_turns : (s.toReset).turns = s.turns := rfl

end Sys2Proof.Machine
end

