-- ==== Sys2Proof/Laws/Ops.lean ====
section
/-! SUPPORT. What the shared operations can do, said once each: responses and exceptions, the gates in front of a
command, DIN, the slots, the medium. -/

namespace Sys2Proof.Machine

/-! ## Responses and exceptions -/

@[simp] theorem State.ok_eq (s : State) (v : Value) : s.ok v = .next (s.okWith v) := rfl

theorem val_toNat (n : Nat) : (val n).toNat = n % 2 ^ 64 := BitVec.toNat_ofNat n 64

theorem errorWord_val (e : Exc) (n : Nat) : errorWord e (val n).toNat = errorWord e n := by
  rw [val_toNat, errorWord, errorWord, Nat.mod_mod_of_dvd n (by decide)]

theorem Exc.code_lt (e : Exc) : e.code < 2 ^ 8 := by cases e <;> decide

/-- An exception is one response and `LAST_ERROR`, with the code of the exception. -/
@[simp] theorem State.fail_eq (s : State) (e : Exc) (n : Nat) :
    s.fail e (val n) = .next (s.refusedWith e.code n) := by
  simp only [State.fail, State.raise, errorWord_val]
  rfl

theorem State.finish_ok (s : State) (v : Value) (out : List Byte) :
    s.finish (.okOut v out) = .next (({ s with dout := s.dout ++ out } : State).okWith v) := rfl

theorem State.finish_fail (s : State) (e : Exc) (n : Nat) (out : List Byte) (h : e ≠ .ok) :
    s.finish { exc := e, value := val n, out := out } =
      .next (({ s with dout := s.dout ++ out } : State).refusedWith e.code n) := by
  rw [State.finish, if_neg h, State.fail_eq]
  rfl

/-- A command always completes as a next state when its body ends in a reply. -/
theorem State.finish_next (s : State) (r : Reply) : ∃ t, s.finish r = .next t := by
  unfold State.finish
  split <;> exact ⟨_, rfl⟩

/-! ## The gates in front of a command -/

theorem State.unlessOwned_track (s : State) (k : Out) (h : s.sess = .track) :
    s.unlessOwned k = .next (s.refusedWith 3 2) := by
  rw [State.unlessOwned, if_pos h]
  exact s.fail_eq .eState 2

theorem State.unlessOwned_free (s : State) (k : Out) (h : s.sess ≠ .track) : s.unlessOwned k = k := if_neg h

theorem State.withFreeSlot_free (s : State) (k : Slot → Out) (h : s.selected.slotState = .free) :
    s.withFreeSlot k = k s.selected := if_pos h

theorem State.withFreeSlot_used (s : State) (k : Slot → Out) (h : s.selected.slotState ≠ .free) :
    s.withFreeSlot k = .next (s.refusedWith 3 0) := by
  rw [State.withFreeSlot, if_neg h]
  exact s.fail_eq .eState 0

theorem State.withConverter_none (s : State) (k : Pc → Out) (h : s.pc.t = 0) :
    s.withConverter k = .next (s.refusedWith 3 0) := by
  rw [State.withConverter, if_pos h]
  exact s.fail_eq .eState 0

theorem State.withConverter_some (s : State) (k : Pc → Out) (h : s.pc.t ≠ 0) : s.withConverter k = k s.pc := if_neg h

theorem State.withTrack_some (s : State) (k : Out) (h : s.sess = .opened) (h' : s.fx.trackSelected = true) :
    s.withTrack k = k := if_neg (by simp [h, h'])

theorem State.withTrack_none (s : State) (k : Out) (h : ¬ (s.sess = .opened ∧ s.fx.trackSelected = true)) :
    s.withTrack k = .next (s.refusedWith 3 0) := by
  rw [State.withTrack, if_pos (by cases hb : s.fx.trackSelected <;> simp_all)]
  exact s.fail_eq .eState 0

theorem State.withContainer_none (s : State) (k : Out) (h : s.fx.kind = .none) :
    s.withContainer k = .next (s.refusedWith 3 0) := by
  rw [State.withContainer, if_pos h]
  exact s.fail_eq .eState 0

theorem State.withContainer_some (s : State) (k : Out) (h : s.fx.kind ≠ .none) : s.withContainer k = k := if_neg h

/-! ## DIN -/

theorem State.takeDin_short (s : State) (n : Nat) (i : Instr) (k : List Byte → State → Out) (h : s.din.length < n) :
    s.takeDin n i k = .next { s with held := some i } := if_pos h

theorem State.takeDin_full (s : State) (n : Nat) (i : Instr) (k : List Byte → State → Out) (h : n ≤ s.din.length) :
    s.takeDin n i k = k (s.din.take n) { s with din := s.din.drop n } := if_neg (Nat.not_lt.mpr h)

/-! ## Slots -/

@[simp] theorem slotAt_nil : ∀ k, slotAt [] k = Slot.reset
  | 0 => rfl
  | _ + 1 => rfl

@[simp] theorem slotAt_setSlotAt_same : ∀ (l : List Slot) (k : Nat) (v : Slot), slotAt (setSlotAt l k v) k = v
  | [], 0, _ => rfl
  | [], k + 1, v => slotAt_setSlotAt_same [] k v
  | _ :: _, 0, _ => rfl
  | _ :: l, k + 1, v => slotAt_setSlotAt_same l k v

theorem slotAt_setSlotAt_other : ∀ (l : List Slot) (k j : Nat) (v : Slot), j ≠ k →
    slotAt (setSlotAt l k v) j = slotAt l j
  | _, 0, 0, _, h => absurd rfl h
  | [], 0, j + 1, _, _ => slotAt_nil j
  | _ :: _, 0, _ + 1, _, _ => rfl
  | [], _ + 1, 0, _, _ => rfl
  | _ :: _, _ + 1, 0, _, _ => rfl
  | [], k + 1, j + 1, v, h => (slotAt_setSlotAt_other [] k j v (by omega)).trans (slotAt_nil j)
  | _ :: l, k + 1, j + 1, v, h => slotAt_setSlotAt_other l k j v (by omega)

theorem slotAt_setSlotAt (l : List Slot) (k j : Nat) (v : Slot) :
    slotAt (setSlotAt l k v) j = if j = k then v else slotAt l j := by
  split
  · next h => rw [h, slotAt_setSlotAt_same]
  · next h => exact slotAt_setSlotAt_other l k j v h

/-- Mapping a function that keeps a slot at its reset value maps every slot, listed or not. -/
theorem slotAt_map (f : Slot → Slot) (hf : f Slot.reset = Slot.reset) : ∀ (l : List Slot) (k : Nat),
    slotAt (l.map f) k = f (slotAt l k)
  | [], k => by rw [List.map_nil, slotAt_nil, hf]
  | _ :: _, 0 => rfl
  | _ :: l, k + 1 => slotAt_map f hf l k

/-- The slots after one was replaced: that one, and the others as they were. -/
theorem State.slot_setSlot (s : State) (k j : Nat) (v : Slot) :
    (s.setSlot k v).slot j = if j = k then v else s.slot j := slotAt_setSlotAt s.slots k j v

@[simp] theorem State.slot_setSlot_same (s : State) (k : Nat) (v : Slot) : (s.setSlot k v).slot k = v :=
  slotAt_setSlotAt_same s.slots k v

theorem State.slot_setSlot_other (s : State) (k j : Nat) (v : Slot) (h : j ≠ k) : (s.setSlot k v).slot j = s.slot j :=
  slotAt_setSlotAt_other s.slots k j v h

@[simp] theorem State.selected_setSelected (s : State) (v : Slot) : (s.setSelected v).selected = v :=
  s.slot_setSlot_same s.slotSel v

theorem setSlotAt_setSlotAt : ∀ (l : List Slot) (k : Nat) (v w : Slot),
    setSlotAt (setSlotAt l k v) k w = setSlotAt l k w
  | [], 0, _, _ => rfl
  | [], k + 1, v, w => congrArg (Slot.reset :: ·) (setSlotAt_setSlotAt [] k v w)
  | _ :: _, 0, _, _ => rfl
  | sl :: l, k + 1, v, w => congrArg (sl :: ·) (setSlotAt_setSlotAt l k v w)

/-- Replacing a slot twice is replacing it once. -/
@[simp] theorem State.setSlot_setSlot (s : State) (k : Nat) (v w : Slot) :
    (s.setSlot k v).setSlot k w = s.setSlot k w :=
  congrArg (fun l => ({ s with slots := l } : State)) (setSlotAt_setSlotAt s.slots k v w)

/-- A slot cleared at reset is at reset. -/
theorem Slot.cleared_reset : Slot.reset.cleared = Slot.reset := rfl

theorem State.stepped_reset (s : State) : s.stepped Slot.reset = Slot.reset := rfl

/-- Every slot after a wait for the decodes in flight (44_dst_pool.md R345). -/
theorem State.slot_drainBusy (s : State) (j : Nat) : s.drainBusy.slot j = s.stepped (s.slot j) :=
  slotAt_map s.stepped s.stepped_reset s.slots j

/-- Every slot after the ring was emptied (44_dst_pool.md R341). -/
theorem State.slot_clearRing (s : State) (ch j : Nat) : (s.clearRing ch).slot j = (s.slot j).cleared :=
  slotAt_map Slot.cleared Slot.cleared_reset s.slots j

/-! ## The medium (20_memory.md R106) -/

theorem State.length_mediumBytes (s : State) (off n : Nat) :
    (s.mediumBytes off n).length = min n (s.mediumSize.toNat - off) := Memory.length_run _ _ _

/-- A read gives at most the bytes asked for, and changes nothing but the answers still to come. -/
theorem State.mediumRead_spec (s : State) (off n : Nat) :
    (s.mediumRead off n).1.length ≤ n ∧
    ∃ m, (s.mediumRead off n).2 = { s with answers := s.answers.drop m } := by
  unfold State.mediumRead
  split
  · next h => exact ⟨by rw [State.length_mediumBytes]; omega, 0, by rw [List.drop_zero]⟩
  · next h => exact ⟨by rw [State.length_mediumBytes]; omega, 1, by rw [h]; rfl⟩
  · next h => exact ⟨by rw [List.length_take]; omega, 1, by rw [h]; rfl⟩

/-- A medium without a script answers with its own bytes. -/
theorem State.mediumRead_faithful (s : State) (off n : Nat) (h : s.answers = []) :
    s.mediumRead off n = (s.mediumBytes off n, s) := by
  unfold State.mediumRead
  rw [h]

/-! ## Counters and buffers -/

theorem satInc_toNat (c : Word) : (satInc c).toNat = min (c.toNat + 1) (2 ^ 32 - 1) := by
  unfold satInc
  split
  · next h => subst h; decide
  · next h =>
    have h1 : c.toNat ≠ 2 ^ 32 - 1 := fun e => h (BitVec.eq_of_toNat_eq (by rw [e]; decide))
    have h2 := c.isLt
    rw [BitVec.toNat_add, show (1 : BitVec 32).toNat = 1 from rfl]
    omega

/-- Saturating increment as arithmetic (10_state.md R54). -/
theorem satInc_eq (c : Word) : satInc c = BitVec.ofNat 32 (min (c.toNat + 1) (2 ^ 32 - 1)) := by
  apply BitVec.eq_of_toNat_eq
  rw [satInc_toNat, BitVec.toNat_ofNat, Nat.mod_eq_of_lt (by omega)]

@[simp] theorem length_bufTake : ∀ (n i : Nat) (l : List Byte), (bufTake n i l).length = n
  | 0, _, _ => rfl
  | n + 1, i, [] => congrArg (· + 1) (length_bufTake n (i + 1) [])
  | n + 1, i, _ :: l => congrArg (· + 1) (length_bufTake n (i + 1) l)

@[simp] theorem length_bufBytes (buf : List Byte) (i n : Nat) : (bufBytes buf i n).length = n := length_bufTake n i _

theorem bufTake_take : ∀ (n i : Nat) (l : List Byte), n ≤ l.length → bufTake n i l = l.take n
  | 0, _, _, _ => by simp [bufTake]
  | n + 1, i, [], h => by simp at h
  | n + 1, i, b :: l, h => by
    rw [bufTake, bufTake_take n (i + 1) l (by simpa using h), List.take_succ_cons]

/-- Bytes that were written read back. -/
theorem bufBytes_eq (buf : List Byte) (i n : Nat) (h : i + n ≤ buf.length) :
    bufBytes buf i n = (buf.drop i).take n := bufTake_take n i _ (by rw [List.length_drop]; omega)

theorem bufBytes_overwrite (old new : List Byte) : bufBytes (overwrite old new) 0 new.length = new := by
  rw [bufBytes_eq _ _ _ (by simp [overwrite])]
  simp [overwrite]

theorem bufTake_getD : ∀ (n i : Nat) (l : List Byte) (j : Nat), j < n →
    (bufTake n i l)[j]? = some (l.getD j (Config.unspecByte (i + j)))
  | 0, _, _, _, h => absurd h (Nat.not_lt_zero _)
  | n + 1, i, [], 0, _ => rfl
  | n + 1, i, b :: l, 0, _ => rfl
  | n + 1, i, [], j + 1, h => by
    rw [bufTake, List.getElem?_cons_succ, bufTake_getD n (i + 1) [] j (by omega)]
    simp only [List.getD_nil]
    congr 2
    omega
  | n + 1, i, b :: l, j + 1, h => by
    rw [bufTake, List.getElem?_cons_succ, bufTake_getD n (i + 1) l j (by omega), List.getD_cons_succ]
    congr 3
    omega

/-- Byte `j` of a run of a buffer is byte `i + j` of the buffer. -/
theorem getElem?_bufBytes (buf : List Byte) (i n j : Nat) (h : j < n) :
    (bufBytes buf i n)[j]? = some (bufByte buf (i + j)) := by
  rw [bufBytes, bufTake_getD n i _ j h]
  simp [bufByte, List.getD_eq_getElem?_getD, List.getElem?_drop]

@[simp] theorem length_overwrite {α : Type} (old new : List α) :
    (overwrite old new).length = max new.length old.length := by
  simp only [overwrite, List.length_append, List.length_drop]
  omega

@[simp] theorem length_leBytes : ∀ n v, (leBytes n v).length = n
  | 0, _ => rfl
  | n + 1, v => congrArg (· + 1) (length_leBytes n (v / 256))

end Sys2Proof.Machine
end

