-- ==== Sys2Proof/Laws/BitReader.lean ====
section
/-! SUPPORT. What the operations of the BitReader can do (40_bitreader.md): the values they read, that they move only the
cursor and the error flag, and that the cursor stays in the buffer. -/

namespace Sys2Proof.Machine

/-! ## The numbers that bits stand for -/

/-- Bits appended to a number: the number shifted, and the bits. -/
theorem streamBits_add (buf : List Byte) : ∀ n i v, streamBits buf n i v = v * 2 ^ n + streamBits buf n i 0
  | 0, _, v => by simp [streamBits]
  | n + 1, i, v => by
    rw [streamBits, streamBits, streamBits_add buf n (i + 1) (2 * v + _), streamBits_add buf n (i + 1) (2 * 0 + _)]
    rw [pow_succ]
    ring

/-- The first bit is the most significant (40_bitreader.md R202). -/
theorem streamBits_succ (buf : List Byte) (n i : Nat) :
    streamBits buf (n + 1) i 0 = (streamBit buf i).toNat * 2 ^ n + streamBits buf n (i + 1) 0 := by
  rw [streamBits, Nat.mul_zero, Nat.zero_add, streamBits_add]

theorem streamBits_lt (buf : List Byte) : ∀ n i, streamBits buf n i 0 < 2 ^ n
  | 0, _ => by simp [streamBits]
  | n + 1, i => by
    rw [streamBits_succ]
    have h := streamBits_lt buf n (i + 1)
    have hb : (streamBit buf i).toNat ≤ 1 := Bool.toNat_le _
    rw [pow_succ]
    nlinarith

theorem streamBits_one (buf : List Byte) (i : Nat) : streamBits buf 1 i 0 = (streamBit buf i).toNat := by
  simp [streamBits]

/-- `sext_n` of an `n`-bit value is the two's-complement value (00_scope.md R13). -/
theorem sext_eq_toInt (n v : Nat) (hn : 1 ≤ n) (hv : v < 2 ^ n) : sext n v = (BitVec.ofNat n v).toInt := by
  have h2 : 2 * 2 ^ (n - 1) = 2 ^ n := by rw [← pow_succ']; congr 1; omega
  rw [BitVec.toInt_eq_toNat_cond, BitVec.toNat_ofNat, Nat.mod_eq_of_lt hv, sext]
  split <;> split <;> first | rfl | omega

/-! ## What an operation leaves alone -/

/-- `b'` is `b` but for the cursor, which is in the buffer if it was, and the error flag, which sticks. -/
structure BitReader.Moved (b b' : BitReader) : Prop where
  inbuf : b'.inbuf = b.inbuf
  totalBits : b'.totalBits = b.totalBits
  pos_ge : b.pos ≤ b'.pos
  pos_le : b.pos ≤ b.totalBits → b'.pos ≤ b'.totalBits
  sticky : b.brErr = true → b'.brErr = true

theorem BitReader.Moved.refl (b : BitReader) : b.Moved b := ⟨rfl, rfl, le_refl _, id, id⟩

theorem BitReader.Moved.trans {a b c : BitReader} (h : a.Moved b) (h' : b.Moved c) : a.Moved c where
  inbuf := h'.inbuf.trans h.inbuf
  totalBits := h'.totalBits.trans h.totalBits
  pos_ge := h.pos_ge.trans h'.pos_ge
  pos_le hp := h'.pos_le (h.pos_le hp)
  sticky he := h'.sticky (h.sticky he)

theorem BitReader.markError_moved (b : BitReader) : b.Moved b.markError := ⟨rfl, rfl, le_refl _, id, fun _ => rfl⟩

/-! ## read_bits -/

theorem BitReader.readBits_ok (b : BitReader) (n : Nat) (he : b.brErr = false) (h : b.pos + n ≤ b.totalBits) :
    b.readBits n = (some (streamBits b.inbuf n b.pos 0), { b with pos := b.pos + n }) := by
  rw [BitReader.readBits, if_neg]
  simp [he, h]

theorem BitReader.readBits_fail (b : BitReader) (n : Nat) (h : b.brErr = true ∨ b.totalBits < b.pos + n) :
    b.readBits n = (none, b.markError) := by rw [BitReader.readBits, if_pos h]

/-- All that `read_bits(n)` can do (40_bitreader.md R200, R202). -/
theorem BitReader.readBits_cases (b : BitReader) (n : Nat) :
    (b.brErr = false ∧ b.pos + n ≤ b.totalBits ∧
      b.readBits n = (some (streamBits b.inbuf n b.pos 0), { b with pos := b.pos + n })) ∨
    ((b.brErr = true ∨ b.totalBits < b.pos + n) ∧ b.readBits n = (none, b.markError)) := by
  by_cases h : b.brErr = true ∨ b.totalBits < b.pos + n
  · exact .inr ⟨h, b.readBits_fail n h⟩
  · have he : b.brErr = false := by cases hb : b.brErr <;> simp_all
    have hp : b.pos + n ≤ b.totalBits := by omega
    exact .inl ⟨he, hp, b.readBits_ok n he hp⟩

theorem BitReader.readBits_moved (b : BitReader) (n : Nat) : b.Moved (b.readBits n).2 := by
  obtain ⟨_, hp, h⟩ | ⟨_, h⟩ := b.readBits_cases n <;> rw [h]
  · exact ⟨rfl, rfl, Nat.le_add_right _ _, fun _ => hp, id⟩
  · exact b.markError_moved

/-- A read that succeeds had no error before it and has none after. -/
theorem BitReader.readBits_noError (b : BitReader) (n v : Nat) (b' : BitReader) (h : b.readBits n = (some v, b')) :
    b.brErr = false ∧ b'.brErr = false ∧ v < 2 ^ n := by
  obtain ⟨he, _, h'⟩ | ⟨_, h'⟩ := b.readBits_cases n
  · rw [h'] at h
    cases h
    exact ⟨he, he, streamBits_lt _ _ _⟩
  · rw [h'] at h
    cases h

/-! ## read_signed and read_byte_aligned -/

/-- `read_signed(n)` is `read_bits(n)` with the value sign-extended (40_bitreader.md R204). -/
theorem BitReader.readSigned_eq (b : BitReader) (n : Nat) : b.readSigned n = (b.readBits n).map (Option.map (sext n)) id := by
  unfold BitReader.readSigned
  rcases hr : b.readBits n with ⟨_ | v, b'⟩ <;> rfl

theorem BitReader.readSigned_moved (b : BitReader) (n : Nat) : b.Moved (b.readSigned n).2 := by
  rw [b.readSigned_eq]
  exact b.readBits_moved n

theorem BitReader.pos_le_alignedPos (b : BitReader) : b.pos ≤ b.alignedPos := by
  unfold BitReader.alignedPos
  omega

theorem BitReader.readByteAligned_moved (b : BitReader) : b.Moved b.readByteAligned.2 := by
  have h := b.pos_le_alignedPos
  unfold BitReader.readByteAligned
  split
  · exact b.markError_moved
  · exact ⟨rfl, rfl, by dsimp only; omega, fun _ => by dsimp only; omega, id⟩

/-- `n` calls of `read_byte_aligned()`, one after the other, up to the first that fails. -/
def BitReader.readByteLoop : Nat → BitReader → Option (List Byte) × BitReader
  | 0, b => (some [], b)
  | n + 1, b =>
    match b.readByteAligned with
    | (none, b') => (none, b')
    | (some v, b') => ((BitReader.readByteLoop n b').1.map (v :: ·), (BitReader.readByteLoop n b').2)

theorem bufBytes_succ (buf : List Byte) (i n : Nat) : bufBytes buf i (n + 1) = bufByte buf i :: bufBytes buf (i + 1) n := by
  unfold bufBytes bufByte
  rcases h : buf.drop i with _ | ⟨v, rest⟩
  · have hl : buf.length ≤ i := List.drop_eq_nil_iff.mp h
    rw [List.drop_eq_nil_of_le (by omega : buf.length ≤ i + 1), List.getD_eq_default _ _ hl]
    rfl
  · have hl : i < buf.length := by
      by_contra hn
      rw [List.drop_eq_nil_of_le (by omega)] at h
      cases h
    rw [List.drop_eq_getElem_cons hl] at h
    obtain ⟨h1, h2⟩ := List.cons.inj h
    rw [List.getD_eq_getElem _ _ hl, bufTake, ← h2, h1]

/-- The run of aligned bytes of a plain frame is the loop of 43_dst_residual.md R301, from an aligned cursor. -/
theorem BitReader.readBytesAligned_eq_loop : ∀ (n : Nat) (b : BitReader), b.pos % 8 = 0 →
    b.readBytesAligned n = BitReader.readByteLoop n b
  | 0, b, _ => by simp [BitReader.readBytesAligned, BitReader.readByteLoop]
  | n + 1, b, h8 => by
    have ha : b.alignedPos = b.pos := by unfold BitReader.alignedPos; omega
    by_cases he : b.brErr = true
    · simp [BitReader.readBytesAligned, BitReader.readByteLoop, BitReader.readByteAligned, he]
      rw [BitReader.markError]
      cases b
      simp_all
    · obtain ⟨inbuf, totalBits, pos, brErr⟩ := b
      obtain rfl : brErr = false := by cases brErr <;> simp_all
      generalize hb : ({ inbuf := inbuf, totalBits := totalBits, pos := pos, brErr := false } : BitReader) = b at *
      have he' : b.brErr = false := by rw [← hb]
      have hset : ∀ p, ({ b with pos := p } : BitReader) = { b with pos := p, brErr := false } := by
        intro p
        rw [← hb]
      by_cases h1 : b.totalBits < b.pos + 8
      · have hn : ¬ b.pos + 8 * (n + 1) ≤ b.totalBits := by omega
        have hn' : ¬ b.pos + 8 ≤ b.totalBits := by omega
        simp [BitReader.readBytesAligned, BitReader.readByteLoop, BitReader.readByteAligned, he', ha, h1, hn, hn']
      · have hn' : b.pos + 8 ≤ b.totalBits := by omega
        have ih := BitReader.readBytesAligned_eq_loop n { b with pos := b.pos + 8 } (by dsimp only; omega)
        have ha' : ({ b with pos := b.pos + 8 } : BitReader).alignedPos = b.pos + 8 := by
          unfold BitReader.alignedPos
          dsimp only
          omega
        rw [BitReader.readByteLoop]
        simp only [BitReader.readByteAligned, he', ha, h1, or_self, if_false, Bool.false_eq_true]
        rw [← hset, ← ih]
        unfold BitReader.readBytesAligned
        rw [ha', ha]
        simp only [he', Bool.false_eq_true, if_false, Nat.add_eq_zero_iff, one_ne_zero, and_false]
        rcases Nat.eq_zero_or_pos n with hn0 | hn0
        · subst hn0
          have h0 : bufBytes b.inbuf (b.pos / 8) 1 = [bufByte b.inbuf (b.pos / 8)] := bufBytes_succ _ _ 0
          simp [hn', h0]
        · have hn0' : n ≠ 0 := by omega
          simp only [hn0', if_false]
          by_cases hall : b.pos + 8 * (n + 1) ≤ b.totalBits
          · have hall' : b.pos + 8 + 8 * n ≤ b.totalBits := by omega
            have hdiv : (b.pos + 8) / 8 = b.pos / 8 + 1 := by omega
            simp only [hall, hall', if_true, Option.map_some, bufBytes_succ, hdiv]
            congr 2
            omega
          · have hall' : ¬ b.pos + 8 + 8 * n ≤ b.totalBits := by omega
            simp only [hall, hall', hn', if_true, if_false]
            by_cases h2 : b.pos + 8 + 8 ≤ b.totalBits
            · simp only [h2, if_true]
              congr 2
              omega
            · simp only [h2, if_false, BitReader.markError]
              congr 2
              omega

/-! ## rice -/

theorem riceRun_moved : ∀ (fuel run : Nat) (b : BitReader), b.Moved (riceRun fuel run b).2
  | 0, _, b => b.markError_moved
  | fuel + 1, run, b => by
    have h := b.readBits_moved 1
    rw [riceRun]
    rcases hr : b.readBits 1 with ⟨_ | v, b'⟩ <;> rw [hr] at h
    · exact h
    · dsimp only
      split
      · exact h.trans (riceRun_moved fuel (run + 1) b')
      · exact h

theorem riceSign_moved (n : Nat) (b : BitReader) : b.Moved (riceSign n b).2 := by
  have h := b.readBits_moved 1
  rw [riceSign]
  split
  · exact BitReader.Moved.refl b
  · rcases hr : b.readBits 1 with ⟨_ | v, b'⟩ <;> rw [hr] at h <;> exact h

theorem BitReader.rice_moved (b : BitReader) (m : Nat) : b.Moved (b.rice m).2 := by
  have h := riceRun_moved (b.remaining + 1) 0 b
  rw [BitReader.rice]
  rcases hr : riceRun (b.remaining + 1) 0 b with ⟨_ | run, b'⟩ <;> rw [hr] at h
  · exact h
  · have h' := b'.readBits_moved m
    dsimp only
    rcases hl : b'.readBits m with ⟨_ | lsb, b''⟩ <;> rw [hl] at h'
    · exact h.trans h'
    · exact (h.trans h').trans (riceSign_moved _ b'')

/-! ## The commands -/

/-- How a read is answered: the slot changes in its BitReader alone. -/
theorem State.answerRead_some (s : State) (v : Value) (b : BitReader) :
    s.answerRead (some v, b) = .next ((s.setSlot s.slotSel { s.selected with br := b }).okWith v) := rfl

theorem State.answerRead_none (s : State) (b : BitReader) :
    s.answerRead (none, b) =
      .next ((s.setSlot s.slotSel { s.selected with br := b }).refusedWith 0x10 (b.totalBits - b.pos)) := by
  rw [State.answerRead]
  exact State.fail_eq _ .outOfData _

end Sys2Proof.Machine
end

