-- ==== Sys2Proof/Laws/Arith.lean ====
section
/-! SUPPORT. What the arithmetic decoder's operations can do (41_arith_decoder.md): the fields they leave alone, the
number that code bits stand for, and the bounds of the interval and of the quantizer. -/

namespace Sys2Proof.Machine

/-! ## Code bits -/

/-- One code bit shifted into `C`, as a number (41_arith_decoder.md R223). -/
theorem shiftIn_toNat (c : Word) (bit : Bool) (h : c.toNat < 2 ^ 31) :
    (shiftIn c bit).toNat = 2 * c.toNat + bit.toNat := by
  have hb : bit.toNat < 2 ^ 1 := by cases bit <;> decide
  rw [shiftIn, BitVec.toNat_or, BitVec.toNat_shiftLeft, BitVec.toNat_ofNat, Nat.mod_eq_of_lt (by rw [Nat.shiftLeft_eq]; omega),
    Nat.mod_eq_of_lt (by omega), ← Nat.shiftLeft_add_eq_or_of_lt hb, Nat.shiftLeft_eq]
  omega

/-- `n` code bits from code bit `i` on, as a number, the first most significant. -/
def codeNat (buf : List Byte) (ac : ArithDec) : Nat → Nat → Nat
  | 0, _ => 0
  | n + 1, i => (codeBit buf ac i).toNat * 2 ^ n + codeNat buf ac n (i + 1)

theorem codeNat_lt (buf : List Byte) (ac : ArithDec) : ∀ n i, codeNat buf ac n i < 2 ^ n
  | 0, _ => Nat.one_pos
  | n + 1, i => by
    have h := codeNat_lt buf ac n (i + 1)
    have hb : (codeBit buf ac i).toNat ≤ 1 := Bool.toNat_le _
    rw [codeNat, pow_succ]
    nlinarith

/-- Code bits shifted in one after the other, while `C` has room (41_arith_decoder.md R223, R226). -/
theorem loadCode_toNat (buf : List Byte) (ac : ArithDec) : ∀ (n i : Nat) (c : Word), (c.toNat + 1) * 2 ^ n ≤ 2 ^ 32 →
    (loadCode buf ac n i c).toNat = c.toNat * 2 ^ n + codeNat buf ac n i
  | 0, _, c, _ => by simp [loadCode, codeNat]
  | n + 1, i, c, h => by
    have h1 : (c.toNat + 1) * 2 ≤ 2 ^ 32 := by
      have : 1 ≤ 2 ^ n := Nat.one_le_two_pow
      rw [pow_succ] at h
      nlinarith
    have hb : (codeBit buf ac i).toNat ≤ 1 := Bool.toNat_le _
    have hs := shiftIn_toNat c (codeBit buf ac i) (by omega)
    have h2 : (2 * c.toNat + (codeBit buf ac i).toNat + 1) * 2 ^ n ≤ 2 ^ 32 := by
      rw [pow_succ] at h
      have : 0 < 2 ^ n := Nat.two_pow_pos n
      nlinarith
    rw [loadCode, loadCode_toNat buf ac n (i + 1) _ (by rw [hs]; exact h2), hs, codeNat, pow_succ]
    ring

/-! ## Fields left alone -/

@[simp] theorem ArithDec.ready_acBase (ac : ArithDec) (buf : List Byte) : (ac.ready buf).acBase = ac.acBase := by
  unfold ArithDec.ready
  split <;> rfl

@[simp] theorem ArithDec.ready_acLen (ac : ArithDec) (buf : List Byte) : (ac.ready buf).acLen = ac.acLen := by
  unfold ArithDec.ready
  split <;> rfl

@[simp] theorem ArithDec.ready_acInit (ac : ArithDec) (buf : List Byte) : (ac.ready buf).acInit = false := by
  unfold ArithDec.ready
  split
  · rfl
  · next h => exact Bool.eq_false_iff.mpr h

/-- A decoder that holds its interval is ready as it is; one that starts afresh loads 12 bits (41_arith_decoder.md
R224). -/
theorem ArithDec.ready_cases (ac : ArithDec) (buf : List Byte) :
    (ac.acInit = false ∧ ac.ready buf = ac) ∨
    (ac.acInit = true ∧ ac.ready buf =
      { ac with acInit := false, a := 4095, c := loadCode buf ac 12 1 0, cbptr := 13 }) := by
  unfold ArithDec.ready
  split
  · next h => exact .inr ⟨h, rfl⟩
  · next h => exact .inl ⟨Bool.eq_false_iff.mpr h, rfl⟩

/-! ## Renormalisation -/

theorem acHalf_toNat : acHalf.toNat = 2048 := rfl

theorem double_toNat (a : Word) (h : a.toNat < 2 ^ 31) : (a <<< 1).toNat = 2 * a.toNat := by
  rw [BitVec.toNat_shiftLeft, Nat.mod_eq_of_lt (by rw [Nat.shiftLeft_eq]; omega), Nat.shiftLeft_eq]
  omega

/-- All that the renormalisation loop does to a nonzero interval (41_arith_decoder.md R223): `n` doublings, the least
number that brings `A` to `HALF` or more, and as many code bits shifted into `C`. -/
theorem renormalise_spec (buf : List Byte) : ∀ (fuel : Nat) (ac : ArithDec), ac.a.toNat < 4096 →
    2048 ≤ ac.a.toNat * 2 ^ fuel → ac.cbptr + fuel < 2 ^ 24 → ∃ n, n ≤ fuel ∧ 2048 ≤ ac.a.toNat * 2 ^ n ∧
      ac.a.toNat * 2 ^ n < 4096 ∧ (n ≠ 0 → ac.a.toNat * 2 ^ (n - 1) < 2048) ∧
      renormalise buf fuel ac =
        { ac with
          a := BitVec.ofNat 32 (ac.a.toNat * 2 ^ n), c := loadCode buf ac n ac.cbptr ac.c, cbptr := ac.cbptr + n }
  | 0, ac, ha, hf, _ => ⟨0, le_refl _, hf, by simpa using ha, fun h => absurd rfl h, by simp [renormalise, loadCode]⟩
  | fuel + 1, ac, ha, hf, hp => by
    by_cases h : ac.a < acHalf
    · have hlt : ac.a.toNat < 2048 := by simpa [BitVec.lt_def, acHalf_toNat] using h
      have hd := double_toNat ac.a (by omega)
      have hw : fitWidth 24 (ac.cbptr + 1) = ac.cbptr + 1 := if_pos (by omega)
      obtain ⟨n, hn, h1, h2, h3, h4⟩ := renormalise_spec buf fuel
        { ac with a := ac.a <<< 1, c := shiftIn ac.c (codeBit buf ac ac.cbptr), cbptr := ac.cbptr + 1 }
        (by dsimp only; omega) (by dsimp only; rw [hd]; rw [pow_succ] at hf; nlinarith) (by dsimp only; omega)
      dsimp only at h1 h2 h3 h4
      rw [hd] at h1 h2 h3 h4
      have e : ∀ k, 2 * ac.a.toNat * 2 ^ k = ac.a.toNat * 2 ^ (k + 1) := fun k => by rw [pow_succ]; ring
      refine ⟨n + 1, by omega, by rw [← e]; exact h1, by rw [← e]; exact h2, fun _ => ?_, ?_⟩
      · rw [Nat.add_sub_cancel]
        rcases Nat.eq_zero_or_pos n with h0 | h0
        · rw [h0]; omega
        · have := h3 (by omega)
          rw [e, show n - 1 + 1 = n by omega] at this
          exact this
      · have hload : ∀ k i c, loadCode buf
            { ac with a := ac.a <<< 1, c := shiftIn ac.c (codeBit buf ac ac.cbptr), cbptr := ac.cbptr + 1 } k i c =
            loadCode buf ac k i c := by
          intro k
          induction k with
          | zero => intro i c; rfl
          | succ k ih => intro i c; exact ih (i + 1) _
        rw [renormalise, if_pos h, hw, h4, e, hload, loadCode, Nat.add_assoc, Nat.add_comm 1 n]
    · have hge : 2048 ≤ ac.a.toNat := by
        have := mt (fun h' : ac.a.toNat < 2048 => (BitVec.lt_def.mpr (by rw [acHalf_toNat]; exact h') : ac.a < acHalf)) h
        omega
      exact ⟨0, Nat.zero_le _, by simpa using hge, by simpa using ha, fun h => absurd rfl h, by simp [renormalise, h, loadCode]⟩

theorem renormalise_frame (buf : List Byte) : ∀ (fuel : Nat) (ac : ArithDec),
    (renormalise buf fuel ac).acBase = ac.acBase ∧ (renormalise buf fuel ac).acLen = ac.acLen ∧
    (renormalise buf fuel ac).acInit = ac.acInit
  | 0, _ => ⟨rfl, rfl, rfl⟩
  | fuel + 1, ac => by
    rw [renormalise]
    split
    · exact renormalise_frame buf fuel _
    · exact ⟨rfl, rfl, rfl⟩

/-- One decoded bit leaves the place of the code alone and the decoder holding its interval. -/
theorem ArithDec.decodeBit_frame (ac : ArithDec) (buf : List Byte) (p : Nat) :
    (ac.decodeBit buf p).2.acBase = ac.acBase ∧ (ac.decodeBit buf p).2.acLen = ac.acLen ∧
    (ac.decodeBit buf p).2.acInit = false := by
  unfold ArithDec.decodeBit
  dsimp only
  split
  · have h := renormalise_frame buf 11
      { ac.ready buf with
        c := (ac.ready buf).c - ((ac.ready buf).a - acStepUnit (ac.ready buf).a * BitVec.ofNat 32 p)
        a := acStepUnit (ac.ready buf).a * BitVec.ofNat 32 p }
    simpa using h
  · have h := renormalise_frame buf 11
      { ac.ready buf with a := (ac.ready buf).a - acStepUnit (ac.ready buf).a * BitVec.ofNat 32 p }
    simpa using h

/-! ## Flush and quantize -/

theorem flushScan_frame (buf : List Byte) : ∀ (n : Nat) (ac : ArithDec),
    (flushScan buf n ac).2 = { ac with cbptr := (flushScan buf n ac).2.cbptr }
  | 0, _ => rfl
  | n + 1, ac => by
    rw [flushScan]
    split
    · dsimp only
      split
      · rfl
      · rw [flushScan_frame buf n]
    · rfl

/-- The flush moves only the code pointer, and the next decode starts afresh (41_arith_decoder.md R225). -/
theorem ArithDec.flush_frame (ac : ArithDec) (buf : List Byte) :
    (ac.flush buf).2 = { ac with acInit := true, cbptr := (ac.flush buf).2.cbptr } := by
  unfold ArithDec.flush
  split
  · rfl
  · rw [flushScan_frame]

/-- The index is one of the table's (41_arith_decoder.md R228). -/
theorem quantize_lt (pred : Int) (len : Nat) (h : 1 ≤ len) : quantize pred len < len := by
  unfold quantize
  dsimp only
  split <;> omega

theorem quantize_eq (pred : Int) (len : Nat) (h : 1 ≤ len) : quantize pred len = min (pred.natAbs / 8) (len - 1) := by
  unfold quantize
  dsimp only
  rw [show 2 ^ Config.acQstep = 8 from rfl]
  split <;> omega

/-- The probability of the first decoded bit is 1 to 128 (41_arith_decoder.md R230). -/
theorem rev7p1_range (c : Int) : 1 ≤ rev7p1 c ∧ rev7p1 c ≤ 128 := by
  unfold rev7p1 rev7
  have := ((BitVec.ofNat 7 (c % 128).toNat).reverse).isLt
  omega

/-- `k = A / 256` rounded up to odd at bit 7: 8 to 15 for an interval of `HALF` or more (41_arith_decoder.md R223). -/
theorem acStepUnit_range (a : Word) (h1 : 2048 ≤ a.toNat) (h2 : a.toNat < 4096) :
    8 ≤ (acStepUnit a).toNat ∧ (acStepUnit a).toNat ≤ 15 ∧ (acStepUnit a).toNat = a.toNat / 256 ||| a.toNat / 128 % 2 := by
  have e : (acStepUnit a).toNat = a.toNat / 256 ||| a.toNat / 128 % 2 := by
    rw [acStepUnit, BitVec.toNat_or, BitVec.toNat_and, BitVec.toNat_ushiftRight, BitVec.toNat_ushiftRight,
      Nat.shiftRight_eq_div_pow, Nat.shiftRight_eq_div_pow, show (1 : BitVec 32).toNat = 1 from rfl, Nat.and_one_is_mod,
      Config.pbits_eq]
  have hlo : a.toNat / 256 ≤ a.toNat / 256 ||| a.toNat / 128 % 2 := Nat.left_le_or
  have hhi : a.toNat / 256 ||| a.toNat / 128 % 2 < 2 ^ 4 := Nat.or_lt_two_pow (by omega) (by omega)
  rw [e]
  omega

end Sys2Proof.Machine
end

