-- ==== Sys2Proof/Laws/Parse.lean ====
section
/-! SUPPORT. How the parts of a frame decode and of a container parse run: sequencing, checks and reads, and the lemma
that every part of a frame decode changes only what 43_dst_residual.md R300 lets it change. -/

namespace Sys2Proof.Machine

variable {ε σ α β : Type}

/-! ## Sequencing -/

/-- The state a run ends in, with a value or with an error. -/
def endState : EStateM.Result ε σ α → σ
  | .ok _ s => s
  | .error _ s => s

/-- A run of two parts ends with a value when both do. -/
theorem bind_eq_ok (p : EStateM ε σ α) (f : α → EStateM ε σ β) (s t : σ) (b : β) :
    (p >>= f) s = .ok b t ↔ ∃ a u, p s = .ok a u ∧ f a u = .ok b t := by
  show EStateM.bind p f s = _ ↔ _
  unfold EStateM.bind
  rcases p s with ⟨a, u⟩ | ⟨e, u⟩ <;> simp

/-- A run of two parts ends with an error when one does. -/
theorem bind_eq_error (p : EStateM ε σ α) (f : α → EStateM ε σ β) (s t : σ) (e : ε) :
    (p >>= f) s = .error e t ↔ p s = .error e t ∨ ∃ a u, p s = .ok a u ∧ f a u = .error e t := by
  show EStateM.bind p f s = _ ↔ _
  unfold EStateM.bind
  rcases p s with ⟨a, u⟩ | ⟨e, u⟩ <;> simp

/-- Every run of `p` ends in a state that `R` relates to the one it starts in. -/
def Runs (R : σ → σ → Prop) (p : EStateM ε σ α) : Prop := ∀ s, R s (endState (p s))

theorem Runs.pure {R : σ → σ → Prop} (hr : ∀ s, R s s) (a : α) : Runs R (pure a : EStateM ε σ α) := hr

theorem Runs.throw {R : σ → σ → Prop} (hr : ∀ s, R s s) (e : ε) : Runs R (throw e : EStateM ε σ α) := hr

theorem Runs.bind {R : σ → σ → Prop} (ht : ∀ s t u, R s t → R t u → R s u) {p : EStateM ε σ α}
    {f : α → EStateM ε σ β} (hp : Runs R p) (hf : ∀ a, Runs R (f a)) : Runs R (p >>= f) := by
  intro s
  show R s (endState (EStateM.bind p f s))
  unfold EStateM.bind
  have h := hp s
  rcases hs : p s with ⟨a, u⟩ | ⟨e, u⟩ <;> rw [hs] at h
  · exact ht _ _ _ h (hf a u)
  · exact h

theorem Runs.ite {R : σ → σ → Prop} {c : Prop} [Decidable c] {p q : EStateM ε σ α} (hp : Runs R p) (hq : Runs R q) :
    Runs R (if c then p else q) := by split <;> assumption

/-! ## The parts of a frame decode -/

/-- What a part of a frame decode leaves of the slot: its bookkeeping, and the buffer with the cursor inside it. -/
structure Slot.Kept (sl sl' : Slot) : Prop where
  slotState : sl'.slotState = sl.slotState
  slotSeq : sl'.slotSeq = sl.slotSeq
  slotKind : sl'.slotKind = sl.slotKind
  slotStatus : sl'.slotStatus = sl.slotStatus
  slotCause : sl'.slotCause = sl.slotCause
  outSize : sl'.outSize = sl.outSize
  br : sl.br.Moved sl'.br

theorem Slot.Kept.refl (sl : Slot) : sl.Kept sl := ⟨rfl, rfl, rfl, rfl, rfl, rfl, BitReader.Moved.refl _⟩

theorem Slot.Kept.trans (a b c : Slot) (h : a.Kept b) (h' : b.Kept c) : a.Kept c :=
  ⟨h'.slotState.trans h.slotState, h'.slotSeq.trans h.slotSeq, h'.slotKind.trans h.slotKind,
    h'.slotStatus.trans h.slotStatus, h'.slotCause.trans h.slotCause, h'.outSize.trans h.outSize, h.br.trans h'.br⟩

/-- A part of a frame decode changes only the BitReader's cursor, the decoders and the output. -/
abbrev Parse.Keeps (p : Parse α) : Prop := Runs Slot.Kept p

theorem Parse.keeps_pure (a : α) : (pure a : Parse α).Keeps := Runs.pure Slot.Kept.refl a

theorem Parse.keeps_throw (e : Cause) : (throw e : Parse α).Keeps := Runs.throw Slot.Kept.refl e

theorem Parse.Keeps.bind {p : Parse α} {f : α → Parse β} (hp : p.Keeps) (hf : ∀ a, (f a).Keeps) : (p >>= f).Keeps :=
  Runs.bind Slot.Kept.trans hp hf

/-- A BitReader operation that moves only the cursor (40_bitreader.md R200). -/
theorem Parse.keeps_read (f : BitReader → Option α × BitReader) (hf : ∀ b : BitReader, b.Moved (f b).2) :
    (Parse.read f).Keeps := by
  intro sl
  have h := hf sl.br
  unfold Parse.read
  rcases hr : f sl.br with ⟨_ | v, b⟩ <;> rw [hr] at h <;> exact ⟨rfl, rfl, rfl, rfl, rfl, rfl, h⟩

theorem Parse.keeps_bits (n : Nat) : (Parse.bits n).Keeps := Parse.keeps_read _ fun b => b.readBits_moved n

theorem Parse.keeps_signed (n : Nat) : (Parse.signed n).Keeps := Parse.keeps_read _ fun b => b.readSigned_moved n

theorem Parse.keeps_rice (m : Nat) : (Parse.rice m).Keeps := Parse.keeps_read _ fun b => b.rice_moved m

theorem Parse.keeps_check (ok : Bool) (cause : Cause) : (Parse.check ok cause).Keeps := by
  unfold Parse.check
  split
  · exact Parse.keeps_pure _
  · exact Parse.keeps_throw _

theorem Parse.keeps_setFd (f : FrameDec → FrameDec) : (Parse.setFd f).Keeps := fun _ =>
  ⟨rfl, rfl, rfl, rfl, rfl, rfl, BitReader.Moved.refl _⟩

theorem Parse.keeps_times {p : Parse α} (hp : p.Keeps) : ∀ n, (Parse.times p n).Keeps
  | 0 => Parse.keeps_pure _
  | n + 1 => hp.bind fun _ => (Parse.keeps_times hp n).bind fun _ => Parse.keeps_pure _

/-! ## The header (42_dst_header.md) -/

theorem segResolution_keeps (m : Nat) (r : SegRun) : (segResolution m r).Keeps := by
  unfold segResolution
  split
  · exact Parse.keeps_pure _
  · exact (Parse.keeps_bits _).bind fun _ => (Parse.keeps_check _ _).bind fun _ => Parse.keeps_pure _

theorem readOneSegment_keeps (fb minbits : Nat) (r : SegRun) : (readOneSegment fb minbits r).Keeps :=
  (Parse.keeps_check _ _).bind fun _ => (segResolution_keeps _ _).bind fun _ => (Parse.keeps_bits _).bind fun _ =>
    (Parse.keeps_check _ _).bind fun _ => Parse.keeps_pure _

theorem readChannelSegments_keeps (fb minbits : Nat) : ∀ fuel r, (readChannelSegments fb minbits fuel r).Keeps
  | 0, _ => Parse.keeps_throw _
  | fuel + 1, r => by
    refine (Parse.keeps_bits 1).bind fun eoc => ?_
    split
    · exact Parse.keeps_pure _
    · exact (readOneSegment_keeps fb minbits r).bind fun x => (readChannelSegments_keeps fb minbits fuel x.2).bind fun _ =>
        Parse.keeps_pure _

theorem readEachChannel_keeps (fb minbits : Nat) : ∀ n res, (readEachChannel fb minbits n res).Keeps
  | 0, _ => Parse.keeps_pure _
  | n + 1, _ => (readChannelSegments_keeps fb minbits _ _).bind fun x =>
    (readEachChannel_keeps fb minbits n x.2.resolution).bind fun _ => Parse.keeps_pure _

theorem readSegmentation_keeps (ch fb minbits : Nat) : (readSegmentation ch fb minbits).Keeps := by
  refine (Parse.keeps_bits 1).bind fun same => ?_
  split
  · exact (readChannelSegments_keeps fb minbits _ _).bind fun _ => Parse.keeps_pure _
  · exact (readEachChannel_keeps fb minbits ch none).bind fun _ => Parse.keeps_pure _

theorem readTableNumber_keeps (count : Nat) : (readTableNumber count).Keeps :=
  (Parse.keeps_bits _).bind fun _ => (Parse.keeps_check _ _).bind fun _ => Parse.keeps_pure _

theorem readTableNumbers_keeps : ∀ n count, (readTableNumbers n count).Keeps
  | 0, _ => Parse.keeps_pure _
  | n + 1, count => (readTableNumber_keeps count).bind fun x => (readTableNumbers_keeps n x.2).bind fun _ =>
    Parse.keeps_pure _

theorem readMapRows_keeps (sg : Segmentation) : ∀ n ch count, (readMapRows sg n ch count).Keeps
  | 0, _, _ => Parse.keeps_pure _
  | n + 1, ch, count => by
    rw [readMapRows]
    split
    · exact (readTableNumbers_keeps _ _).bind fun x => (Parse.keeps_pure (0 :: x.1, x.2)).bind fun y =>
        (readMapRows_keeps sg n (ch + 1) y.2).bind fun _ => Parse.keeps_pure _
    · exact (readTableNumbers_keeps _ _).bind fun x =>
        (readMapRows_keeps sg n (ch + 1) x.2).bind fun _ => Parse.keeps_pure _

theorem readMapping_keeps (ch : Nat) (sg : Segmentation) : (readMapping ch sg).Keeps := by
  refine (Parse.keeps_bits 1).bind fun same => ?_
  split
  · exact (readTableNumbers_keeps _ _).bind fun x => (Parse.keeps_check _ _).bind fun _ =>
      (Parse.keeps_pure (List.replicate ch (0 :: x.1), x.2)).bind fun _ => (Parse.keeps_check _ _).bind fun _ =>
        Parse.keeps_pure _
  · exact (readMapRows_keeps sg ch 0 1).bind fun _ => (Parse.keeps_check _ _).bind fun _ => Parse.keeps_pure _

theorem readRiceEntries_keeps (pred : List Int) (m : Nat) (lo hi : Int) (cause : Cause) :
    ∀ n newest, (readRiceEntries pred m lo hi cause n newest).Keeps
  | 0, _ => Parse.keeps_pure _
  | n + 1, _ => (Parse.keeps_rice m).bind fun _ => (Parse.keeps_check _ _).bind fun _ =>
    readRiceEntries_keeps pred m lo hi cause n _

theorem readRiceTable_keeps (preds : Nat → List Int) (first : Parse Int) (hf : first.Keeps) (lo hi : Int) (cause : Cause)
    (len : Nat) : (readRiceTable preds first lo hi cause len).Keeps :=
  (Parse.keeps_bits _).bind fun _ => (Parse.keeps_check _ _).bind fun _ => (Parse.keeps_check _ _).bind fun _ =>
    (Parse.keeps_times hf _).bind fun _ => (Parse.keeps_bits _).bind fun _ =>
      (readRiceEntries_keeps _ _ _ _ _ _ _).bind fun _ => Parse.keeps_pure _

theorem readFilter_keeps : readFilter.Keeps := by
  refine (Parse.keeps_bits _).bind fun order => (Parse.keeps_bits _).bind fun coded => ?_
  split
  · exact Parse.keeps_times (Parse.keeps_signed _) _
  · exact readRiceTable_keeps _ _ (Parse.keeps_signed _) _ _ _ _

theorem readPtableEntry_keeps : readPtableEntry.Keeps := (Parse.keeps_bits 7).bind fun _ => Parse.keeps_pure _

theorem readPtable_keeps : readPtable.Keeps := by
  refine (Parse.keeps_bits _).bind fun len => ?_
  split
  · exact Parse.keeps_pure _
  · refine (Parse.keeps_bits _).bind fun coded => ?_
    split
    · exact Parse.keeps_times readPtableEntry_keeps _
    · exact readRiceTable_keeps _ _ readPtableEntry_keeps _ _ _ _

theorem readPtableSegmentation_keeps (same ch fb : Nat) (fseg : Segmentation) :
    (readPtableSegmentation same ch fb fseg).Keeps := by
  unfold readPtableSegmentation
  split
  · exact Parse.keeps_pure _
  · exact readSegmentation_keeps _ _ _

theorem readPtableMapping_keeps (same ch : Nat) (fseg pseg : Segmentation) (fmap : List (List Nat) × Nat) :
    (readPtableMapping same ch fseg pseg fmap).Keeps := by
  unfold readPtableMapping
  split
  · exact (Parse.keeps_check _ _).bind fun _ => Parse.keeps_pure _
  · exact readMapping_keeps _ _

/-- The header changes only the cursor and the frame decoder's tables (42_dst_header.md R250). -/
theorem readHeader_keeps (ch fb : Nat) : (readHeader ch fb).Keeps :=
  (Parse.keeps_bits 1).bind fun _ => (readSegmentation_keeps _ _ _).bind fun _ => (Parse.keeps_setFd _).bind fun _ =>
    (readPtableSegmentation_keeps _ _ _ _).bind fun _ => (Parse.keeps_setFd _).bind fun _ => (Parse.keeps_bits 1).bind
      fun _ => (readMapping_keeps _ _).bind fun _ => (Parse.keeps_setFd _).bind fun _ =>
        (readPtableMapping_keeps _ _ _ _ _).bind fun _ => (Parse.keeps_setFd _).bind fun _ =>
          (Parse.keeps_times (Parse.keeps_bits 1) _).bind fun _ => (Parse.keeps_setFd _).bind fun _ =>
            (Parse.keeps_times readFilter_keeps _).bind fun _ => (Parse.keeps_setFd _).bind fun _ =>
              (Parse.keeps_times readPtable_keeps _).bind fun _ => Parse.keeps_setFd _

/-! ## The frame (43_dst_residual.md) -/

theorem BitReader.readBytesAligned_moved (b : BitReader) (n : Nat) : b.Moved (b.readBytesAligned n).2 := by
  have h := b.pos_le_alignedPos
  unfold BitReader.readBytesAligned
  split
  · exact BitReader.Moved.refl b
  · split
    · exact BitReader.Moved.refl b
    · split
      · exact ⟨rfl, rfl, by dsimp only; omega, fun _ => by dsimp only; omega, id⟩
      · split
        · exact ⟨rfl, rfl, by dsimp only; omega, fun _ => by dsimp only; omega, fun _ => rfl⟩
        · exact b.markError_moved

theorem plainFrame_keeps (ch fb : Nat) : (plainFrame ch fb).Keeps :=
  (Parse.keeps_bits 1).bind fun _ => (Parse.keeps_bits 6).bind fun _ => (Parse.keeps_check _ _).bind fun _ =>
    (Parse.keeps_read _ fun b => b.readBytesAligned_moved _).bind fun _ _ =>
      ⟨rfl, rfl, rfl, rfl, rfl, rfl, BitReader.Moved.refl _⟩

theorem startCode_keeps : startCode.Keeps := by
  refine Parse.Keeps.bind (p := modify Slot.acStart) (fun _ => ⟨rfl, rfl, rfl, rfl, rfl, rfl, BitReader.Moved.refl _⟩)
    fun _ => Parse.Keeps.bind (p := get) (fun _ => Slot.Kept.refl _) fun _ => Parse.keeps_check _ _

theorem terminate_keeps (ch fb : Nat) : (terminate ch fb).Keeps := by
  intro sl
  have h : sl.Kept { sl with ac := (sl.ac.flush sl.br.inbuf).2 } :=
    ⟨rfl, rfl, rfl, rfl, rfl, rfl, BitReader.Moved.refl _⟩
  exact Slot.Kept.trans _ _ _ h
    (((Parse.keeps_check _ _).bind fun _ => Parse.keeps_check _ _ :
      (Parse.check (sl.ac.flush sl.br.inbuf).1 .acTermination >>= fun _ =>
        Parse.check (sl.fd.nbitsDecoded = ch * (8 * fb)) .bitBudget : Parse Unit).Keeps) _)

theorem codedFrame_keeps (ch fb : Nat) : (codedFrame ch fb).Keeps :=
  (readHeader_keeps ch fb).bind fun _ => startCode_keeps.bind fun _ => (Parse.keeps_setFd _).bind fun _ =>
    Parse.Keeps.bind (p := decodeXBit) (fun _ => ⟨rfl, rfl, rfl, rfl, rfl, rfl, BitReader.Moved.refl _⟩) fun _ =>
      Parse.Keeps.bind (p := decodeAndReconstruct fb)
        (fun _ => ⟨rfl, rfl, rfl, rfl, rfl, rfl, BitReader.Moved.refl _⟩) fun _ => terminate_keeps ch fb

/-- The decode of a frame changes only the cursor, the decoders and the output (43_dst_residual.md R300). -/
theorem frameBody_keeps (ch fb : Nat) : (frameBody ch fb).Keeps := by
  refine (Parse.keeps_bits 1).bind fun coded => ?_
  split
  · exact plainFrame_keeps ch fb
  · exact codedFrame_keeps ch fb

end Sys2Proof.Machine
end

