-- ==== Sys2Proof/Laws/Fx.lean ====
section
/-! SUPPORT. What the frame extractor can change, said once for every reader: its own registers, the error counters, and
the answers of the medium it has used up (46_fx_files.md, 47_fx_sector.md). -/

namespace Sys2Proof.Machine

/-! ## The change an extractor operation can make -/

/-- `t` is `s` but for the extractor, the error counter, LAST_ERROR and the answers used up. -/
structure State.FxOnly (s t : State) : Prop where
  frame : t = { s with fx := t.fx, answers := t.answers, errCount := t.errCount, lastError := t.lastError }
  answers : ∃ n, t.answers = s.answers.drop n

theorem State.FxOnly.refl (s : State) : s.FxOnly s := ⟨rfl, 0, rfl⟩

theorem State.FxOnly.trans (s t u : State) (h : s.FxOnly t) (h' : t.FxOnly u) : s.FxOnly u where
  frame := by rw [h'.frame, h.frame]
  answers := by
    obtain ⟨n, hn⟩ := h.answers
    obtain ⟨m, hm⟩ := h'.answers
    exact ⟨n + m, by rw [hm, hn, List.drop_drop]⟩

theorem State.setFx_only (s : State) (fx : Fx) : s.FxOnly (s.setFx fx) := ⟨rfl, 0, rfl⟩

theorem State.mediumRead_only (s : State) (off n : Nat) : s.FxOnly (s.mediumRead off n).2 := by
  obtain ⟨_, m, h⟩ := s.mediumRead_spec off n
  rw [h]
  exact ⟨rfl, m, rfl⟩

/-- A read leaves the extractor alone. -/
theorem State.mediumRead_fx (s : State) (off n : Nat) : (s.mediumRead off n).2.fx = s.fx := by
  obtain ⟨_, m, h⟩ := s.mediumRead_spec off n
  rw [h]

theorem State.sectorRead_only (s : State) (lsn : Nat) : s.FxOnly (s.sectorRead lsn).2 := s.mediumRead_only _ _

theorem State.countBadRead_only (s : State) : s.FxOnly s.countBadRead := ⟨rfl, 0, rfl⟩

theorem State.invalidFrame_only (s : State) (e : Exc) (info : Nat) : s.FxOnly (s.invalidFrame e info).2 := ⟨rfl, 0, rfl⟩

theorem State.badFrame_only (s : State) (info : Nat) : s.FxOnly (s.badFrame info).2 := ⟨rfl, 0, rfl⟩

/-! ## Bad frames -/

/-- An `INVALID` frame is a full frame of zeros, counted once and recorded (46_fx_files.md R454, R489). -/
theorem State.invalidFrame_eq (s : State) (e : Exc) (info : Nat) :
    s.invalidFrame e info =
      (some { type := .invalid, bytes := List.replicate (s.fx.ch * s.fx.frameBytes) 0 },
       { s with errCount := satInc s.errCount, lastError := errorWord e info }) := rfl

/-- `FB` is the rate over 600 (46_fx_files.md R453). -/
theorem Fx.frameBytes_eq (fx : Fx) : fx.frameBytes = fx.rate / 600 := Config.frameBytes_eq fx.rate

/-! ## DSF -/

theorem State.dsfFetch_only (s : State) (g : Nat) : s.FxOnly (s.dsfFetch g) := by
  have h := s.mediumRead_only (s.fx.groupOffset g) (s.fx.ch * s.fx.dsf.blockSize)
  unfold State.dsfFetch
  split
  · exact State.FxOnly.refl s
  · dsimp only
    split
    · exact (h.trans _ _ _ (State.setFx_only _ _)).trans _ _ _ (State.countBadRead_only _)
    · exact h.trans _ _ _ (State.setFx_only _ _)

theorem State.dsfRead_only : ∀ (fuel n : Nat) (bad : Option Nat) (s : State),
    s.FxOnly (State.dsfRead fuel n bad s).2.2
  | 0, _, _, s => State.FxOnly.refl s
  | fuel + 1, n, bad, s => by
    rw [State.dsfRead]
    split
    · exact State.FxOnly.refl s
    · exact ((s.dsfFetch_only _).trans _ _ _ (State.setFx_only _ _)).trans _ _ _ (State.dsfRead_only fuel _ _ _)

theorem State.readDsf_only (s : State) : s.FxOnly s.readDsf.2 := by
  unfold State.readDsf
  split
  · exact State.FxOnly.refl s
  · dsimp only
    have h := State.dsfRead_only (min s.fx.frameBytes (s.fx.dsfTotal - s.fx.dsf.pos))
      (min s.fx.frameBytes (s.fx.dsfTotal - s.fx.dsf.pos)) none s
    split
    · next hr =>
      rw [hr] at h
      exact h.trans _ _ _ (State.invalidFrame_only _ _ _)
    · next hr =>
      rw [hr] at h
      exact h

/-! ## DSDIFF -/

theorem State.moveCursor_only (s : State) (p : Nat) : s.FxOnly (s.moveCursor p) := State.setFx_only _ _

theorem State.readDffDsd_only (s : State) : s.FxOnly s.readDffDsd.2 := by
  unfold State.readDffDsd
  split
  · exact State.FxOnly.refl s
  · dsimp only
    split
    · exact State.FxOnly.refl s
    · split
      · exact ((s.mediumRead_only _ _).trans _ _ _ (State.moveCursor_only _ _)).trans _ _ _ (State.badFrame_only _ _)
      · exact (s.mediumRead_only _ _).trans _ _ _ (State.moveCursor_only _ _)

theorem State.readDstBytes_only (s : State) (off n next : Nat) : s.FxOnly (s.readDstBytes off n next).2 := by
  unfold State.readDstBytes
  dsimp only
  split
  · exact ((s.mediumRead_only _ _).trans _ _ _ (State.moveCursor_only _ _)).trans _ _ _ (State.badFrame_only _ _)
  · exact (s.mediumRead_only _ _).trans _ _ _ (State.moveCursor_only _ _)

theorem State.readDffIndexed_only (s : State) : s.FxOnly s.readDffIndexed.2 := by
  unfold State.readDffIndexed
  split
  · exact State.FxOnly.refl s
  · dsimp only
    have h := s.mediumRead_only (s.fx.dff.dstiOff + 12 * s.fx.frameIndex) 12
    split
    · exact h.trans _ _ _ (State.badFrame_only _ _)
    · split
      · exact h.trans _ _ _ (State.invalidFrame_only _ _ _)
      · exact h.trans _ _ _ (State.readDstBytes_only _ _ _ _)

theorem State.readDffWalk_only : ∀ (fuel : Nat) (s : State), s.FxOnly (State.readDffWalk fuel s).2
  | 0, s => State.FxOnly.refl s
  | fuel + 1, s => by
    have h := s.mediumRead_only s.fx.cursor 12
    rw [State.readDffWalk]
    dsimp only
    split
    · exact State.FxOnly.refl s
    · split
      · exact (h.trans _ _ _ (State.badFrame_only _ _)).trans _ _ _ (State.setFx_only _ _)
      · split
        · split
          · exact (h.trans _ _ _ (State.moveCursor_only _ _)).trans _ _ _ (State.invalidFrame_only _ _ _)
          · exact h.trans _ _ _ (State.readDstBytes_only _ _ _ _)
        · exact (h.trans _ _ _ (State.moveCursor_only _ _)).trans _ _ _ (State.readDffWalk_only fuel _)

theorem State.readDff_only (s : State) : s.FxOnly s.readDff.2 := by
  unfold State.readDff
  split
  · exact s.readDffDsd_only
  · split
    · exact s.readDffIndexed_only
    · exact State.readDffWalk_only _ s

theorem State.skipFrames_only : ∀ (fuel n : Nat) (s : State), s.FxOnly (State.skipFrames fuel n s).2
  | 0, _, s => State.FxOnly.refl s
  | fuel + 1, n, s => by
    have h := s.mediumRead_only s.fx.cursor 12
    rw [State.skipFrames]
    dsimp only
    split
    · exact State.FxOnly.refl s
    · split
      · exact State.FxOnly.refl s
      · split
        · exact h
        · split
          · exact (h.trans _ _ _ (State.moveCursor_only _ _)).trans _ _ _ (State.skipFrames_only fuel _ _)
          · exact (h.trans _ _ _ (State.moveCursor_only _ _)).trans _ _ _ (State.skipFrames_only fuel _ _)

/-! ## Discs -/

theorem State.setSec_only (s : State) (sec : Sec) : s.FxOnly (s.setSec sec) := State.setFx_only _ _

theorem State.finishFrame_only (s : State) : s.FxOnly s.finishFrame.2 := by
  unfold State.finishFrame
  dsimp only
  split
  · exact (s.setSec_only _).trans _ _ _ (State.invalidFrame_only _ _ _)
  · exact s.setSec_only _

/-- What a turn of the sector loop leaves, whether it ends the call or goes on. -/
theorem State.fetchSector_only (s : State) :
    s.FxOnly s.fetchSector.2 ∧ ∀ r, s.fetchSector.1 = some r → s.FxOnly r.2 := by
  have h := s.sectorRead_only s.fx.sec.curLsn
  unfold State.fetchSector
  dsimp only
  split
  · refine ⟨(h.trans _ _ _ (State.setFx_only _ _)).trans _ _ _ (State.setSec_only _ _), fun r hr => ?_⟩
    cases hr
    exact ((h.trans _ _ _ (State.setFx_only _ _)).trans _ _ _ (State.setSec_only _ _)).trans _ _ _
      (State.badFrame_only _ _)
  · split
    · refine ⟨(h.trans _ _ _ (State.setFx_only _ _)).trans _ _ _ (State.setSec_only _ _), fun r hr => ?_⟩
      cases hr
      exact ((h.trans _ _ _ (State.setFx_only _ _)).trans _ _ _ (State.setSec_only _ _)).trans _ _ _
        (State.invalidFrame_only _ _ _)
    · exact ⟨(h.trans _ _ _ (State.setFx_only _ _)).trans _ _ _ (State.setSec_only _ _), fun r hr => by cases hr⟩

theorem State.takePacket_only (s : State) :
    s.FxOnly s.takePacket.2 ∧ ∀ r, s.takePacket.1 = some r → s.FxOnly r.2 := by
  unfold State.takePacket
  dsimp only
  split
  · exact ⟨s.setSec_only _, fun r hr => by cases hr⟩
  · split
    · refine ⟨State.FxOnly.refl s, fun r hr => ?_⟩
      cases hr
      exact s.finishFrame_only
    · split
      · exact ⟨s.setSec_only _, fun r hr => by cases hr⟩
      · split
        · refine ⟨s.setSec_only _, fun r hr => ?_⟩
          cases hr
          exact (s.setSec_only _).trans _ _ _ (State.invalidFrame_only _ _ _)
        · exact ⟨s.setSec_only _, fun r hr => by cases hr⟩

theorem State.endOfSectors_only (s : State) : s.FxOnly s.endOfSectors.2 := by
  unfold State.endOfSectors
  split
  · exact s.finishFrame_only
  · exact State.FxOnly.refl s

theorem State.sectorLoop_only : ∀ (fuel : Nat) (s : State), s.FxOnly (State.sectorLoop fuel s).2
  | 0, s => State.FxOnly.refl s
  | fuel + 1, s => by
    have hf := s.fetchSector_only
    have ht := s.takePacket_only
    rw [State.sectorLoop]
    split
    · split
      · exact s.endOfSectors_only
      · split
        · next r _ hr => exact hf.2 r (by rw [hr])
        · next t hr =>
          rw [hr] at hf
          exact hf.1.trans _ _ _ (State.sectorLoop_only fuel t)
    · split
      · next r _ hr => exact ht.2 r (by rw [hr])
      · next t hr =>
        rw [hr] at ht
        exact ht.1.trans _ _ _ (State.sectorLoop_only fuel t)

/-! ## Frames and seeks, whatever the container -/

theorem State.readKind_only (s : State) : s.FxOnly s.readKind.2 := by
  unfold State.readKind
  split
  · exact State.FxOnly.refl s
  · exact State.sectorLoop_only _ s
  · exact s.readDff_only
  · exact s.readDsf_only

/-- All that `read_frame` can change (46_fx_files.md R451). -/
theorem State.readFrameBody_only (s : State) : s.FxOnly s.readFrameBody.2 := by
  unfold State.readFrameBody
  split
  · exact State.FxOnly.refl s
  · have h := s.readKind_only
    split
    · next hr =>
      rw [hr] at h
      exact h.trans _ _ _ (State.setFx_only _ _)
    · next hr =>
      rw [hr] at h
      exact h.trans _ _ _ (State.setFx_only _ _)

/-- After the end of the track nothing is read (46_fx_files.md R451). -/
theorem State.readFrameBody_ended (s : State) (h : s.fx.eot = true) : s.readFrameBody = (none, s) := if_pos h

theorem State.seekKind_only (s : State) (frame : Nat) : s.FxOnly (s.seekKind frame).2 := by
  unfold State.seekKind
  split
  · exact State.FxOnly.refl s
  · dsimp only
    unfold State.seekSector
    split
    · exact s.setFx_only _
    · exact State.FxOnly.refl s
  · unfold State.seekDff
    split
    · exact State.FxOnly.refl s
    · split
      · exact s.moveCursor_only _
      · split
        · exact State.FxOnly.refl s
        · dsimp only
          have h := (s.moveCursor_only s.fx.dataStart).trans _ _ _
            (State.skipFrames_only (s.fx.dataEnd - s.fx.dataStart + 1) frame _)
          split
          · exact h
          · exact h.trans _ _ _ (State.moveCursor_only _ _)
  · dsimp only
    unfold State.seekDsf
    split
    · exact State.FxOnly.refl s
    · exact s.setFx_only _

theorem State.readTrackList_only (s : State) (track : Nat) (area : AreaOperand) :
    s.FxOnly (s.readTrackList track area).2 := by
  unfold State.readTrackList
  split
  · dsimp only
    split
    · exact s.sectorRead_only _
    · exact s.sectorRead_only _
  · exact State.FxOnly.refl s

/-- Reading the track list leaves the extractor alone (47_fx_sector.md R506). -/
theorem State.readTrackList_fx (s : State) (track : Nat) (area : AreaOperand) :
    (s.readTrackList track area).2.fx = s.fx := by
  unfold State.readTrackList
  split
  · dsimp only
    split
    · exact s.mediumRead_fx _ _
    · exact s.mediumRead_fx _ _
  · rfl

/-! ## The parse of a container -/

/-- A part of the parse changes only the extractor, and uses up answers. -/
abbrev Scan.Only {α : Type} (p : Scan α) : Prop := Runs State.FxOnly p

theorem Scan.only_pure {α : Type} (a : α) : (pure a : Scan α).Only := Runs.pure State.FxOnly.refl a

theorem Scan.only_throw {α : Type} (e : OpenError) : (throw e : Scan α).Only := Runs.throw State.FxOnly.refl e

theorem Scan.Only.bind {α β : Type} {p : Scan α} {f : α → Scan β} (hp : p.Only) (hf : ∀ a, (f a).Only) :
    (p >>= f).Only := Runs.bind State.FxOnly.trans hp hf

theorem Scan.only_read (off n : Nat) : (Scan.read off n).Only := fun s => s.mediumRead_only off n

theorem Scan.only_sector (lsn : Nat) : (Scan.sector lsn).Only := fun s => s.sectorRead_only lsn

theorem Scan.only_mediumSize : Scan.mediumSize.Only := State.FxOnly.refl

theorem Scan.only_setFx (f : Fx → Fx) : (Scan.setFx f).Only := fun s => s.setFx_only (f s.fx)

theorem Scan.only_corrupt {α : Type} (info : Nat) : (Scan.corrupt info : Scan α).Only := Scan.only_throw _

theorem Scan.only_check (ok : Bool) (info : Nat) : (Scan.check ok info).Only := by
  unfold Scan.check
  split
  · exact Scan.only_pure _
  · exact Scan.only_corrupt _

theorem Scan.only_checks : ∀ cs, (Scan.checks cs).Only
  | [] => Scan.only_pure _
  | _ :: cs => (Scan.only_check _ _).bind fun _ => Scan.only_checks cs

theorem Scan.only_need (off n : Nat) : (Scan.need off n).Only :=
  (Scan.only_read off n).bind fun _ => (Scan.only_check _ _).bind fun _ => Scan.only_pure _

theorem Scan.only_chunk (p stop : Nat) : (Scan.chunk p stop).Only :=
  (Scan.only_need p 12).bind fun _ => (Scan.only_check _ _).bind fun _ => Scan.only_pure _

theorem Scan.only_chunkData (c : Chunk) (p n : Nat) : (Scan.chunkData c p n).Only :=
  (Scan.only_check _ _).bind fun _ => Scan.only_need _ _

theorem Scan.only_walk {α : Type} (f : Nat → Chunk → α → Scan α) (hf : ∀ p c a, (f p c a).Only) (stop : Nat) :
    ∀ fuel p acc, (Scan.walk f stop fuel p acc).Only
  | 0, _, _ => Scan.only_pure _
  | fuel + 1, p, acc => by
    rw [Scan.walk]
    split
    · exact (Scan.only_chunk p stop).bind fun _ => (hf _ _ _).bind fun _ => Scan.only_walk f hf stop fuel _ _
    · exact Scan.only_pure _

theorem scanProperty_only (p : Nat) (c : Chunk) (a : DffScan) : (scanProperty p c a).Only := by
  have h : ∀ n (g : List Byte → Bool) (k : List Byte → DffScan),
      (Scan.chunkData c p n >>= fun bs => Scan.check (g bs) (p + 12) >>= fun _ => pure (k bs) : Scan DffScan).Only :=
    fun n g k => (Scan.only_chunkData c p n).bind fun _ => (Scan.only_check _ _).bind fun _ => Scan.only_pure _
  unfold scanProperty
  split
  · exact h _ _ _
  · split
    · exact h _ _ _
    · split
      · exact h _ _ _
      · exact Scan.only_pure _

theorem scanForm_only (p : Nat) (c : Chunk) (a : DffScan) : (scanForm p c a).Only := by
  unfold scanForm
  split
  · exact (Scan.only_chunkData c p 4).bind fun _ => (Scan.only_check _ _).bind fun _ => Scan.only_pure _
  · split
    · exact (Scan.only_chunkData c p 4).bind fun _ => (Scan.only_check _ _).bind fun _ =>
        Scan.only_walk _ scanProperty_only _ _ _ _
    · split
      · exact Scan.only_pure _
      · split
        · exact (Scan.only_check _ _).bind fun _ => (Scan.only_chunk _ _).bind fun _ => (Scan.only_check _ _).bind fun _ =>
            (Scan.only_chunkData _ _ _).bind fun _ => (Scan.only_check _ _).bind fun _ => Scan.only_pure _
        · split
          · exact Scan.only_pure _
          · exact Scan.only_pure _

theorem finishDff_only (a : DffScan) : (finishDff a).Only := by
  unfold finishDff
  split
  · split
    · split
      · exact Scan.only_setFx _
      · exact Scan.only_corrupt _
    · exact Scan.only_corrupt _
  · exact Scan.only_corrupt _

theorem openDff_only : openDff.Only :=
  (Scan.only_read 0 16).bind fun _ => (Scan.only_check _ _).bind fun _ => Scan.only_mediumSize.bind fun _ =>
    (Scan.only_walk _ scanForm_only _ _ _ _).bind fun _ => finishDff_only _

theorem openDsf_only : openDsf.Only := by
  refine (Scan.only_read 0 92).bind fun hd => ?_
  have h : (Scan.mediumSize >>= fun size => Scan.checks (dsfHeaderChecks hd size) >>= fun _ =>
      Scan.setFx fun fx => fx.openedDsf hd : Scan Unit).Only :=
    Scan.only_mediumSize.bind fun _ => (Scan.only_checks _).bind fun _ => Scan.only_setFx _
  dsimp only
  split
  · exact (Scan.only_throw _).bind fun _ => h
  · exact (Scan.only_pure ()).bind fun _ => h

theorem scanTrackList_only (areaLsn : Nat) : ∀ n lsn, (scanTrackList areaLsn n lsn).Only
  | 0, _ => (Scan.only_check _ _).bind fun _ => Scan.only_pure _
  | n + 1, lsn => by
    refine (Scan.only_sector lsn).bind fun _ => (Scan.only_check _ _).bind fun _ => ?_
    split
    · exact Scan.only_pure _
    · exact scanTrackList_only areaLsn n _

theorem parseAreaAt_only (magic : List Byte) (lsn n : Nat) : (parseAreaAt magic lsn n).Only := by
  unfold parseAreaAt
  split
  · exact Scan.only_pure _
  · exact (Scan.only_check _ _).bind fun _ => (Scan.only_sector _).bind fun _ => (Scan.only_check _ _).bind fun _ =>
      (Scan.only_check _ _).bind fun _ => (Scan.only_check _ _).bind fun _ => (Scan.only_check _ _).bind fun _ =>
        (Scan.only_check _ _).bind fun _ => (scanTrackList_only _ _ _).bind fun _ => Scan.only_pure _

theorem openSector_only (psn : Bool) : (openSector psn).Only :=
  (Scan.only_setFx _).bind fun _ => (Scan.only_sector _).bind fun _ => (Scan.only_check _ _).bind fun _ =>
    (Scan.only_check _ _).bind fun _ => (Scan.only_check _ _).bind fun _ => (parseAreaAt_only _ _ _).bind fun _ =>
      (parseAreaAt_only _ _ _).bind fun _ => Scan.only_setFx _

/-- All that the parse of a container can change (46_fx_files.md R462). -/
theorem fxOpen_only (kind : KindOperand) : (fxOpen kind).Only := by
  refine (Scan.only_read 0 4).bind fun m4 => ?_
  split
  · exact openDff_only
  · split
    · exact openDsf_only
    · split
      · refine (Scan.only_read _ 8).bind fun m => ?_
        split
        · exact openSector_only false
        · refine (Scan.only_read _ 8).bind fun m' => ?_
          split
          · exact openSector_only true
          · exact Scan.only_throw _
      · exact Scan.only_throw _

end Sys2Proof.Machine
end

