-- ==== Sys2Proof/Laws/Pcm.lean ====
section
/-! SUPPORT. What a conversion can change (45_dsd_pcm.md R385 to R396): the mode stays, the counts follow the sample-count
law, and as many values are gathered as samples are produced. -/

namespace Sys2Proof.Machine

/-! ## The mode stays -/

/-- `q` is `p` but for what a conversion changes. -/
def Pc.SameMode (p q : Pc) : Prop :=
  q = { p with
    hist := q.hist, rxCount := q.rxCount, outCount := q.outCount, lcg := q.lcg, convertCalled := q.convertCalled
    pcmBuf := q.pcmBuf, pcmN := q.pcmN }

theorem Pc.SameMode.refl (p : Pc) : p.SameMode p := rfl

theorem Pc.SameMode.trans {p q r : Pc} (h : p.SameMode q) (h' : q.SameMode r) : p.SameMode r := by
  unfold Pc.SameMode at *
  rw [h', h]

theorem Pc.SameMode.ch {p q : Pc} (h : p.SameMode q) : q.ch = p.ch := by rw [h]
theorem Pc.SameMode.t {p q : Pc} (h : p.SameMode q) : q.t = p.t := by rw [h]
theorem Pc.SameMode.d {p q : Pc} (h : p.SameMode q) : q.d = p.d := by rw [h]
theorem Pc.SameMode.u {p q : Pc} (h : p.SameMode q) : q.u = p.u := by rw [h]
theorem Pc.SameMode.h {p q : Pc} (h' : p.SameMode q) : q.h = p.h := by rw [h']

/-! ## One row of samples -/

/-- A row has one sample for every channel (45_dsd_pcm.md R390). -/
theorem Pc.length_sampleRow (pc : Pc) (depth : Nat) : ∀ (hists : List (List Bool)) (lcg : Word),
    (pc.sampleRow depth hists lcg).1.length = hists.length
  | [], _ => rfl
  | _ :: hists, _ => congrArg (· + 1) (Pc.length_sampleRow pc depth hists _)

/-! ## The samples that are due -/

theorem Pc.emitSamples_mode (depth : Nat) : ∀ (n : Nat) (pc : Pc) (out : List F32),
    pc.SameMode (Pc.emitSamples depth n pc out).1
  | 0, pc, _ => Pc.SameMode.refl pc
  | n + 1, pc, _ =>
    Pc.SameMode.trans (p := pc)
      (q := { pc with
        lcg := (pc.sampleRow depth pc.hist pc.lcg).2, pcmN := pc.pcmN + 1, outCount := pc.outCount + 1 }) rfl
      (Pc.emitSamples_mode depth n _ _)

/-- All that the output loop does to the counts (45_dsd_pcm.md R390). -/
theorem Pc.emitSamples_counts (depth : Nat) : ∀ (n : Nat) (pc : Pc) (out : List F32),
    (Pc.emitSamples depth n pc out).1.hist = pc.hist ∧ (Pc.emitSamples depth n pc out).1.rxCount = pc.rxCount ∧
    (Pc.emitSamples depth n pc out).1.convertCalled = pc.convertCalled ∧
    (Pc.emitSamples depth n pc out).1.pcmBuf = pc.pcmBuf ∧
    (Pc.emitSamples depth n pc out).1.outCount = pc.outCount + n ∧
    (Pc.emitSamples depth n pc out).1.pcmN = pc.pcmN + n ∧
    (Pc.emitSamples depth n pc out).2.length = out.length + n * pc.hist.length
  | 0, _, _ => ⟨rfl, rfl, rfl, rfl, rfl, rfl, by simp [Pc.emitSamples]⟩
  | n + 1, pc, out => by
    have h := Pc.emitSamples_counts depth n
      { pc with lcg := (pc.sampleRow depth pc.hist pc.lcg).2, pcmN := pc.pcmN + 1, outCount := pc.outCount + 1 }
      ((pc.sampleRow depth pc.hist pc.lcg).1.reverse ++ out)
    obtain ⟨h1, h2, h3, h4, h5, h6, h7⟩ := h
    refine ⟨h1, h2, h3, h4, ?_, ?_, ?_⟩
    · rw [Pc.emitSamples]
      exact h5.trans (by dsimp only; omega)
    · rw [Pc.emitSamples]
      exact h6.trans (by dsimp only; omega)
    · rw [Pc.emitSamples]
      refine h7.trans ?_
      rw [List.length_append, List.length_reverse, Pc.length_sampleRow]
      dsimp only
      ring

/-! ## Input bits -/

theorem Pc.feedBits_mode (depth : Nat) (row : List Bool) (pc : Pc) (out : List F32) :
    pc.SameMode (pc.feedBits depth row out).1 :=
  Pc.SameMode.trans (p := pc)
    (q := { pc with hist := List.zipWith List.cons row pc.hist, rxCount := pc.rxCount + 1 }) rfl
    (Pc.emitSamples_mode depth _ _ _)

/-- One input bit of every channel: every history grows by its bit, and every sample that is due is produced
(45_dsd_pcm.md R386, R391). -/
theorem Pc.feedBits_counts (depth : Nat) (row : List Bool) (pc : Pc) (out : List F32)
    (h : pc.outCount ≤ (pc.rxCount + 1) * pc.u / pc.d) :
    (pc.feedBits depth row out).1.hist = List.zipWith List.cons row pc.hist ∧
    (pc.feedBits depth row out).1.rxCount = pc.rxCount + 1 ∧
    (pc.feedBits depth row out).1.outCount = (pc.rxCount + 1) * pc.u / pc.d ∧
    (pc.feedBits depth row out).1.pcmN + pc.outCount = pc.pcmN + (pc.rxCount + 1) * pc.u / pc.d ∧
    (pc.feedBits depth row out).1.convertCalled = pc.convertCalled ∧
    (pc.feedBits depth row out).1.pcmBuf = pc.pcmBuf := by
  obtain ⟨h1, h2, h3, h4, h5, h6, _⟩ := Pc.emitSamples_counts depth
    ((pc.rxCount + 1) * pc.u / pc.d - pc.outCount)
    { pc with hist := List.zipWith List.cons row pc.hist, rxCount := pc.rxCount + 1 } out
  refine ⟨h1, h2, h5.trans ?_, ?_, h3, h4⟩
  · dsimp only
    omega
  · have h6' : (pc.feedBits depth row out).1.pcmN = pc.pcmN + ((pc.rxCount + 1) * pc.u / pc.d - pc.outCount) := h6
    omega

theorem Pc.feedByteRow_mode (depth : Nat) (row : List Byte) : ∀ (n k : Nat) (pc : Pc) (out : List F32),
    pc.SameMode (Pc.feedByteRow depth row n k pc out).1
  | 0, _, pc, _ => Pc.SameMode.refl pc
  | n + 1, k, pc, out => (pc.feedBits_mode depth _ out).trans (Pc.feedByteRow_mode depth row n (k + 1) _ _)

theorem Pc.feedBytes_mode (depth : Nat) : ∀ (n : Nat) (bytes : List Byte) (pc : Pc) (out : List F32),
    pc.SameMode (Pc.feedBytes depth n bytes pc out).1
  | 0, _, pc, _ => Pc.SameMode.refl pc
  | n + 1, bytes, pc, out => by
    have h := Pc.feedByteRow_mode depth (bytes.take pc.ch) 8 0 pc out
    rw [Pc.feedBytes]
    generalize Pc.feedByteRow depth (bytes.take pc.ch) 8 0 pc out = r at h ⊢
    exact h.trans (Pc.feedBytes_mode depth n (bytes.drop pc.ch) r.1 r.2)

/-- A conversion keeps the mode, the coefficient table and the delays (45_dsd_pcm.md R390). -/
theorem Pc.convert_mode (pc : Pc) (depth : Nat) (bytes : List Byte) : pc.SameMode (pc.convert depth bytes) := by
  have h := Pc.SameMode.trans (p := pc)
    (q := { pc with pcmN := 0, convertCalled := pc.convertCalled || bytes.length / pc.ch ≠ 0 }) rfl
    (Pc.feedBytes_mode depth (bytes.length / pc.ch) bytes _ [])
  exact h.trans rfl

/-! ## Fading and output -/

/-- A fade changes the values in PCMBUF alone (45_dsd_pcm.md R410). -/
theorem Pc.degibbs_frame (pc : Pc) (start n : Nat) (side : Bool) :
    (pc.degibbs start n side).2 = { pc with pcmBuf := (pc.degibbs start n side).2.pcmBuf } ∧
    (pc.degibbs start n side).2.pcmBuf.length = pc.pcmBuf.length := by
  unfold Pc.degibbs
  split
  · exact ⟨rfl, rfl⟩
  · exact ⟨rfl, List.length_mapIdx⟩

@[simp] theorem length_sampleTake : ∀ (n i : Nat) (l : List F32), (sampleTake n i l).length = n
  | 0, _, _ => rfl
  | n + 1, i, [] => congrArg (· + 1) (length_sampleTake n (i + 1) [])
  | n + 1, i, _ :: l => congrArg (· + 1) (length_sampleTake n (i + 1) l)

theorem sampleTake_take : ∀ (n i : Nat) (l : List F32), n ≤ l.length → sampleTake n i l = l.take n
  | 0, _, _, _ => by simp [sampleTake]
  | n + 1, i, [], h => by simp at h
  | n + 1, i, v :: l, h => by
    rw [sampleTake, sampleTake_take n (i + 1) l (by simpa using h), List.take_succ_cons]

@[simp] theorem length_pack24 (v : F32) : (pack24 v).length = 3 := length_leBytes 3 _

/-- Three bytes for every element (45_dsd_pcm.md R420). -/
theorem Pc.length_packed (pc : Pc) (skip count : Nat) : (pc.packed skip count).length = 3 * (count * pc.ch) := by
  have h : ∀ l : List F32, (l.flatMap pack24).length = 3 * l.length := by
    intro l
    induction l with
    | nil => rfl
    | cons v l ih =>
      rw [List.flatMap_cons, List.length_append, ih, length_pack24, List.length_cons]
      omega
  rw [Pc.packed, h, Pc.samples, length_sampleTake]

/-! ## The modes (45_dsd_pcm.md R371) -/

theorem length_freeTable (k pcm : Nat) : (freeTable k pcm).length = (mode k pcm).t := by simp [freeTable]

theorem length_deltaTable (k pcm : Nat) : (deltaTable k pcm).length = (mode k pcm).t := by simp [deltaTable]

/-- The coefficient table has `pc_T` entries (45_dsd_pcm.md R375 (a)). -/
theorem length_coef (k pcm : Nat) : (coef k pcm).length = (mode k pcm).t := by
  unfold coef
  split
  · exact length_freeTable k pcm
  · exact length_deltaTable k pcm

end Sys2Proof.Machine
end

