-- ==== Sys2Proof/Laws/Pool.lean ====
section
/-! SUPPORT. What the operations of the ring do to the slots and to the ring's registers (44_dst_pool.md), and what a
frame decode leaves of a slot (43_dst_residual.md R300). -/

namespace Sys2Proof.Machine

/-! ## A frame decode in a slot -/

theorem Slot.startFrame_keeps (sl : Slot) (ch fb : Nat) :
    (sl.startFrame ch fb).slotState = sl.slotState ∧ (sl.startFrame ch fb).slotSeq = sl.slotSeq ∧
    (sl.startFrame ch fb).slotKind = sl.slotKind ∧ (sl.startFrame ch fb).br.inbuf = sl.br.inbuf ∧
    (sl.startFrame ch fb).br.totalBits = sl.br.totalBits := ⟨rfl, rfl, rfl, rfl, rfl⟩

/-- A frame decode keeps the slot's state, number, kind and buffer, and ends with status OK or as a failed frame
(43_dst_residual.md R300, R314). -/
theorem Slot.frameDecode_keeps (sl : Slot) (ch fb : Nat) :
    (sl.frameDecode ch fb).slotState = sl.slotState ∧ (sl.frameDecode ch fb).slotSeq = sl.slotSeq ∧
    (sl.frameDecode ch fb).slotKind = sl.slotKind ∧ (sl.frameDecode ch fb).br.inbuf = sl.br.inbuf ∧
    (sl.frameDecode ch fb).br.totalBits = sl.br.totalBits ∧
    ((sl.frameDecode ch fb).slotStatus = .ok ∨ (sl.frameDecode ch fb).slotStatus = .frameDecodeError) := by
  have h := frameBody_keeps ch fb (sl.startFrame ch fb)
  unfold Slot.frameDecode
  rcases hr : frameBody ch fb (sl.startFrame ch fb) with ⟨_, t⟩ | ⟨e, t⟩ <;> rw [hr] at h
  · exact ⟨h.slotState, h.slotSeq, h.slotKind, h.br.inbuf, h.br.totalBits, .inl h.slotStatus⟩
  · exact ⟨h.slotState, h.slotSeq, h.slotKind, h.br.inbuf, h.br.totalBits, .inr rfl⟩

/-- The step of a slot's agent: a slot that is not `BUSY` stays as it is (44_dst_pool.md R344). -/
theorem State.stepped_idle (s : State) (sl : Slot) (h : sl.slotState ≠ .busy) : s.stepped sl = sl := if_neg h

theorem State.stepped_busy (s : State) (sl : Slot) (h : sl.slotState = .busy) :
    s.stepped sl = { sl.frameDecode s.pool.dstCh s.pool.dstFb with slotState := .done } := if_pos h

/-- A step never leaves a slot `BUSY`, and keeps its number and kind. -/
theorem State.stepped_keeps (s : State) (sl : Slot) : (s.stepped sl).slotState ≠ .busy ∧
    (s.stepped sl).slotSeq = sl.slotSeq ∧ (s.stepped sl).slotKind = sl.slotKind := by
  by_cases h : sl.slotState = .busy
  · rw [s.stepped_busy sl h]
    have hk := sl.frameDecode_keeps s.pool.dstCh s.pool.dstFb
    exact ⟨by simp, hk.2.1, hk.2.2.1⟩
  · rw [s.stepped_idle sl h]
    exact ⟨h, rfl, rfl⟩

/-- A slot that has stepped does not step again. -/
theorem State.stepped_stepped (s : State) (sl : Slot) : s.stepped (s.stepped sl) = s.stepped sl :=
  s.stepped_idle _ (s.stepped_keeps sl).1

/-! ## The slots after a change of the ring -/

theorem State.slot_enqueue (s : State) (sl : Slot) (k : Nat) :
    (s.enqueue sl).slot k = if k = s.pool.head then sl else s.slot k := State.slot_setSlot s s.pool.head k sl

theorem State.slot_dequeue (s : State) (k : Nat) :
    s.dequeue.slot k = if k = s.pool.tail then { s.slot s.pool.tail with slotState := .free } else s.slot k :=
  State.slot_setSlot s s.pool.tail k _

theorem State.slot_slotStep (s : State) (k j : Nat) :
    (s.slotStep k).slot j = if j = k then s.stepped (s.slot k) else s.slot j := State.slot_setSlot s k j _

/-- A failed frame is silence in its slot, and one error (43_dst_residual.md R314). -/
theorem State.retireFailed_eq (s : State) (k : Nat) : s.retireFailed k =
    { s.setSlot k { s.slot k with
        outbuf := overwrite (s.slot k).outbuf (List.replicate (s.pool.dstCh * s.pool.dstFb) s.silence)
        outSize := s.pool.dstCh * s.pool.dstFb } with
      errCount := satInc s.errCount, lastError := errorWord .frameDecodeError (s.slot k).slotCause.code } := rfl

theorem State.slot_retireFailed (s : State) (k j : Nat) : (s.retireFailed k).slot j =
    if j = k then { s.slot k with
      outbuf := overwrite (s.slot k).outbuf (List.replicate (s.pool.dstCh * s.pool.dstFb) s.silence)
      outSize := s.pool.dstCh * s.pool.dstFb }
    else s.slot j := State.slot_setSlot s k j _

/-- All that retiring the oldest job can do: its decode has run, and a failed frame is silence and one error
(44_dst_pool.md R343). -/
theorem State.retire_cases (s : State) :
    ((s.stepped (s.slot s.pool.tail)).slotStatus = .ok ∧ s.retire = s.slotStep s.pool.tail) ∨
    ((s.stepped (s.slot s.pool.tail)).slotStatus ≠ .ok ∧
      s.retire = (s.slotStep s.pool.tail).retireFailed s.pool.tail) := by
  have h : (s.slotStep s.pool.tail).slot s.pool.tail = s.stepped (s.slot s.pool.tail) := s.slot_setSlot_same _ _
  unfold State.retire
  dsimp only
  rw [h]
  by_cases hk : (s.stepped (s.slot s.pool.tail)).slotStatus = .ok
  · exact .inl ⟨hk, if_pos hk⟩
  · exact .inr ⟨hk, if_neg hk⟩

/-- A frame loaded into a slot is a job with its number, and the buffer starts with the frame (44_dst_pool.md R342). -/
theorem Slot.loadDst_br (sl : Slot) (seq : Word) (bytes : List Byte) :
    (sl.loadDst seq bytes).br =
      { inbuf := bytes ++ sl.br.inbuf.drop bytes.length, totalBits := 8 * bytes.length, pos := 0, brErr := false } := rfl

end Sys2Proof.Machine
end

