-- ==== Sys2Proof/Laws/Step.lean ====
section
/-! SUPPORT. All that one step can do, said once: which state or which instruction comes next, and why. -/

namespace Sys2Proof.Machine

/-- An illegal word is answered as every exception is (60_exceptions.md R611). -/
theorem State.illegal_eq (s : State) (w : Word) : s.illegal w = s.refusedWith 1 w.toNat :=
  Host.Outcome.next.inj (State.fail_eq s .eIllegal w.toNat)

/-- All that one step can do: every step is the step of one of these cases. -/
inductive Stepped (s : State) : Host.Outcome State Fault Refusal → Prop where
  | reset : s.rst = true → Stepped s (.next s.toReset)
  | stay : Stepped s (.next s)
  | noFrame (k : Nat) (ks : List Nat) : s.turns = k :: ks → Stepped s (.next { s with turns := ks })
  | badFrame (k : Nat) (ks : List Nat) : s.turns = k :: ks → (s.slot k).slotState = .busy →
      Stepped s (.next { s.slotStep k with turns := ks })
  | frame (i : Instr) : i.isFrame = true → s.turns ≠ [] → Stepped s (exec i s)
  | held (i : Instr) : s.held = some i → s.turns = [] → Stepped s (exec i { s with held := none })
  | command (w : Word) (ws : List Word) (i : Instr) : s.cmd = w :: ws → decode w = .ok i → s.turns = [] → s.held = none →
      Stepped s (exec i { s with cmd := ws })
  | illegal (w : Word) (ws : List Word) : s.cmd = w :: ws →
      Stepped s (.next (({ s with cmd := ws } : State).refusedWith 1 w.toNat))

/-- A frame byte decodes to a frame row (30_encoding.md R151). -/
theorem decodeFrameByte_isFrame (b : Byte) (i : Instr) (h : decodeFrameByte b = .ok i) : i.isFrame = true := by
  unfold decodeFrameByte at h
  dsimp only at h
  split at h
  · cases h; rfl
  · split at h
    · cases h; rfl
    · cases h

theorem step_cases (s : State) : Stepped s (step s) := by
  unfold step State.fetch
  split
  · next i t hf =>
    split at hf
    · cases hf
    · split at hf
      · next k ks ht =>
        unfold State.fetchSlot at hf
        split at hf
        · split at hf
          · next i' hd =>
            cases hf
            exact .frame _ (decodeFrameByte_isFrame _ _ hd) (by rw [ht]; exact List.cons_ne_nil _ _)
          · cases hf
        · cases hf
      · next ht =>
        unfold State.fetchSequencer State.fetchCommand at hf
        split at hf
        · cases hf
        · split at hf
          · next hh =>
            cases hf
            exact .held _ hh ht
          · next hh =>
            split at hf
            · cases hf
            · next w ws hc =>
              split at hf
              · next hd =>
                cases hf
                exact .command w ws _ hc hd ht hh
              · cases hf
  · next t hf =>
    split at hf
    · next hr =>
      cases hf
      exact .reset hr
    · split at hf
      · next k ks ht =>
        unfold State.fetchSlot at hf
        split at hf
        · next hb =>
          split at hf
          · cases hf
          · cases hf
            exact .badFrame k ks ht hb
        · cases hf
          exact .noFrame k ks ht
      · unfold State.fetchSequencer State.fetchCommand at hf
        split at hf
        · cases hf
          exact .stay
        · split at hf
          · cases hf
          · split at hf
            · cases hf
              exact .stay
            · next w ws hc =>
              split at hf
              · cases hf
              · cases hf
                rw [State.illegal_eq]
                exact .illegal w ws hc

end Sys2Proof.Machine
end

