-- ==== Sys2Proof/Tests/Slice0.lean ====
section
/-! SUPPORT. The model's own tests: the checks of WellFormed, a word of every instruction written out from its encoding,
values worked out in 95_test_vectors.md, and for every obligation with hypotheses a state that meets them. -/

open Sys2Proof Sys2Proof.Machine Sys2Proof.Claims

namespace Sys2Proof.Tests
set_option Elab.async false

/-! ## WellFormed: a term that each check refuses (30_encoding.md R141) -/

theorem test_fits8_refuses : (Instr.openMedium 256).wellFormed = false := by decide
theorem test_fits8_refuses_third : (Instr.initTrack 0 0 256).wellFormed = false := by decide
theorem test_fits16_refuses : (Instr.wrreg 3 65536).wellFormed = false := by decide
theorem test_fits24_refuses : (Instr.submit 16777216).wellFormed = false := by decide
theorem test_fits12_refuses : (Instr.pcPack 4096 0).wellFormed = false := by decide
theorem test_coded_byte_refuses : (Instr.dstfCoded 128).wellFormed = false := by decide
theorem test_plain_byte_refuses : (Instr.dstfPlain 2).wellFormed = false := by decide
theorem test_reserved_operand_is_well_formed : (Instr.setTrack 0 255).wellFormed = true := by decide

/-! ## Decode: a word of every instruction, `op` in bits 31:24 and the fields of its format (30_encoding.md R141, R143) -/

theorem test_decode_nop : decode 0x00000000 = .ok .nop := by decide
theorem test_decode_reset : decode 0x01000000 = .ok .reset := by decide
theorem test_decode_open : decode 0x02030000 = .ok (.openMedium 3) := by decide
theorem test_decode_initTrack : decode 0x03050201 = .ok (.initTrack 5 2 1) := by decide
theorem test_decode_decodeNext : decode 0x04000000 = .ok .decodeNext := by decide
theorem test_decode_close : decode 0x05000000 = .ok .close := by decide
theorem test_decode_rdreg : decode 0x06200000 = .ok (.rdreg 0x20) := by decide
theorem test_decode_wrreg : decode 0x07061260 = .ok (.wrreg 6 4704) := by decide
theorem test_decode_setTrack : decode 0x10010200 = .ok (.setTrack 1 2) := by decide
theorem test_decode_readFrame : decode 0x11000000 = .ok .readFrame := by decide
theorem test_decode_seek : decode 0x12800001 = .ok (.seek 0x800001) := by decide
theorem test_decode_getChannels : decode 0x13000000 = .ok .getChannels := by decide
theorem test_decode_getSamplerate : decode 0x14000000 = .ok .getSamplerate := by decide
theorem test_decode_getFramerate : decode 0x15000000 = .ok .getFramerate := by decide
theorem test_decode_getProgress : decode 0x16000000 = .ok .getProgress := by decide
theorem test_decode_poolInit : decode 0x20060000 = .ok (.poolInit 6) := by decide
theorem test_decode_submit : decode 0x21000006 = .ok (.submit 6) := by decide
theorem test_decode_submitDsd : decode 0x22010000 = .ok (.submitDsd 65536) := by decide
theorem test_decode_collect : decode 0x23FFFFFF = .ok (.collect 0xFFFFFF) := by decide
theorem test_decode_dstDecode : decode 0x24000000 = .ok .dstDecode := by decide
theorem test_decode_slotRead : decode 0x25000000 = .ok .slotRead := by decide
theorem test_decode_brLoad : decode 0x30000002 = .ok (.brLoad 2) := by decide
theorem test_decode_brReadBit : decode 0x31000000 = .ok .brReadBit := by decide
theorem test_decode_brReadBits : decode 0x32200000 = .ok (.brReadBits 32) := by decide
theorem test_decode_brReadSigned : decode 0x33090000 = .ok (.brReadSigned 9) := by decide
theorem test_decode_brReadByteAligned : decode 0x34000000 = .ok .brReadByteAligned := by decide
theorem test_decode_brRice : decode 0x35070000 = .ok (.brRice 7) := by decide
theorem test_decode_acStart : decode 0x40000000 = .ok .acStart := by decide
theorem test_decode_acDecode : decode 0x41800100 = .ok (.acDecode 128 1) := by decide
theorem test_decode_acQuantize : decode 0x4240FE01 = .ok (.acQuantize 64 0xFE01) := by decide
theorem test_decode_pcInit : decode 0x50020301 = .ok (.pcInit 2 3 1) := by decide
theorem test_decode_pcConvert : decode 0x51000028 = .ok (.pcConvert 40) := by decide
theorem test_decode_pcGetDelay : decode 0x52000000 = .ok .pcGetDelay := by decide
theorem test_decode_pcIsConvertCalled : decode 0x53000000 = .ok .pcIsConvertCalled := by decide
theorem test_decode_pcDegibbs : decode 0x54010012 = .ok (.pcDegibbs 1 18) := by decide
theorem test_decode_pcPack : decode 0x55ABCDEF = .ok (.pcPack 0xABC 0xDEF) := by decide
theorem test_decode_pcReadf : decode 0x56000000 = .ok .pcReadf := by decide
theorem test_decode_dstfCoded : decodeFrameByte 0b11111100 = .ok (.dstfCoded 0b1111100) := by decide
theorem test_decode_dstfPlain : decodeFrameByte 0b01000000 = .ok (.dstfPlain 1) := by decide
theorem test_decode_refuses_opcode : decode 0x08000000 = .error .illegalOpcode := by decide
theorem test_decode_refuses_reserved : decode 0x10000001 = .error .reservedBits := by decide
theorem test_decode_refuses_stuffing : decodeFrameByte 0b00000001 = .error .stuffing := by decide

/-! ## Runs of one command -/

/-- The status and value of the responses after a command, from an empty port. -/
def answers (o : Out) : List (Nat × Nat) :=
  match o with
  | .next t => t.rsp.map fun r => (r.status.toNat, r.value.toNat)
  | _ => []

/-- The bytes on DOUT after a command. -/
def emitted (o : Out) : List Nat :=
  match o with
  | .next t => t.dout.map BitVec.toNat
  | _ => []

/-- A field of the state after a command. -/
def after {α : Type} (f : State → α) (o : Out) : Option α :=
  match o with
  | .next t => some (f t)
  | _ => none

/-- The reset state with bytes loaded in slot 0, the cursor at bit `pos`. -/
def loaded (bytes : List Byte) (pos : Nat) : State :=
  { State.reset with
    slots := [{ Slot.reset with
      br := { inbuf := bytes, totalBits := 8 * bytes.length, pos := pos, brErr := false } }] }

/-! ### The BitReader: 95_test_vectors.md section 2 -/

theorem test_read_bits : answers (exec (.brReadBits 8) (loaded [0xA5, 0x0F] 4)) = [(0, 0x50)] := by decide
theorem test_read_bits_short : answers (exec (.brReadBits 4) (loaded [0xA5, 0x0F] 13)) = [(0x10, 3)] := by decide
theorem test_read_bit : answers (exec .brReadBit (loaded [0xA5, 0x0F] 12)) = [(0, 1)] := by decide
theorem test_read_signed :
    answers (exec (.brReadSigned 9) (loaded [0x80, 0x00] 0)) = [(0, 0xFFFFFFFFFFFFFF00)] := by decide
theorem test_read_aligned : answers (exec .brReadByteAligned (loaded [0xA5, 0x0F] 4)) = [(0, 0x0F)] := by decide
theorem test_rice : answers (exec (.brRice 2) (loaded [0x7C] 0)) = [(0, 0xFFFFFFFFFFFFFFF9)] := by decide
theorem test_rice_three : answers (exec (.brRice 3) (loaded [0b00011011] 0)) = [(0, 2 ^ 64 - 29)] := by decide
theorem test_load : answers (exec (.brLoad 2) { State.reset with din := [0xA5, 0x0F, 1] }) = [(0, 16)] := by decide

/-! ### The arithmetic decoder: 95_test_vectors.md section 5 -/

theorem test_quantize_negative : answers (exec (.acQuantize 64 0xFE01) State.reset) = [(0, 63)] := by decide
theorem test_quantize_eight : answers (exec (.acQuantize 64 8) State.reset) = [(0, 1)] := by decide
theorem test_ac_start : answers (exec .acStart (loaded [0xA5, 0x0F] 4)) = [(0, 12)] := by decide

/-- The reset state with a code in slot 0 that starts at bit 0 and has 16 bits. -/
def coded (bytes : List Byte) : State :=
  { State.reset with
    slots := [{ (loaded bytes 0).selected with
      ac := { a := 0, c := 0, cbptr := 0, acBase := 0, acLen := 16, acInit := true } }] }

/-- The bit and the registers after `AC_DECODE p, flush`. -/
def acResult (p flush : Nat) (bytes : List Byte) : List (Nat × Nat) × Option (Nat × Nat × Nat) :=
  let o := exec (.acDecode p flush) (coded bytes)
  (answers o, after (fun s => (s.selected.ac.a.toNat, s.selected.ac.c.toNat, s.selected.ac.cbptr)) o)

theorem test_ac_decode : acResult 128 0 [0x5A, 0xC3] = ([(0, 0)], some (3840, 1458, 14)) := by decide +kernel
theorem test_ac_decode_zeros : acResult 128 0 [0, 0] = ([(0, 1)], some (2175, 0, 13)) := by decide +kernel

/-! ### DST frames: 95_test_vectors.md section 4 -/

/-- The reset state with a pool of `ch` channels of `fb` bytes and a frame in slot 0. -/
def framed (ch fb : Nat) (bytes : List Byte) : State :=
  { loaded bytes 0 with pool := { Pool.reset with dstCh := ch, dstFb := fb } }

/-- The output of slot 0 after `DST_DECODE`, and the answer. -/
def decoded (ch fb : Nat) (bytes : List Byte) : List (Nat × Nat) × Option (List Nat) :=
  let o := exec .dstDecode (framed ch fb bytes)
  (answers o, after (fun s => (bufBytes s.selected.outbuf 0 s.selected.outSize).map BitVec.toNat) o)

/-- Frame B: two Rice-coded filters, a shared Rice-coded Ptable, `HalfProb` on channel 0. -/
def frameB : List Byte :=
  [0xF2, 0x40, 0x53, 0x83, 0x20, 0x39, 0x80, 0x44, 0x02, 0x0C, 0x0E, 0xE3, 0x9E, 0x68, 0xF2, 0xE2, 0xBF, 0x2B, 0x47,
   0xE2, 0xF7, 0xA9, 0x72, 0x3E, 0xCA]

theorem test_frame_b :
    decoded 2 4 frameB = ([(0, 8)], some [0xDE, 0x12, 0xAD, 0x34, 0xBE, 0x56, 0xEF, 0x78]) := by decide +kernel
theorem test_plain_frame : decoded 1 2 [0x40, 0x12, 0x34] = ([(0, 2)], some [0x12, 0x34]) := by decide +kernel
theorem test_frame_stuffing : decoded 1 2 [0x01, 0x12, 0x34] = ([(0x11, 1)], some [0x69, 0x69]) := by decide +kernel
theorem test_frame_map_mismatch : answers (exec .dstDecode (framed 2 16 [0xB0, 0x53, 0xC0])) = [(0x11, 7)] := by
  decide +kernel
theorem test_slot_read : emitted (exec .slotRead { State.reset with
    slots := [{ Slot.reset with outbuf := [1, 2, 3, 4], outSize := 3 }] }) = [1, 2, 3] := by decide
theorem test_frame_row_plain : after (fun s => (s.slot 0).outbuf.map BitVec.toNat)
    (exec (.dstfPlain 0) (framed 1 2 [0x40, 0x12, 0x34])) = some [0x12, 0x34] := by decide +kernel
theorem test_frame_row_coded : after (fun s => (s.slot 0).slotCause)
    (exec (.dstfCoded 0x7B) (framed 3 16 [0x80, 0x80])) = some .tableNumber := by decide +kernel

/-! ### The ring: 95_test_vectors.md program P2 -/

theorem test_submit_waits : after (fun s => s.held) (exec (.submit 6) { framed 1 2 [] with din := [1, 2] })
    = some (some (.submit 6)) := by decide +kernel
theorem test_submit_dsd_before_pool_init : answers (exec (.submitDsd 6) State.reset) = [(3, 0)] := by decide
theorem test_pool_init_operand : answers (exec (.poolInit 7) State.reset) = [(2, 7)] := by decide
theorem test_sentinel : after (fun s => s.pool.draining) (exec (.submit 0) (framed 1 2 [])) = some true := by decide

/-- The reset state with one `BUSY` job in slot 0, of handle 5. -/
def oneJob (bytes : List Byte) : State :=
  { framed 1 2 bytes with
    slots := [{ (loaded bytes 0).selected with slotState := .busy, slotKind := .dst, slotSeq := 5 }]
    pool := { dstCh := 1, dstFb := 2, head := 0, tail := 0, ringCount := 1, submitSeq := 6, collectSeq := 5,
              draining := false } }

theorem test_collect_failed : emitted (exec (.collect 5) (oneJob [0x01, 0x12, 0x34])) = [0x69, 0x69] ∧
    answers (exec (.collect 5) (oneJob [0x01, 0x12, 0x34])) = [(0x11, 1)] := by decide +kernel
theorem test_collect_order : answers (exec (.collect 4) (oneJob [0x00, 0x12, 0x34])) = [(4, 5)] := by decide +kernel

/-! ### The converter: 95_test_vectors.md sections 6 and 7 -/

/-- A small converter: one channel, three taps 0.25, 0.5, 0.125, eight bits for each sample. -/
def smallPc : Pc :=
  { Pc.reset with
    ch := 1, t := 3, d := 8, u := 1, k := 1, spf := 1176, h := [0x3FD0000000000000, 0x3FE0000000000000, 0x3FC0000000000000]
    hist := [[]], delayClamped := { num := 575, den := 64 }, fadeLen := 9 }

/-- The reset state with the small converter, dither off. -/
def converting (din : List Byte) : State := { State.reset with pc := smallPc, ditherDepth := 0, din := din }

/-- The filter of 45_dsd_pcm.md R385 by hand: bits 5, 6, 7 are +1, −1, +1, so 0.25 − 0.5 + 0.125 = −0.125. -/
theorem test_convert : after (fun s => s.pc.pcmBuf) (exec (.pcConvert 1) (converting [0x05])) = some [0xBE000000#32] := by
  decide +kernel
theorem test_convert_zero : after (fun s => s.pc.convertCalled) (exec (.pcConvert 0) (converting [])) = some false := by
  decide +kernel
theorem test_pc_init : answers (exec (.pcInit 2 0 0) State.reset) = [(0, 575)] := by decide +kernel
theorem test_pc_init_operand : answers (exec (.pcInit 7 0 0) State.reset) = [(2, 7)] := by decide
theorem test_get_delay : answers (exec .pcGetDelay (converting [])) = [(0, 0x4021F80000000000)] := by decide +kernel
theorem test_get_delay_rounded :
    f64OfRatio 2879 294 = 0x402395C4CA037BA5 ∧ f64OfRatio 46049 2352 = 0x40339422D4766BF9 := by decide +kernel
theorem test_is_convert_called : answers (exec .pcIsConvertCalled (converting [])) = [(0, 0)] := by decide
theorem test_dither : (dither 24 0 0).2 = 0xBE35C26BA6000000 ∧ toF32 (dither 24 0 0).2 = 0xB1AE135D ∧
    toF32 (dither 16 0 0).2 = 0xB5AE135D := by decide +kernel
theorem test_clamp : clamp1 0x3FF0000000000001 = 0x3FF0000000000000 ∧ clamp1 0xBFF0000000000001 = 0xBFF0000000000000 := by
  decide +kernel
theorem test_pack24 : (pack24 0x3F800000, pack24 0xBF800000, pack24 0x34A00000, pack24 0xB4400000, pack24 0x3F638E39) =
    ([0xFF, 0xFF, 0x7F], [0x00, 0x00, 0x80], [0x02, 0x00, 0x00], [0xFE, 0xFF, 0xFF], [0x1C, 0xC7, 0x71]) := by
  decide +kernel
theorem test_fade : (fade 0x3F800000 1 9, fade 0xBF800000 8 9, fade 0xBF800000 0 9) =
    (0x3DE38E39#32, 0xBF638E39#32, 0x80000000#32) := by decide +kernel

/-- The small converter with `n` samples of +1.0. -/
def ones (n : Nat) : State :=
  { converting [] with pc := { smallPc with pcmBuf := List.replicate n 0x3F800000, pcmN := n } }

theorem test_degibbs : answers (exec (.pcDegibbs 0 18) (ones 18)) = [(0, 9)] ∧
    answers (exec (.pcDegibbs 0 17) (ones 18)) = [(0, 0)] := by decide +kernel
theorem test_degibbs_out : after (fun s => s.pc.pcmBuf.getD 17 1) (exec (.pcDegibbs 1 18) (ones 18)) = some 0 := by
  decide +kernel
theorem test_pack : emitted (exec (.pcPack 1 1) (ones 2)) = [0xFF, 0xFF, 0x7F] := by decide +kernel
theorem test_readf : emitted (exec .pcReadf (ones 1)) = [0x00, 0x00, 0x80, 0x3F] := by decide +kernel

/-! ### Containers: 95_test_vectors.md section 8 -/

/-- The reset state with a medium of the bytes given. -/
def presented (bytes : List Byte) : State :=
  { State.reset with medium := Memory.writeRun [] 0 bytes, mediumSize := BitVec.ofNat 64 bytes.length }

/-- A DSF header (95_test_vectors.md section 8.1) with the bits per sample, block size and data size given. -/
def dsfHeader (bits block size : Byte) : List Byte :=
  [0x44, 0x53, 0x44, 0x20, 0x1C, 0, 0, 0, 0, 0, 0, 0, 0x5C, 0, 0, 0,
   0, 0, 0, 0, 0, 0, 0, 0, 0, 0, 0, 0, 0x66, 0x6D, 0x74, 0x20,
   0x34, 0, 0, 0, 0, 0, 0, 0, 1, 0, 0, 0, 0, 0, 0, 0,
   2, 0, 0, 0, 2, 0, 0, 0, 0, 0x11, 0x2B, 0, bits, 0, 0, 0,
   0x20, 0, 0, 0, 0, 0, 0, 0, block, 0, 0, 0, 0, 0, 0, 0,
   0x64, 0x61, 0x74, 0x61, size, 0, 0, 0, 0, 0, 0, 0]

/-- Two channels, two block groups of 2 bytes each: channel 0 is 01 02 05 06, channel 1 is 03 04 07 08. -/
def dsfMedium : List Byte := dsfHeader 1 2 20 ++ [1, 2, 3, 4, 5, 6, 7, 8]

/-- The medium opened. -/
def dsfOpened : State := { presented dsfMedium with
  sess := .opened
  fx := Fx.openedDsf Fx.reset dsfMedium }

/-- The track selected. -/
def dsfReady : State := { dsfOpened with fx := { Fx.selectDsf dsfOpened.fx with trackSelected := true } }

theorem test_open_dsf : answers (exec (.openMedium 0) (presented dsfMedium)) = [(0, 0x30001)] := by decide +kernel
theorem test_open_dsf_corrupt :
    answers (exec (.openMedium 3) (presented (dsfHeader 2 2 20 ++ List.replicate 8 0))) = [(0x21, 60)] := by decide +kernel
theorem test_get_channels : answers (exec .getChannels dsfOpened) = [(0, 2)] := by decide +kernel
theorem test_get_samplerate : answers (exec .getSamplerate dsfOpened) = [(0, 2822400)] := by decide +kernel
theorem test_get_framerate : answers (exec .getFramerate dsfOpened) = [(0, 75)] := by decide +kernel
theorem test_set_track : answers (exec (.setTrack 0 0) dsfOpened) = [(0, 2)] ∧
    after (fun s => s.fx.frameTotal) (exec (.setTrack 0 0) dsfOpened) = some 1 := by decide +kernel
theorem test_set_track_operand : answers (exec (.setTrack 1 0) dsfOpened) = [(2, 1)] := by decide +kernel

/-- Byte interleave of two channels, bits reversed, over two block groups. -/
theorem test_read_frame : emitted (exec .readFrame dsfReady) = [0x80, 0xC0, 0x40, 0x20, 0xA0, 0xE0, 0x60, 0x10] ∧
    answers (exec .readFrame dsfReady) = [(0, 0x08000008)] := by decide +kernel

/-- A medium that gives only 3 bytes of the first group: a full frame of zeros and one bad read. -/
theorem test_read_frame_bad : answers (exec .readFrame { dsfReady with answers := [.bytes [1, 2, 3]] }) =
    [(0, 0x0A0024C0)] ∧ after (fun s => (s.fx.badReads, s.errCount, s.lastError))
      (exec .readFrame { dsfReady with answers := [.bytes [1, 2, 3]] }) = some (1, 1, 0x00005C12) := by decide +kernel
theorem test_seek : answers (exec (.seek 1) dsfReady) = [(0, 1)] ∧ answers (exec (.seek 2) dsfReady) = [(2, 2)] := by
  decide +kernel
theorem test_get_progress : answers (exec .getProgress { dsfReady with
    fx := { dsfReady.fx with frameIndex := 1 } }) = [(0, 100)] := by decide +kernel

/-! ### The session and the registers: 95_test_vectors.md programs P3 and P5 -/

theorem test_nop : answers (exec .nop State.reset) = [(0, 0)] := by decide
theorem test_reset : after (fun s => (s.lastError, s.din)) (exec .reset { State.reset with lastError := 3, din := [1] }) =
    some (0, [1]) := by decide
theorem test_rdreg_id : answers (exec (.rdreg 0) State.reset) = [(0, 0x53414344)] := by decide
theorem test_rdreg_status : answers (exec (.rdreg 1) { dsfOpened with errCount := 9 }) = [(0, 0xE5)] := by decide +kernel
theorem test_wrreg : after (fun s => s.ditherDepth) (exec (.wrreg 8 0) State.reset) = some 0 := by decide
theorem test_wrreg_refuses : answers (exec (.wrreg 6 18817) State.reset) = [(2, 18817)] ∧
    answers (exec (.wrreg 0 1) State.reset) = [(2, 0)] := by decide
theorem test_init_track_closed : answers (exec (.initTrack 0 0 0) State.reset) = [(3, 0)] := by decide
theorem test_init_track : after (fun s => (s.sess, s.pc.t, s.pool.dstCh, s.pcmRate))
    (exec (.initTrack 0 0 1) dsfOpened) = some (.track, 2879, 2, 96000) := by decide +kernel
theorem test_close : after (fun s => (s.sess, s.fx, s.errCount)) (exec .close { dsfReady with errCount := 7 }) =
    some (.closed, Fx.reset, 7) := by decide +kernel

/-- A session whose track has ended, with an empty ring. -/
def ended : State := { dsfReady with sess := .track, fx := { dsfReady.fx with eot := true } }

theorem test_decode_next_drains : answers (exec .decodeNext ended) = [(0, 0)] ∧
    after (fun s => s.sess) (exec .decodeNext ended) = some .drained := by decide +kernel
theorem test_decode_next_closed : answers (exec .decodeNext State.reset) = [(3, 0)] := by decide
theorem test_illegal_word : after (fun s => (s.rsp, s.lastError)) (step { State.reset with cmd := [0x08000000] }) =
    some ([{ status := 1, value := 0x08000000 }], 0x00000001) := by decide +kernel

/-! ## Witnesses: for every obligation with hypotheses, states and operands that meet them, clause by clause -/

/-- The reset state with the command words given. -/
def queued (ws : List Word) : State := { State.reset with cmd := ws }

theorem witness_DecodeOfEncode : (Instr.initTrack 255 255 255).wellFormed = true ∧ (Instr.wrreg 0 65535).wellFormed = true ∧
    (Instr.seek 0xFFFFFF).wellFormed = true ∧ (Instr.pcPack 4095 4095).wellFormed = true ∧
    (Instr.dstfCoded 127).wellFormed = true ∧ (Instr.dstfPlain 1).wellFormed = true := by decide

theorem witness_EncodeOfDecode : decode 0x55FFFFFF = .ok (.pcPack 4095 4095) ∧ decode 0 = .ok .nop ∧
    decodeFrameByte 0xFF = .ok (.dstfCoded 127) ∧ decodeFrameByte 0 = .ok (.dstfPlain 0) := by decide

theorem witness_IllegalWordsAreRefused : legalWord 0x41FFFF00 ∧ (queued [0x41FFFF01]).ready ∧ ¬ legalWord 0x41FFFF01 ∧
    ¬ legalWord 0x57000000 := by
  unfold legalWord State.ready
  decide +kernel

theorem witness_StepRunsTheDecodedInstruction :
    ((queued [0]).ready ∧ decode 0 = .ok .nop) ∧
    ({ State.reset with held := some .readFrame }.rst = false ∧ { State.reset with held := some .readFrame }.turns = []) ∧
    ((oneJob [0x80]).slot 0).slotState = .busy ∧
      decodeFrameByte (bufByte ((oneJob [0x80]).slot 0).br.inbuf 0) = .ok (.dstfCoded 0) := by
  unfold State.ready
  decide +kernel

theorem witness_ResetInputResets : { dsfReady with rst := true, din := [1] }.rst = true := by decide

/-- A ring that is full whatever the number of slots is. -/
def fullRing : State :=
  { framed 1 2 [] with pool := { (framed 1 2 []).pool with ringCount := Config.nSlots } }

theorem witness_FullRingIsStuck :
    (fullRing.sess ≠ .track ∧ fullRing.pool.dstCh ≠ 0 ∧ fullRing.pool.draining = false ∧
      Config.nSlots ≤ fullRing.pool.ringCount) ∧
    { State.reset with stuck := true }.stuck = true ∧ { State.reset with rst := true }.rst = true :=
  ⟨⟨by decide, by decide, by decide, Nat.le_refl _⟩, rfl, rfl⟩

theorem witness_ShortDinWaits :
    (State.reset.selected.slotState = .free ∧ State.reset.din.length < 112897) ∧
    ((framed 6 18816 []).sess ≠ .track ∧ (framed 6 18816 []).pool.dstCh ≠ 0 ∧
      (framed 6 18816 []).pool.ringCount < Config.nSlots ∧ (framed 6 18816 []).din.length < 225792) ∧
    ((converting [1]).pc.t ≠ 0 ∧ (converting [1]).din.length < 4704 ∧ 4704 / (converting [1]).pc.ch ≤ 4704) :=
  ⟨⟨rfl, by decide⟩, ⟨by decide, by decide, Config.nSlots_pos, by decide⟩, by decide, by decide, by decide⟩

theorem witness_PortsOfEveryCommand : ∃ t, exec (.brLoad 1) { State.reset with din := [1, 2] } = .next t := ⟨_, rfl⟩

theorem witness_RefusalsChangeNothing :
    answers (exec (.seek 2) dsfReady) = [(2, 2)] ∧ answers (exec .readFrame State.reset) = [(3, 0)] ∧
    answers (exec (.collect 4) (oneJob [0x00])) = [(4, 5)] := by decide +kernel

theorem witness_ExceptionsAreRecorded : answers (exec (.brReadBits 4) (loaded [1] 8)) = [(0x10, 0)] := by decide +kernel

theorem witness_MediumIsReadOnly : ∃ t, step { dsfReady with cmd := [0x11000000], answers := [.bytes []] } = .next t ∧
    t.answers = [] := by
  refine ⟨_, rfl, ?_⟩
  decide +kernel

theorem witness_SessionStateMachine :
    after (·.sess) (exec (.openMedium 0) (presented dsfMedium)) = some .opened ∧
    after (·.sess) (exec (.openMedium 3) dsfOpened) = some .opened ∧
    after (·.sess) (exec (.initTrack 0 0 0) State.reset) = some .closed ∧
    after (·.sess) (exec (.initTrack 0 0 3) dsfOpened) = some .track ∧
    after (·.sess) (exec .decodeNext ended) = some .drained ∧
    after (·.sess) (exec .decodeNext dsfReady) = some .opened ∧
    after (·.sess) (exec .close ended) = some .closed ∧ after (·.sess) (exec .reset ended) = some .closed ∧
    after (·.sess) (exec .readFrame dsfReady) = some .opened := by decide +kernel

theorem witness_UnitCommandsAreRefused : ended.sess = .track ∧
    ((oneJob [0]).sess ≠ .track ∧ (oneJob [0]).selected.slotState ≠ .free) := by decide +kernel

/-- The DSF medium with byte `i` of its header changed. -/
def badHeader (i : Nat) (v : Byte) : List Byte := dsfMedium.set i v

theorem witness_OpenReadsTheContainer :
    (State.reset.sess = .closed) ∧
    ((presented dsfMedium).mediumBytes 0 4 = [0x44, 0x53, 0x44, 0x20] ∧
      ((presented dsfMedium).mediumBytes 0 92).length = 92) ∧
    leField ((presented (badHeader 4 29)).mediumBytes 0 92) 4 8 ≠ 28 ∧
    (leField ((presented (badHeader 13 1)).mediumBytes 0 92) 4 8 = 28 ∧
      (presented (badHeader 13 1)).mediumSize.toNat < leField ((presented (badHeader 13 1)).mediumBytes 0 92) 12 8) ∧
    (∃ hd, hd = (presented dsfMedium).mediumBytes 0 92 ∧ leField hd 4 8 = 28 ∧
      leField hd 12 8 ≤ (presented dsfMedium).mediumSize.toNat ∧ slice hd 28 4 = [0x66, 0x6D, 0x74, 0x20] ∧
      leField hd 32 8 = 52 ∧ leField hd 40 4 = 1 ∧ leField hd 44 4 = 0 ∧ leField hd 52 4 = 2 ∧
      leField hd 56 4 = 2822400 ∧ leField hd 60 4 = 1 ∧ leField hd 72 4 = 2 ∧
      slice hd 80 4 = [0x64, 0x61, 0x74, 0x61] ∧ leField hd 84 8 = 20 ∧
      80 + leField hd 84 8 ≤ (presented dsfMedium).mediumSize.toNat) ∧
    State.reset.mediumBytes 0 4 ≠ [0x44, 0x53, 0x44, 0x20] := by
  refine ⟨rfl, ?_, ?_, ?_, ⟨_, rfl, ?_⟩, ?_⟩ <;> decide +kernel

/-! #### DSDIFF files and discs -/

/-- The properties of a form: two channels at 22579200 Hz, plain or DST sound data. -/
def dffProps (dst : Bool) : List DffChunk :=
  [ ⟨magicChnl, [0, 2, 1], 7⟩, ⟨magicFs, [0x01, 0x58, 0x88, 0x00], 0⟩,
    ⟨magicCmpr, (if dst then magicDst else magicDsd) ++ [1], 0⟩ ]

/-- The frame information and one frame of three bytes. -/
def dstSound : List Byte := (DffChunk.mk magicFrte [0, 0, 0, 9, 0, 75] 0).bytes ++ (DffChunk.mk magicDstf [1, 2, 3] 0).bytes

/-- The chunks of a form, an unknown one of odd length first; with DST sound data there is an index of two entries. -/
def dffChunks (dst : Bool) : List DffChunk :=
  [ ⟨[1, 2, 3, 4], [5, 6, 7], 8⟩, ⟨magicProp, magicSnd ++ (dffProps dst).flatMap DffChunk.bytes, 0⟩,
    ⟨magicFver, [1, 5, 0, 0], 0⟩, if dst then ⟨magicDst, dstSound, 0⟩ else ⟨magicDsd, [1, 2, 3], 0⟩ ] ++
  if dst then [⟨magicDsti, List.replicate 25 0, 0⟩] else []

/-- The extractor those chunks stand for, the offsets counted by hand. -/
def dffFx (dst : Bool) : Fx :=
  { Fx.reset with
    kind := .dsdiff, ch := 2, rate := 22579200, dst := dst, trackCount := 1, dataStart := if dst then 144 else 126
    dataEnd := if dst then 160 else 129
    dff := { dstiOff := if dst then 172 else 0, dstiCount := if dst then 2 else 0, frameBytes := 0
             frteCount := if dst then 9 else 0 } }

theorem dffChunks_says (dst : Bool) : dffSays (dffChunks dst) (dffProps dst) (dffFx dst) := by
  refine ⟨98, ⟨magicFver, [1, 5, 0, 0], 0⟩, 32, ⟨magicProp, magicSnd ++ (dffProps dst).flatMap DffChunk.bytes, 0⟩,
    64, ⟨magicFs, [0x01, 0x58, 0x88, 0x00], 0⟩, 48, ⟨magicChnl, [0, 2, 1], 7⟩,
    80, ⟨magicCmpr, (if dst then magicDst else magicDsd) ++ [1], 0⟩, (dffFx dst).dataStart, (dffFx dst).dataEnd,
    (dffFx dst).dff.frteCount, (dffFx dst).dff.dstiOff, (dffFx dst).dff.dstiCount, ?_⟩
  cases dst
  · refine ⟨?_, ?_, ?_, ?_, rfl, ?_, ?_, ?_, ?_, ?_, ?_, ?_, ?_,
      .inl ⟨?_, ?_, ⟨114, ⟨magicDsd, [1, 2, 3], 0⟩, ?_, rfl, rfl⟩, rfl⟩, .inl ⟨?_, rfl, rfl⟩, ?_⟩ <;> decide +kernel
  · refine ⟨?_, ?_, ?_, ?_, rfl, ?_, ?_, ?_, ?_, ?_, ?_, ?_, ?_,
      .inr ⟨?_, ?_, 114, ⟨magicDst, dstSound, 0⟩, ⟨magicFrte, [0, 0, 0, 9, 0, 75], 0⟩, _, ?_, rfl, rfl, ?_, ?_, ?_, ?_, ?_⟩,
      .inr ⟨160, ⟨magicDsti, List.replicate 25 0, 0⟩, ?_, rfl, ?_, ?_⟩, ?_⟩ <;> decide +kernel

theorem witness_OpenReadsTheContainer_dsdiff :
    (∀ dst, (presented (dffBytes (dffChunks dst))).sess = .closed ∧
      (presented (dffBytes (dffChunks dst))).mediumBytes 0 (dffBytes (dffChunks dst)).length = dffBytes (dffChunks dst) ∧
      (∀ c ∈ dffChunks dst ++ dffProps dst, c.id.length = 4) ∧ dffSays (dffChunks dst) (dffProps dst) (dffFx dst)) ∧
    (∃ hd, hd = (presented (magicFrm8 ++ beBytes 8 4 ++ magicDst)).mediumBytes 0 16 ∧ hd.take 4 = magicFrm8 ∧
      hd.length = 16 ∧ slice hd 12 4 ≠ magicDsd) ∧
    (∃ s hd stop, s = presented (magicFrm8 ++ beBytes 8 16 ++ magicDsd ++ magicFver ++ beBytes 8 1) ∧
      hd = s.mediumBytes 0 16 ∧ s.mediumBytes 0 4 = magicFrm8 ∧ stop = min (12 + beField hd 4 8) s.mediumSize.toNat ∧
      hd.length = 16 ∧ slice hd 12 4 = magicDsd ∧ stop = 28 ∧ stop < 28 + beField (s.mediumBytes 16 12) 4 8) ∧
    (∃ s hd stop, s = presented (magicFrm8 ++ beBytes 8 15 ++ magicDsd ++ magicFver ++ beBytes 8 1) ∧
      hd = s.mediumBytes 0 16 ∧ stop = min (12 + beField hd 4 8) s.mediumSize.toNat ∧ hd.length = 16 ∧
      slice hd 12 4 = magicDsd ∧ stop = 27) := by
  refine ⟨fun dst => ⟨rfl, ?_, ?_, dffChunks_says dst⟩, ⟨_, rfl, ?_⟩, ⟨_, _, _, rfl, rfl, ?_, rfl, ?_⟩,
    ⟨_, _, _, rfl, rfl, rfl, ?_⟩⟩ <;> first | decide +kernel | (cases dst <;> decide +kernel)

/-- A disc in either layout with a two-channel area of three tracks at sector 3 and its track list at sector 5; the
version and the start of the area as given. -/
def disc (psn : Bool) (version : Byte) (start : Nat) : State :=
  let at' := fun lsn bytes m => Memory.writeRun m (if psn then lsn * 2064 + 12 else lsn * 2048) bytes
  { State.reset with
    mediumSize := 2000000
    medium :=
      at' 510 (magicMasterToc ++ [version] ++ List.replicate 55 0 ++ beBytes 4 start ++ List.replicate 16 0 ++ [0, 3, 0, 1])
        (at' 5 magicTrackList
          (at' 3 (magicTwoChToc ++ [1] ++ List.replicate 11 0 ++ [4, 0xF2] ++ List.replicate 10 0 ++ [2] ++
            List.replicate 36 0 ++ [3]) [])) }

/-- The area of that disc. -/
def discToc : Area := { tocLsn := 3, tocSize := 3, tracks := 3, ch := 2, fmt := 2, rate := 2822400, trlLsn := 5 }

/-- The fields of a sector that `OPEN` reads: those of a master table of contents, and those of an area's. -/
def masterFields (m : List Byte) : List Byte × List Nat :=
  (m.take 8, [beField m 8 1, beField m 64 4, beField m 72 4, beField m 84 2, beField m 86 2])
def areaFields (t : List Byte) : List Byte × List Nat :=
  (t.take 8, [beField t 8 1, beField t 20 1, beField t 21 1, beField t 32 1, beField t 69 1])

theorem disc_masterFields : (∀ psn, masterFields (discSector (disc psn 1 3) psn 510) = (magicMasterToc, [1, 3, 0, 3, 1])) ∧
    masterFields (discSector (disc false 2 3) false 510) = (magicMasterToc, [2, 3, 0, 3, 1]) ∧
    masterFields (discSector (disc true 1 0) true 510) = (magicMasterToc, [1, 0, 0, 3, 1]) := by decide +kernel

theorem disc_areaFields (psn : Bool) :
    areaFields (discSector (disc psn 1 3) psn 3) = (magicTwoChToc, [1, 4, 0xF2, 2, 3]) ∧
    (discSector (disc psn 1 3) psn 4).take 8 = List.replicate 8 0 ∧
    (discSector (disc psn 1 3) psn 5).take 8 = magicTrackList := by
  cases psn <;> decide +kernel

/-- The sectors up to sector 900 are whole. -/
theorem disc_length (psn : Bool) (v : Byte) (n lsn : Nat) (h : lsn ≤ 900) :
    (discSector (disc psn v n) psn lsn).length = 2048 := by
  rw [discSector, State.length_mediumBytes, show (disc psn v n).mediumSize.toNat = 2000000 from rfl]
  split <;> omega

theorem disc_discArea (psn : Bool) : discArea (disc psn 1 3) psn magicTwoChToc 3 3 discToc ∧
    discArea (disc psn 1 3) psn magicMulChToc 0 1 { Area.reset with tocSize := 1 } := by
  obtain ⟨h3, h4, h5⟩ := disc_areaFields psn
  simp only [areaFields, Prod.mk.injEq, List.cons.injEq] at h3
  refine ⟨?_, ?_⟩
  · rw [discArea, if_neg (by decide)]
    refine ⟨_, 2, rfl, disc_length psn 1 3 3 (by decide), h3.1, ?_, h3.2.2.1, ?_, ?_, ?_, by decide, by decide,
      fun j h1 h2 => ?_, disc_length psn 1 3 5 (by decide), h5, ?_⟩
    case refine_5 =>
      obtain rfl : j = 1 := by omega
      exact ⟨disc_length psn 1 3 4 (by decide), by rw [h4]; decide⟩
    all_goals generalize discSector (disc psn 1 3) psn 3 = t at h3 ⊢; simp [h3, discToc]
  · rw [discArea, if_pos rfl]

theorem witness_OpenReadsTheContainer_disc :
    (∀ psn, (disc psn 1 3).sess = .closed ∧ (disc psn 1 3).mediumBytes 0 4 = [0, 0, 0, 0] ∧
      (psn = true → (disc psn 1 3).mediumBytes (510 * 2048) 8 ≠ magicMasterToc) ∧
      ∃ m, m = discSector (disc psn 1 3) psn 510 ∧ m.length = 2048 ∧ masterFields m = (magicMasterToc, [1, 3, 0, 3, 1]) ∧
        discArea (disc psn 1 3) psn magicTwoChToc 3 3 discToc ∧
        discArea (disc psn 1 3) psn magicMulChToc 0 1 { Area.reset with tocSize := 1 }) ∧
    (∃ m, m = discSector (disc false 2 3) false 510 ∧ m.length = 2048 ∧
      masterFields m = (magicMasterToc, [2, 3, 0, 3, 1])) ∧
    (∃ m, m = discSector (disc true 1 0) true 510 ∧ m.length = 2048 ∧ masterFields m = (magicMasterToc, [1, 0, 0, 3, 1])) := by
  refine ⟨fun psn => ⟨rfl, ?_, ?_, _, rfl, disc_length psn 1 3 510 (by decide), disc_masterFields.1 psn,
    disc_discArea psn⟩, ⟨_, rfl, disc_length _ _ _ _ (by decide), disc_masterFields.2.1⟩,
    _, rfl, disc_length _ _ _ _ (by decide), disc_masterFields.2.2⟩ <;> cases psn <;> decide +kernel

/-- An open DSDIFF container with plain sound data of one channel in bytes 0 to 7, and one with DST sound data. -/
def dffOpened (dst : Bool) : State :=
  { presented [1, 2, 3, 4, 5, 6, 7, 8] with
    sess := .opened
    fx := { Fx.reset with kind := .dsdiff, ch := 1, rate := 2822400, dst := dst, trackCount := 1, dataEnd := 8 } }

/-- An open disc with one two-channel track, whose track list is all zeros in sector 1. -/
def discOpened : State :=
  { State.reset with
    sess := .opened, mediumSize := 4096
    fx := { Fx.reset with
      kind := .sector, trackCount := 1
      sec := { Fx.reset.sec with area1 := { Area.reset with tracks := 1, ch := 2, fmt := 3, rate := 2822400, trlLsn := 1 } } } }

theorem witness_SetTrackSelects :
    (dsfOpened.sess = .opened ∧ areaOperand 2 = some .mulCh ∧ 0 < dsfOpened.fx.tracksIn .mulCh) ∧
    (∀ dst, (dffOpened dst).sess = .opened ∧ 0 < (dffOpened dst).fx.tracksIn .both) ∧
    (discOpened.sess = .opened ∧ areaOperand 1 = some .twoCh ∧ 0 < discOpened.fx.tracksIn .twoCh ∧
      (discOpened.sectorRead (discOpened.fx.sec.place 0 .twoCh).1.trlLsn).1.length = 2048) := by decide +kernel

theorem witness_InitTrackStartsTheSession :
    (dsfOpened.fx.rate = 2822400 * 2 ^ 0 ∧ (0, 3, 10, 147, 5757, 2560, 19, 20) ∈ modeRows) ∧
    (∀ dst, (dffOpened dst).sess ≠ .closed ∧ 0 < (dffOpened dst).fx.tracksIn .both ∧
      ¬ ((dffOpened dst).fx.kind = .dsdiff ∧ (dffOpened dst).fx.dst = true ∧ (dffOpened dst).fx.rate = 22579200)) ∧
    (dsfOpened.sess ≠ .closed ∧ areaOperand 0 = some .both ∧ 0 < dsfOpened.fx.tracksIn .both ∧
      ¬ (dsfOpened.fx.kind = .dsdiff ∧ dsfOpened.fx.dst = true ∧ dsfOpened.fx.rate = 22579200)) ∧
    (discOpened.sess ≠ .closed ∧ areaOperand 1 = some .twoCh ∧ 0 < discOpened.fx.tracksIn .twoCh ∧
      ¬ (discOpened.fx.kind = .dsdiff ∧ discOpened.fx.dst = true ∧ discOpened.fx.rate = 22579200) ∧
      (discOpened.sectorRead (discOpened.fx.sec.place 0 .twoCh).1.trlLsn).1.length = 2048) := by decide +kernel

/-- A DSDIFF container with DST at 22579200 Hz, and a disc whose medium ends within the track list. -/
def dst512 : State := { dffOpened true with fx := { (dffOpened true).fx with rate := 22579200 } }
def cutDisc : State := { discOpened with mediumSize := 4095 }

theorem witness_TrackSelectionRefused :
    (State.reset.sess ≠ .opened ∧ State.reset.sess ≠ .track) ∧ dsfOpened.sess = .opened ∧
    (areaOperand 2 = some .mulCh ∧ discOpened.fx.tracksIn .mulCh ≤ 0) ∧
    (0 < dst512.fx.tracksIn .both ∧ dst512.fx.kind = .dsdiff ∧ dst512.fx.dst = true ∧ dst512.fx.rate = 22579200 ∧
      dst512.sess ≠ .closed) ∧
    (0 < cutDisc.fx.tracksIn .both ∧ cutDisc.fx.kind = .sector ∧ cutDisc.sess = .opened ∧
      (cutDisc.sectorRead (cutDisc.fx.sec.place 0 .both).1.trlLsn).1.length < 2048) := by decide +kernel

theorem witness_DecodeNextCompletes :
    ended.sess = .track ∧ ended.fx.eot = true ∧ ended.pool.ringCount = 0 ∧ ended.pc.convertCalled = false := by
  decide +kernel

theorem witness_RdregReadsEveryRegister : State.reset.pool.ringCount < 256 ∧ 0x20 < 0x21 ∧
    State.reset.selected.slotState ≠ .busy ∧ (oneJob [0]).selected.slotState = .busy := by decide +kernel

theorem witness_WrregWritesAndRefuses :
    (0 < Config.nSlots ∧ Config.nSlots ≤ 255) ∧
    (dsfOpened.sess ≠ .track ∧ dsfOpened.pool.ringCount = 0 ∧ 1 ≤ 18816) ∧ (0x07 ∉ [0x03, 0x04, 0x06, 0x08, 0x09, 0x0A, 0x0B]) ∧
    ended.sess = .track ∧ ((oneJob [0]).sess ≠ .track ∧ (oneJob [0]).pool.ringCount ≠ 0) ∧
    ∃ t : State, exec (.wrreg 3 65535) State.reset = .next (t.okWith (val 65535)) :=
  ⟨⟨Config.nSlots_pos, Config.nSlots_le⟩, by decide +kernel, by decide, rfl, by decide +kernel,
    { State.reset with warnThreshold := 65535 }, rfl⟩

theorem witness_ReadBitsReadsBits :
    ((loaded [1, 2, 3, 4] 0).unitFree ∧ ¬ tooFew (loaded [1, 2, 3, 4] 0) 32) ∧
    ((loaded [1, 2, 3, 4] 1).unitFree ∧ tooFew (loaded [1, 2, 3, 4] 1) 32) ∧
    ((loaded [1] 8).unitFree ∧ ¬ tooFew (loaded [1] 8) 0 ∧ tooFew (loaded [1] 8) 1) := by
  unfold State.unitFree tooFew
  decide +kernel

theorem witness_SignedAndAlignedReads :
    ((loaded [1, 2, 3, 4] 0).unitFree ∧ ¬ tooFew (loaded [1, 2, 3, 4] 0) 32) ∧
    ((loaded [1] 8).unitFree ∧ tooFew (loaded [1] 8) 1) ∧
    ((loaded [1, 2] 1).selected.br.brErr = false ∧ 8 + 8 ≤ (loaded [1, 2] 1).selected.br.totalBits) ∧
    (loaded [1, 2] 9).selected.br.totalBits < 16 + 8 := by
  unfold State.unitFree tooFew
  decide +kernel

theorem witness_RiceReadsRiceCodes :
    ((loaded [0x7C] 0).unitFree ∧ (riceCode 2 (-7)).length ≤ (loaded [0x7C] 0).selected.br.totalBits ∧
      ∀ j, j < (riceCode 2 (-7)).length →
        bitAt (loaded [0x7C] 0).selected.br.inbuf (0 + j) = ((riceCode 2 (-7)).getD j false).toNat) ∧
    (∀ j, j < (riceCode 7 0).length →
        bitAt (loaded [0x80] 0).selected.br.inbuf (0 + j) = ((riceCode 7 0).getD j false).toNat) := by
  unfold State.unitFree
  decide +kernel

theorem witness_LoadAndStart : State.reset.unitFree ∧ 0 ≤ State.reset.din.length ∧
    (converting [7]).unitFree ∧ 1 ≤ (converting [7]).din.length := by
  unfold State.unitFree
  decide +kernel

/-- A decoder that is running, with the least interval. -/
def running : State :=
  { coded [0x5A] with
    slots := [{ (coded [0x5A]).selected with
      ac := { a := 2048, c := 2047, cbptr := 13, acBase := 0, acLen := 8, acInit := false } }] }

theorem witness_AcDecodeDecodesABit :
    (running.unitFree ∧ 2048 ≤ running.selected.ac.a.toNat ∧ running.selected.ac.a.toNat ≤ 4095 ∧
      running.selected.ac.cbptr + 11 < 2 ^ 24 ∧ (acReady running.selected).2.1 < (acReady running.selected).1) ∧
    ((coded [0x5A]).unitFree ∧ (coded [0x5A]).selected.ac.acInit = true ∧
      (coded [0x5A]).selected.ac.cbptr + 11 < 2 ^ 24) := by
  unfold State.unitFree
  decide +kernel

theorem witness_AcFlushTestsTheRest :
    (running.unitFree ∧ running.selected.ac.acLen < 2 ^ 24) ∧ (coded [0x5A]).selected.ac.acLen < 2 ^ 24 := by
  unfold State.unitFree
  decide +kernel

theorem witness_AcQuantizeClamps : answers (exec (.acQuantize 1 15) ended) = [(0, 0)] ∧
    answers (exec (.acQuantize 64 0x8000) ended) = [(0, 63)] ∧ answers (exec (.acQuantize 65 0) ended) = [(2, 65)] := by
  decide +kernel

theorem witness_PlainFrameDecodes :
    ((framed 1 2 [0x40, 1, 2]).unitFree ∧ (framed 1 2 [0x40, 1, 2]).pool.dstCh ≠ 0 ∧ (0x40 : Byte).toNat % 64 = 0 ∧
      8 * (1 + poolFrame (framed 1 2 [0x40, 1, 2])) ≤ (framed 1 2 [0x40, 1, 2]).selected.br.totalBits) ∧
    ((framed 1 2 [0x7F]).unitFree ∧ (0x7F : Byte).toNat % 64 ≠ 0 ∧ 8 ≤ (framed 1 2 [0x7F]).selected.br.totalBits) ∧
    ((framed 1 2 [0, 1]).unitFree ∧ (framed 1 2 [0, 1]).selected.br.totalBits < 8 * (1 + poolFrame (framed 1 2 [0, 1]))) ∧
    (∃ s : State, s.unitFree ∧ s.pool.dstCh ≠ 0 ∧ (bufByte s.selected.br.inbuf 0).toNat = 0 ∧
      s.selected.br.totalBits = 0) := by
  unfold State.unitFree
  refine ⟨by decide +kernel, by decide +kernel, by decide +kernel,
    { framed 1 2 [] with slots := [{ Slot.reset with br := { Slot.reset.br with inbuf := [0] } }] }, ?_⟩
  decide +kernel

theorem witness_FrameResult : ((framed 2 4 frameB).selected.frameDecode 2 4).slotStatus = .ok ∧
    ((framed 1 2 [1]).selected.frameDecode 1 2).slotStatus = .frameDecodeError := by decide +kernel

theorem witness_DstDecodeAndSlotRead :
    ((framed 2 4 frameB).unitFree ∧ (framed 2 4 frameB).pool.dstCh ≠ 0 ∧
      ((framed 2 4 frameB).selected.frameDecode 2 4).slotStatus = .ok) ∧
    ((framed 1 2 [1]).unitFree ∧ ((framed 1 2 [1]).selected.frameDecode 1 2).slotStatus ≠ .ok) ∧
    (State.reset.unitFree ∧ State.reset.pool.dstCh = 0) := by
  unfold State.unitFree
  decide +kernel

theorem witness_DecodeDependsOnlyOnTheFrame :
    (framed 2 4 frameB).selected.br.totalBits = (oneJob frameB).selected.br.totalBits ∧
    (framed 2 4 frameB).selected ≠ (oneJob frameB).selected ∧
    ∀ j, bufByte (framed 2 4 frameB).selected.br.inbuf j = bufByte (oneJob frameB).selected.br.inbuf j :=
  ⟨rfl, by decide +kernel, fun _ => rfl⟩

theorem witness_FrameRowsRun :
    (((oneJob [0xFC, 1]).slot 0).slotState = .busy ∧ ((oneJob [0xFC, 1]).slot 0).br.inbuf = 0xFC :: [1] ∧
      8 ≤ ((oneJob [0xFC, 1]).slot 0).br.totalBits ∧ (0xFC : Byte) = BitVec.ofNat 8 (128 + 124)) ∧
    (((oneJob [0x40]).slot 0).br.inbuf = 0x40 :: [] ∧ 8 ≤ ((oneJob [0x40]).slot 0).br.totalBits ∧
      (0x40 : Byte) = BitVec.ofNat 8 (1 * 64)) := by decide +kernel

/-! ### Headers of coded frames -/

/-- Bits packed into bytes, the first most significant. -/
def packed : List Bool → List Byte
  | b0 :: b1 :: b2 :: b3 :: b4 :: b5 :: b6 :: b7 :: rest =>
    BitVec.ofBoolListBE [b0, b1, b2, b3, b4, b5, b6, b7] :: packed rest
  | _ => []

/-- A header with the extreme values: explicit segments of the channels apart, one channel with none, tables raw and
Rice-coded, coefficients and probabilities at the ends of their ranges. -/
def header : Header where
  copySeg := false
  sameFseg := false
  fseg := { resolution := 16, seglen := [[8, 9], []] }
  samePseg := true
  pseg := { resolution := 1, seglen := [[4], [4]] }
  copyMap := false
  sameFmap := false
  ftab := [[0, 1, 0], [1]]
  samePmap := true
  ptab := [[0, 1], [0, 1]]
  half := [true, false]
  filters := [([-256, 255], some (0, 7)), ([3], none)]
  ptables := [([128], none), ([1, 128, 64, 64], some (2, 0))]

theorem header_legal : header.Legal 2 400 where
  fseg := by unfold segmentationLegal; decide +kernel
  pseg := by rw [if_neg (by decide)]; unfold segmentationLegal; decide +kernel
  ftab := ⟨rfl, rfl, by decide, by simp [header, mappedNumbers, numbersLegal], by decide⟩
  ptab := by
    rw [if_neg (by decide)]
    exact ⟨rfl, rfl, by decide, by simp [header, mappedNumbers, numbersLegal], by decide⟩
  half := rfl
  filters := by simp [header, codingLegal]
  ptables := by simp [header, codingLegal]

/-- A slot with that header at the front of its frame. -/
def headed : Slot :=
  { Slot.reset with br := { inbuf := packed (header.bits 400 ++ List.replicate 8 false), totalBits := (header.bits 400).length,
                            pos := 0, brErr := false } }

theorem witness_FrameRowsRun_header : header.Legal 2 400 ∧ (header.bits 400).length ≤ headed.br.totalBits ∧
    ∀ j, j < (header.bits 400).length →
      bitAt headed.br.inbuf j = ((header.bits 400).getD j false).toNat :=
  ⟨header_legal, Nat.le_refl _, fun j h => by
    have hb : (List.range 404).map (bitAt headed.br.inbuf) = (header.bits 400).map Bool.toNat := by decide +kernel
    have hl : (header.bits 400).length = 404 := by decide +kernel
    have := congrArg (·[j]?) hb
    simp only [List.getElem?_map, List.getElem?_range (hl ▸ h), Option.map_some] at this
    rw [List.getElem?_eq_getElem h, Option.map_some, Option.some.injEq] at this
    rw [this, List.getD_eq_getElem?_getD, List.getElem?_eq_getElem h, Option.getD_some]⟩

/-- Frame B with its last bytes changed: the code does not end as it must. -/
def frameC : List Byte := frameB ++ [0, 1]

theorem witness_FrameResult_coded :
    (bitAt (framed 2 4 frameB).selected.br.inbuf 0 = 1 ∧ 2 ≤ 6 ∧ 4 ≤ 18816 ∧
      ((framed 2 4 frameB).selected.frameDecode 2 4).slotStatus = .ok) ∧
    (bitAt (framed 2 4 frameC).selected.br.inbuf 0 = 1 ∧
      ((framed 2 4 frameC).selected.frameDecode 2 4).slotCause = .acTermination) := by decide +kernel

/-! ### The ring -/

/-- A state with one slot listed: slot 0, the others at reset. -/
theorem slot_single (s : State) (sl : Slot) (h : s.slots = [sl]) (k : Nat) :
    s.slot k = if k = 0 then sl else Slot.reset := by
  rw [State.slot, h]
  cases k with
  | zero => rfl
  | succ k => exact slotAt_nil k

/-- One job in the ring, whatever the number of slots is: a plain frame of 2 bytes in slot 0, of handle 2^24 + 5. -/
def oneInRing : State :=
  { oneJob [0x00, 0x12, 0x34] with
    slots := [{ ((oneJob [0x00, 0x12, 0x34]).slot 0) with slotSeq := 0x01000005 }]
    pool := { dstCh := 1, dstFb := 2, head := 1 % Config.nSlots, tail := 0, ringCount := 1, submitSeq := 0x01000006
              collectSeq := 0x01000005, draining := false } }

theorem oneInRing_slot (k : Nat) : oneInRing.slot k = if k = 0 then oneInRing.slot 0 else Slot.reset :=
  slot_single oneInRing _ rfl k

theorem oneInRing_ringInv : oneInRing.RingInv where
  count_le := Config.nSlots_pos
  tail_lt := Config.nSlots_pos
  seq := by decide +kernel
  head_eq := by simp [State.ringSlot, oneInRing]
  jobs j hj := by
    have hj : j = 0 := by simpa [oneInRing] using hj
    subst hj
    have h0 : oneInRing.ringSlot 0 = 0 := by simp [State.ringSlot, oneInRing]
    rw [h0]
    decide +kernel
  others k hk := by
    have h0 : oneInRing.ringSlot 0 = 0 := by simp [State.ringSlot, oneInRing]
    rw [oneInRing_slot, if_neg]
    · rfl
    · rw [← h0]
      exact hk 0 Nat.one_pos

/-- The result of the job in the ring. -/
theorem oneInRing_jobs : jobs oneInRing = [(0, 2, [0x12, 0x34])] := by
  have h0 : oneInRing.ringSlot 0 = 0 := by simp [State.ringSlot, oneInRing]
  have h1 : jobResult oneInRing (oneInRing.slot 0) = (0, 2, [0x12, 0x34]) := by decide +kernel
  have h2 : jobs oneInRing = [jobResult oneInRing (oneInRing.slot (oneInRing.ringSlot 0))] := rfl
  rw [h2, h0, h1]

/-- An empty ring for one channel of 2 bytes, with bytes on DIN. -/
def emptyRing : State := { framed 1 2 [] with din := [0x00, 0x12, 0x34] }

theorem emptyRing_ringInv : emptyRing.RingInv where
  count_le := Nat.zero_le _
  tail_lt := Config.nSlots_pos
  seq := by decide +kernel
  head_eq := by simp [State.ringSlot, emptyRing, framed, loaded, State.reset, Pool.reset]
  jobs j hj := absurd hj (Nat.not_lt_zero j)
  others k _ := by
    rw [slot_single emptyRing _ rfl k]
    split <;> rfl

theorem witness_PoolInitAndRefusals :
    (emptyRing.sess ≠ .track ∧ emptyRing.pool.ringCount = 0 ∧ emptyRing.pool.dstCh ≠ 0 ∧ emptyRing.pool.draining = false) ∧
    (oneInRing.sess ≠ .track ∧ oneInRing.pool.ringCount ≠ 0 ∧ 6 ≠ oneInRing.pool.collectSeq.toNat % 2 ^ 24) ∧
    (State.reset.sess ≠ .track ∧ State.reset.pool.dstCh = 0) := by decide +kernel

theorem witness_SubmitCompletes : (ringOpen emptyRing ∧ 1 ≤ 3 ∧ 3 ≤ emptyRing.din.length) ∧
    (oneInRing.sess ≠ .track ∧ oneInRing.pool.dstCh ≠ 0) :=
  ⟨⟨⟨by decide +kernel, by decide +kernel, rfl, Config.nSlots_pos⟩, by decide +kernel⟩, by decide +kernel⟩

theorem witness_SubmissionsJoinTheRing : emptyRing.RingInv ∧ ringOpen emptyRing ∧ 1 ≤ 3 ∧ 3 ≤ emptyRing.din.length :=
  ⟨emptyRing_ringInv, ⟨by decide +kernel, by decide +kernel, rfl, Config.nSlots_pos⟩, by decide +kernel⟩

theorem witness_CollectTakesTheOldest :
    oneInRing.RingInv ∧ oneInRing.sess ≠ .track ∧ jobs oneInRing = (0, 2, [0x12, 0x34]) :: [] :=
  ⟨oneInRing_ringInv, by decide +kernel, oneInRing_jobs⟩

/-! ### The converter -/

/-- The small converter with the counts of what it has received: two bytes, so two samples. -/
theorem smallPc_inv : ((smallPc.convert 0 [0x05, 0xFF]).hist.length = 1 ∧ (smallPc.convert 0 [0x05, 0xFF]).rxCount = 16 ∧
    (smallPc.convert 0 [0x05, 0xFF]).pcmN = 2) ∧ smallPc.Inv := by
  refine ⟨by decide +kernel, rfl, ?_, rfl, Nat.zero_le _⟩
  simp [smallPc, Pc.reset]

/-- One job in the ring of a session at the end of its track, before and after the first block. -/
def retiring (called : Bool) : State :=
  { oneInRing with sess := .track, fx := { Fx.reset with eot := true }, pc := { smallPc with convertCalled := called } }

theorem retiring_ringInv (called : Bool) : (retiring called).RingInv := by
  have h := oneInRing_ringInv
  exact ⟨h.count_le, h.tail_lt, h.seq, h.head_eq, h.jobs, h.others⟩

theorem witness_DecodeNextRetiresTheOldest :
    (∀ called, (retiring called).sess = .track ∧ (retiring called).fx.eot = true ∧ (retiring called).RingInv ∧
      (retiring called).pc.Inv ∧ jobs (retiring called) = (0, 2, [0x12, 0x34]) :: []) ∧
    ((ended.sess = .track ∧ ended.fx.eot = true ∧ ended.pool.ringCount = 0) ∧
      { smallPc with convertCalled := true }.convertCalled = true ∧ { smallPc with convertCalled := true }.Inv) := by
  have hi := smallPc_inv.2
  exact ⟨fun called => ⟨rfl, rfl, retiring_ringInv called, ⟨hi.channels, hi.received, hi.produced, hi.held⟩, oneInRing_jobs⟩,
    by decide +kernel, rfl, ⟨hi.channels, hi.received, hi.produced, hi.held⟩⟩

theorem witness_PcInitSetsTheMode : State.reset.sess ≠ .track ∧ (3, 3, 10, 1176, 46049, 2560, 19, 20) ∈ modeRows ∧
    (0, 0, 1, 32, 575, 1176, 8, 9) ∈ modeRows := by decide +kernel

theorem witness_ConverterReads :
    ((converting []).pc.t ≠ 0 ∧ (converting []).pc.delayClamped = { num := 575, den := 64 } ∧
      (575, 64, 0x4021F80000000000) ∈ delayRows) ∧
    ((ones 2).sess ≠ .track ∧ (ones 2).pc.t ≠ 0 ∧ (ones 2).pc.pcmN * (ones 2).pc.ch ≤ (ones 2).pc.pcmBuf.length) ∧
    State.reset.pc.t = 0 ∧ State.reset.sess ≠ .track := by decide +kernel

theorem witness_ConvertCountsSamples :
    (converterReady (converting [5]) ∧ 1 % (converting [5]).pc.ch = 0 ∧ 1 / (converting [5]).pc.ch ≤ 4704 ∧
      1 ≤ (converting [5]).din.length ∧ (converting [5]).pc.Inv) ∧
    (converterReady (converting []) ∧ 4704 * (converting []).pc.k < 4705 / (converting []).pc.ch) ∧
    (converterReady { converting [] with pc := { smallPc with ch := 2 } } ∧ 3 % 2 ≠ 0) :=
  ⟨⟨by unfold converterReady; decide +kernel, by decide +kernel, by decide +kernel, by decide +kernel, smallPc_inv.2⟩,
    by unfold converterReady; decide +kernel, by unfold converterReady; decide +kernel⟩

theorem witness_ConvertChunks : smallPc.hist.length = smallPc.ch ∧ [0x05, 0xFF].length % smallPc.ch = 0 := by decide +kernel

theorem witness_ConvertedSamples : smallPc.Inv ∧ smallPc.h.length = smallPc.t ∧ 0 < smallPc.u ∧
    [0x05, 0xFF].length % smallPc.ch = 0 ∧ 1 < (smallPc.convert 0 [0x05, 0xFF]).pcmN ∧ 0 < smallPc.ch :=
  ⟨smallPc_inv.2, by decide +kernel⟩

theorem witness_DegibbsFadesTheEdge :
    (converterReady (ones 18) ∧ 17 ≤ (ones 18).pc.pcmN ∧ 17 * (ones 18).pc.delayClamped.den < 2 * (ones 18).pc.delayClamped.num) ∧
    (18 ≤ (ones 18).pc.pcmN ∧ 2 * (ones 18).pc.delayClamped.num ≤ 18 * (ones 18).pc.delayClamped.den ∧
      (ones 18).pc.pcmBuf[17 * (ones 18).pc.ch + 0]? = some 0x3F800000) ∧
    (ones 18).pc.pcmN < 19 := by
  unfold converterReady
  decide +kernel

theorem witness_PackRoundsAndSaturates :
    (converterReady (ones 2) ∧ 1 + 1 ≤ (ones 2).pc.pcmN ∧ (ones 2).pc.pcmN * (ones 2).pc.ch ≤ (ones 2).pc.pcmBuf.length) ∧
    binary32.value (0x3F800000#32).toNat = .finite false 8388608 (-23) ∧ (ones 2).pc.pcmN < 1 + 2 := by
  unfold converterReady
  decide +kernel

theorem witness_SamplesStayInRange : smallPc.hist.length = smallPc.ch ∧ (∀ x ∈ smallPc.h, f64Finite x = true) ∧
    converted smallPc 0 [0x05] = [0xBE000000#32] :=
  ⟨rfl, by simp only [smallPc, List.forall_mem_cons]; exact ⟨by decide +kernel, by decide +kernel, by decide +kernel, nofun⟩,
    by decide +kernel⟩

theorem witness_CoefficientTables : (0, 0, 1, 32, 575, 1176, 8, 9) ∈ modeRows ∧
    0 < 575 ∧ 1 ≠ (575 - 1) / 2 := by decide +kernel

/-- A cut-off whose denominator is within reach of the table has a node. -/
theorem witness_CoefficientTables_node (a b m : Nat) (hb : 0 < b) :
    m + b ≠ m ∧ ∃ z : Int, 2 * ((a : ℚ) / (2 * b)) * (((m + b : Nat) : ℚ) - m) = z := by
  refine ⟨by omega, a, ?_⟩
  have : (b : ℚ) ≠ 0 := by positivity
  push_cast
  field_simp
  ring

/-! ### The extractor -/

theorem witness_ExtractorReads : dsfReady.fx.kind ≠ .none ∧ State.reset.fx.kind = .none := by decide +kernel

theorem witness_ReadFrameCompletes : trackReady dsfReady ∧ dsfReady.fx.frameIndex + 1 < 2 ^ 32 ∧
    (State.reset.sess ≠ .track ∧ ¬ trackReady State.reset) := by
  unfold trackReady
  decide +kernel

theorem witness_DsfFramesInterleaveTheBlocks :
    trackReady dsfReady ∧ dsfReady.fx.eot = false ∧ dsfReady.fx.kind = .dsf ∧ dsfReady.answers = [] ∧
    Memory.wf dsfReady.medium = true ∧ 0 < dsfReady.fx.ch ∧ 0 < dsfReady.fx.dsf.blockSize ∧
    (dsfReady.fx.dataEnd - dsfReady.fx.dataStart) % (dsfReady.fx.ch * dsfReady.fx.dsf.blockSize) = 0 ∧
    dsfReady.fx.dataEnd ≤ dsfReady.mediumSize.toNat ∧ groupHeld dsfReady ∧
    dsfReady.fx.dsf.pos < (dsfReady.fx.dataEnd - dsfReady.fx.dataStart) / dsfReady.fx.ch := by
  unfold trackReady
  exact ⟨by decide +kernel, by decide +kernel, rfl, rfl, by decide +kernel, by decide +kernel, by decide +kernel,
    by decide +kernel, by decide +kernel, fun h => absurd h (by decide +kernel), by decide +kernel⟩

/-- The DSDIFF track selected, the cursor at byte 5 of 8, frames of 2 bytes; `answers` as given. -/
def dffReady (answers : List MediumAnswer) : State :=
  { dffOpened false with
    answers := answers
    fx := { (dffOpened false).fx with
      trackSelected := true, cursor := 5, frameTotal := 4, dff := { Fx.reset.dff with frameBytes := 2 } } }

theorem witness_DffFramesAndBadReads :
    (∀ as, trackReady (dffReady as) ∧ (dffReady as).fx.eot = false ∧ (dffReady as).fx.kind = .dsdiff ∧
      (dffReady as).fx.dst = false ∧ min (dffReady as).fx.dff.frameBytes ((dffReady as).fx.dataEnd - (dffReady as).fx.cursor) = 2 ∧
      2 - 2 % (dffReady as).fx.ch = 2) ∧
    ((dffReady []).mediumRead 5 2).1.length = 2 ∧ ((dffReady [.bytes [9]]).mediumRead 5 2).1.length < 2 ∧
    ({ dffReady [] with fx := { (dffReady []).fx with cursor := 8 } }.fx.dataEnd ≤ 8) := by
  unfold trackReady
  exact ⟨fun _ => ⟨⟨rfl, rfl⟩, rfl, rfl, rfl, rfl, (by decide : 2 - 2 % 1 = 2)⟩, by decide +kernel, by decide +kernel, by decide +kernel⟩

/-- The DST track selected, with or without an index; a disc's track selected. -/
def dstReady (index : Nat) : State :=
  { dffOpened true with
    fx := { (dffOpened true).fx with
      trackSelected := true, frameTotal := 4, dff := { Fx.reset.dff with dstiOff := index } } }
def discReady : State := { discOpened with fx := { discOpened.fx with trackSelected := true } }

theorem witness_SeekCompletes :
    (trackReady dsfReady ∧ dsfReady.fx.kind = .dsf ∧ 1 ≤ dsfReady.fx.frameTotal ∧ dsfReady.fx.frameTotal < 2) ∧
    (trackReady (dffReady []) ∧ (dffReady []).fx.kind = .dsdiff ∧ (dffReady []).fx.dst = false ∧
      4 ≤ (dffReady []).fx.frameTotal ∧ (dffReady []).fx.frameTotal < 5) ∧
    (∀ i, trackReady (dstReady i) ∧ (dstReady i).fx.kind = .dsdiff ∧ (dstReady i).fx.dst = true ∧
      (dstReady i).fx.dff.dstiOff = i ∧ 4 ≤ (dstReady i).fx.frameTotal) ∧
    (trackReady discReady ∧ discReady.fx.kind = .sector) ∧ ¬ trackReady dsfOpened ∧ dsfOpened.sess ≠ .track := by
  unfold trackReady
  exact ⟨by decide +kernel, by decide +kernel, fun _ => ⟨⟨rfl, rfl⟩, rfl, rfl, rfl, Nat.le_refl 4⟩, by decide +kernel,
    by decide +kernel, by decide +kernel⟩

/-! ### Discs and DSDIFF DST frames -/

/-- A sector with two audio packets, of three bytes that continue a frame and of two that begin one, then a packet that is
no audio packet. -/
def discPackets : List Byte :=
  [0x61, 0x10, 0x03, 0x90, 0x02, 0x18, 0x01, 1, 2, 3, 4, 5, 6] ++ List.replicate 2035 0

/-- A disc's track of three sectors: `held` says whether the first is read already and its first packet used; the second
comes short. -/
def discTrack (held : Bool) : State :=
  { discReady with
    answers := if held then [.bytes []] else [.bytes discPackets, .bytes []]
    mediumSize := 0x100000
    fx := { discReady.fx with sec := { discReady.fx.sec with
      trackStartLsn := 7, trackLenLsn := 3, curLsn := if held then 8 else 7, secbuf := if held then discPackets else []
      pktCount := if held then 3 else 0, secDst := held, pktIdx := if held then 1 else 0, bufOff := if held then 10 else 0
      pkt := if held then [⟨false, 2, 3⟩, ⟨true, 2, 2⟩, ⟨false, 3, 1⟩] else [] } } }

theorem discTrack_held : ∀ held, sectorHeld (discTrack held) := by
  intro held
  unfold sectorHeld
  cases held
  · exact .inl (by decide)
  · exact .inr (by decide +kernel)

theorem discTrack_items :
    discItems (discTrack true) = [.packet 7 true true [4, 5], .lost true 8] ∧
    discItems (discTrack false) = [.packet 7 false true [1, 2, 3], .packet 7 true true [4, 5], .lost true 8] := by
  decide +kernel

theorem witness_ReadFrameCompletes_disc : ∀ held, trackReady (discTrack held) ∧ (discTrack held).fx.eot = false ∧
    (discTrack held).fx.kind = .sector ∧ (discTrack held).fx.sec.asmStarted = false ∧ sectorHeld (discTrack held) ∧
    (discTrack held).fx.frameIndex + 1 < 2 ^ 32 := by
  intro held
  have := discTrack_held held
  unfold trackReady
  cases held <;> exact ⟨by decide, rfl, rfl, rfl, this, by decide⟩

/-- A medium with an index of three entries at offset 4 (the frame at 66, one declared too large, one that the medium ends
within) and from offset 40 on an unknown chunk, a frame of three bytes and a frame declared too large. -/
def dstMedium : List Byte :=
  [0, 0, 0, 0] ++ beBytes 8 66 ++ beBytes 4 3 ++ beBytes 8 66 ++ beBytes 4 112898 ++ beBytes 8 82 ++ beBytes 4 2 ++
    (DffChunk.mk [1, 2, 3, 4] [9] 0).bytes ++ (DffChunk.mk magicDstf [7, 8, 9] 0).bytes ++ magicDstf ++ beBytes 8 112898 ++ [1]

/-- Its track of DST frames, with its index or without it, at the cursor and the frame given. -/
def dstTrack (index : Nat) (cursor frame : Nat) : State :=
  { presented dstMedium with
    sess := .opened
    fx := { Fx.reset with
      kind := .dsdiff, ch := 1, rate := 2822400, dst := true, trackCount := 1, dataStart := 40, dataEnd := 83
      trackSelected := true, frameTotal := 4, frameIndex := frame, cursor := cursor
      dff := { Fx.reset.dff with dstiOff := index, dstiCount := 9 } } }

/-- The index entry of a frame: the bytes that come, the offset and the length. -/
def entryOf (s : State) : Nat × Nat × Nat :=
  let e := (s.mediumRead (s.fx.dff.dstiOff + 12 * s.fx.frameIndex) 12).1
  (e.length, beNat (e.take 8), beNat (e.drop 8))

/-- The chunk header at the cursor: the bytes that come, the identifier and the size. -/
def headerOf (s : State) : Nat × List Byte × Nat :=
  let h := (s.mediumRead s.fx.cursor 12).1
  (h.length, h.take 4, beNat (h.drop 4))

theorem witness_DffFramesAndBadReads_dst :
    (∀ i p n, trackReady (dstTrack i p n) ∧ (dstTrack i p n).fx.eot = false ∧ (dstTrack i p n).fx.kind = .dsdiff ∧
      (dstTrack i p n).fx.dst = true ∧ (dstTrack i p n).fx.dff.dstiOff = i ∧ (dstTrack i p n).fx.frameIndex = n ∧
      (dstTrack i p n).fx.dff.dstiCount = 9 ∧ (dstTrack i p n).fx.cursor = p ∧ (dstTrack i p n).fx.dataEnd = 83 ∧
      (dstTrack i p n).mediumSize = 83) ∧
    entryOf (dstTrack 4 0 0) = (12, 66, 3) ∧ entryOf (dstTrack 4 0 1) = (12, 66, 112898) ∧
    entryOf (dstTrack 4 0 2) = (12, 82, 2) ∧ (entryOf (dstTrack 4 0 8)).1 = 0 ∧
    headerOf (dstTrack 0 40 0) = (12, [1, 2, 3, 4], 1) ∧ headerOf (dstTrack 0 54 0) = (12, magicDstf, 3) ∧
    headerOf (dstTrack 0 70 0) = (12, magicDstf, 112898) ∧
    (headerOf { dstTrack 0 40 0 with answers := [.bytes [1]] }).1 < 12 ∧ 83 < 72 + 12 :=
  ⟨fun _ _ _ => ⟨⟨rfl, rfl⟩, rfl, rfl, rfl, rfl, rfl, rfl, rfl, rfl, rfl⟩, by decide +kernel⟩

theorem test_read_frame_dst : emitted (exec .readFrame (dstTrack 4 0 0)) = [7, 8, 9] ∧
    emitted (exec .readFrame (dstTrack 0 40 0)) = [7, 8, 9] := by decide +kernel

theorem dstTrack_frames : FramesBetween (dstTrack 0 0 0) 2 40 83 := by
  refine .other 1 40 83 1 [1, 2, 3, 4] ?_ ?_ (.frame 1 54 83 3 ?_ (.frame 0 70 83 112898 ?_ ?_))
  case refine_5 => exact .here 83
  all_goals first | (unfold chunkHeader; decide +kernel) | decide

theorem witness_SeekCompletes_dst :
    trackReady (dstTrack 0 0 0) ∧ (dstTrack 0 0 0).fx.kind = .dsdiff ∧ (dstTrack 0 0 0).fx.dst = true ∧
    (dstTrack 0 0 0).answers = [] ∧ FramesBetween (dstTrack 0 0 0) 2 (dstTrack 0 0 0).fx.dataStart 83 ∧
    ((dstReady 0).fx.dst = true ∧ (dstReady 0).answers = [] ∧ ∀ q, ¬ FramesBetween (dstReady 0) 1 (dstReady 0).fx.dataStart q) := by
  refine ⟨⟨rfl, rfl⟩, rfl, rfl, rfl, dstTrack_frames, rfl, rfl, fun q h => ?_⟩
  cases h with
  | frame n p q len h _ => exact absurd h.1 (by decide)
  | other n p q len id h _ _ => exact absurd h.1 (by decide)

/-! ### Reading ahead -/

/-- An outcome is the next state it is seen to have. -/
theorem next_of_after {o : Out} {t : State} (h : after id o = some t) : o = .next t := by
  cases o with
  | next u => exact congrArg _ (Option.some.inj h)
  | _ => nomatch h

/-- A session on a plain DSDIFF track with one frame left, of bytes 7 and 8, or none; the ring is empty. -/
def lastFrame (cursor : Nat) : State :=
  { dffReady [] with
    sess := .track, pool := { Pool.reset with dstCh := 1, dstFb := 2 }
    fx := { (dffReady []).fx with cursor := cursor, frameIndex := cursor / 2 } }

theorem lastFrame_read : readsFrame (lastFrame 6) (lastFrame 8) 1 0 [7, 8] :=
  ⟨next_of_after (by decide +kernel), rfl, rfl, rfl⟩

theorem lastFrame_submit : submits (lastFrame 8) ((lastFrame 8).submitDsdBody [7, 8]) (.submitDsd 2) [7, 8] := by
  have hf : ({ lastFrame 8 with sess := .opened, din := [7, 8] } : State).ringFull = false :=
    decide_eq_false (Nat.not_le.mpr Config.nSlots_pos)
  refine ⟨?_, rfl, rfl, rfl⟩
  rw [exec, execSubmitDsd, State.unlessOwned, if_neg (by decide), if_neg (by decide), if_neg (by decide), hf]
  rfl

theorem track_ends (s : State) (h : s.fx = (lastFrame 8).fx) :
    readsFrame s { s with fx := { s.fx with eot := true } } 0 0 [] := by
  have hd : s.fx.dataEnd = s.fx.cursor ∧ s.fx.eot = false ∧ s.fx.kind = .dsdiff ∧ s.fx.dst = false ∧
    s.fx.trackSelected = true := by rw [h]; decide
  simp [readsFrame, exec, execReadFrame, State.unlessOwned, State.withTrack, State.readFrameBody, State.readKind,
    State.readDff, State.readDffDsd, hd, State.setFx, State.ok, State.respond, val]

theorem witness_DecodeNextRetiresTheOldest_ahead :
    ∃ n t, 1 ≤ n ∧ n < 2 ^ 70 ∧ (lastFrame 6).sess = .track ∧ ReadAhead n (lastFrame 6) t ∧ ¬ readsOn t := by
  have h0 : readsOn (lastFrame 6) := ⟨rfl, Config.nSlots_pos⟩
  by_cases h : readsOn ((lastFrame 8).submitDsdBody [7, 8])
  · exact ⟨2, _, by decide, by decide, rfl, .dsd 1 _ _ _ _ _ h0 lastFrame_read (by decide) lastFrame_submit
      (.ended 0 _ _ _ h (track_ends _ rfl) (.here _)), fun h => nomatch h.1⟩
  · exact ⟨1, _, by decide, by decide, rfl, .dsd 0 _ _ _ _ _ h0 lastFrame_read (by decide) lastFrame_submit (.here _), h⟩

/-! ### The invariants: a state with a job in the ring, or with a track selected, meets them, and it steps -/

/-- A state whose next command is `NOP` steps. -/
theorem step_next_of_nop (s : State) (h : s.rst = false ∧ s.turns = [] ∧ s.stuck = false ∧ s.held = none)
    (hc : s.cmd = [0]) : ∃ t, step s = .next t := by
  refine ⟨({ s with cmd := [] } : State).respond 0, ?_⟩
  unfold step State.fetch State.fetchSequencer State.fetchCommand
  simp only [h, hc]
  rfl

theorem witness_RingStaysConsistent : ∃ s, s.RingInv ∧ s.pool.ringCount = 1 ∧ ∃ t, step s = .next t :=
  ⟨{ oneInRing with cmd := [0] }, ⟨oneInRing_ringInv.count_le, oneInRing_ringInv.tail_lt, oneInRing_ringInv.seq,
    oneInRing_ringInv.head_eq, oneInRing_ringInv.jobs, oneInRing_ringInv.others⟩, rfl,
    step_next_of_nop _ ⟨rfl, rfl, rfl, rfl⟩ rfl⟩

theorem witness_CursorsStayInBounds : ∃ s, s.cursorInv ∧ s.fx.SectorInv ∧ s.fx.sec.pktCount = 7 ∧ ∃ t, step s = .next t := by
  refine ⟨{ loaded [1, 2] 16 with
    cmd := [0]
    fx := { Fx.reset with sec := { Fx.reset.sec with
      pktCount := 7, pktIdx := 7, asmStarted := true, asmDst := true, asmSize := 112897, curLsn := 5, trackStartLsn := 3
      trackLenLsn := 2 } } }, ?_, ⟨by decide +kernel, by decide +kernel, by decide +kernel⟩, rfl,
    step_next_of_nop _ ⟨rfl, rfl, rfl, rfl⟩ rfl⟩
  intro k
  rw [slot_single _ _ rfl k]
  split <;> decide +kernel

theorem witness_RegistersStayLegal : ∃ s, s.RegInv ∧ s.fx.kind = .dsf ∧ ∃ t, step s = .next t :=
  ⟨{ dsfReady with cmd := [0] },
    ⟨Config.nSlots_pos, by decide +kernel, by decide +kernel, by decide +kernel, by decide +kernel, by decide +kernel,
      ⟨fun _ => ⟨by decide +kernel, by decide +kernel, by decide +kernel⟩, fun h => absurd rfl h, fun h => absurd rfl h⟩⟩,
    rfl, step_next_of_nop _ ⟨rfl, rfl, rfl, rfl⟩ rfl⟩

theorem witness_SampleCountLawHolds : ∃ s, s.pc.Inv ∧ s.pc.t = 3 ∧ ∃ t, step s = .next t :=
  ⟨{ converting [] with cmd := [0] }, smallPc_inv.2, rfl, step_next_of_nop _ ⟨rfl, rfl, rfl, rfl⟩ rfl⟩

theorem witness_NoRunEverStops : ∃ s : State, s.intervalInv ∧ s.selected.ac.acInit = false := by
  refine ⟨running, ?_, rfl⟩
  intro k
  rw [slot_single running _ rfl k]
  split <;> decide +kernel

end Sys2Proof.Tests
end

section
/-! PROOFS (O57). Every step keeps the writable registers, the channel counts and the container's geometry legal
(10_state.md R51, R52). A step of most commands leaves the values that `State.RegInv` speaks of as they were: they are
gathered in `State.regs`, so that such a step is an equation. The rest is where those values are written: the checks of
`OPEN`, the track selections, `POOL_INIT`, `PC_INIT`, `WRREG`, `CLOSE` and the resets. -/

namespace Sys2Proof.Machine

/-! ## What the invariant speaks of -/

/-- The fields of the extractor that `Fx.Inv` speaks of. -/
structure Geometry where
  kind : FxKind
  rate : Nat
  ch : Nat
  area1 : Area
  area2 : Area

/-- The geometry an extractor holds. -/
def Fx.geometry (fx : Fx) : Geometry :=
  { kind := fx.kind, rate := fx.rate, ch := fx.ch, area1 := fx.sec.area1, area2 := fx.sec.area2 }

/-- The values that `State.RegInv` speaks of. -/
structure Regs where
  slotSel : Nat
  ditherDepth : Nat
  dstFb : Nat
  dstCh : Nat
  ch : Nat
  pcCh : Nat
  geometry : Geometry

/-- The values of a state that `State.RegInv` speaks of. -/
def State.regs (s : State) : Regs :=
  { slotSel := s.slotSel, ditherDepth := s.ditherDepth, dstFb := s.pool.dstFb, dstCh := s.pool.dstCh, ch := s.ch,
    pcCh := s.pc.ch, geometry := s.fx.geometry }

theorem Fx.Inv.of_geometry {fx fx' : Fx} (h : fx.Inv) (hg : fx'.geometry = fx.geometry) : fx'.Inv := by
  simp only [Fx.geometry, Geometry.mk.injEq] at hg
  obtain ⟨hkind, hrate, hch, harea1, harea2⟩ := hg
  exact ⟨by rw [hkind, hrate, hch]; exact h.file, by rw [harea1]; exact h.area1, by rw [harea2]; exact h.area2⟩

/-- A state with the same values is as legal. -/
theorem State.RegInv.of_regs {s t : State} (h : s.RegInv) (ht : t.regs = s.regs) : t.RegInv := by
  simp only [State.regs, Regs.mk.injEq] at ht
  obtain ⟨hsel, hdepth, hfb, hdst, hch, hpc, hfx⟩ := ht
  exact ⟨hsel ▸ h.slotSel, hdepth ▸ h.ditherDepth, hfb ▸ h.dstFb, hdst ▸ h.dstCh, hch ▸ h.ch, hpc ▸ h.pcCh,
    h.fx.of_geometry hfx⟩

/-- An extractor operation that ends with a legal geometry keeps the registers legal. -/
theorem State.RegInv.of_fxOnly {s t : State} (h : s.RegInv) (ho : s.FxOnly t) (ht : t.fx.Inv) : t.RegInv := by
  rw [ho.frame]
  exact ⟨h.slotSel, h.ditherDepth, h.dstFb, h.dstCh, h.ch, h.pcCh, ht⟩

/-- An extractor operation that keeps the geometry keeps all the values. -/
theorem State.FxOnly.regs {s t : State} (ho : s.FxOnly t) (hg : t.fx.geometry = s.fx.geometry) : t.regs = s.regs := by
  rw [ho.frame]
  exact congrArg (fun g => { s.regs with geometry := g }) hg

theorem Fx.reset_inv : Fx.reset.Inv :=
  ⟨fun h => by simp [Fx.reset] at h, fun h => absurd rfl h, fun h => absurd rfl h⟩

/-- Whatever the ports hold, the reset values are legal (70_reset_and_hazards.md R701). -/
theorem State.toReset_regInv (s : State) : s.toReset.RegInv :=
  have hreset : State.reset.RegInv :=
    ⟨Config.nSlots_pos, by decide, by decide, by decide, by decide, by decide, Fx.reset_inv⟩
  hreset.of_regs rfl

theorem State.RegInv.resetFx {s : State} (h : s.RegInv) : s.resetFx.RegInv :=
  h.of_fxOnly (s.setFx_only _) Fx.reset_inv

/-! ## Outcomes that keep the invariant -/

/-- The next state of an outcome, if it has one, meets the invariant. -/
def LegalOutcome (o : Out) : Prop := ∀ t, o = .next t → t.RegInv

theorem State.RegInv.next {s : State} (h : s.RegInv) : LegalOutcome (.next s) := by
  rintro t ⟨⟩
  exact h

section gates
variable {s : State} (h : s.RegInv)
include h

theorem State.RegInv.ok (v : Value) : LegalOutcome (s.ok v) := (h.of_regs rfl : (s.respond v).RegInv).next

theorem State.RegInv.fail (e : Exc) (v : Value) : LegalOutcome (s.fail e v) :=
  (h.of_regs rfl : (s.raise e v).RegInv).next

theorem State.RegInv.finish (r : Reply) : LegalOutcome (s.finish r) := by
  have he : (s.emit r.out).RegInv := h.of_regs rfl
  unfold State.finish
  split
  · exact he.ok _
  · exact he.fail _ _

theorem State.RegInv.unlessOwned {k : Out} (hk : LegalOutcome k) : LegalOutcome (s.unlessOwned k) := by
  unfold State.unlessOwned
  split
  · exact h.fail _ _
  · exact hk

theorem State.RegInv.withFreeSlot {k : Slot → Out} (hk : ∀ sl, LegalOutcome (k sl)) :
    LegalOutcome (s.withFreeSlot k) := by
  unfold State.withFreeSlot
  split
  · exact hk _
  · exact h.fail _ _

theorem State.RegInv.withConverter {k : Pc → Out} (hk : LegalOutcome (k s.pc)) : LegalOutcome (s.withConverter k) := by
  unfold State.withConverter
  split
  · exact h.fail _ _
  · exact hk

theorem State.RegInv.withTrack {k : Out} (hk : LegalOutcome k) : LegalOutcome (s.withTrack k) := by
  unfold State.withTrack
  split
  · exact h.fail _ _
  · exact hk

theorem State.RegInv.withContainer {k : Out} (hk : LegalOutcome k) : LegalOutcome (s.withContainer k) := by
  unfold State.withContainer
  split
  · exact h.fail _ _
  · exact hk

theorem State.RegInv.takeDin (n : Nat) (i : Instr) {k : List Byte → State → Out}
    (hk : ∀ bytes (t : State), t.RegInv → LegalOutcome (k bytes t)) : LegalOutcome (s.takeDin n i k) := by
  unfold State.takeDin
  split
  · exact (h.of_regs rfl : (s.hold i).RegInv).next
  · exact hk _ _ (h.of_regs rfl)

theorem State.RegInv.setSelected (sl : Slot) : (s.setSelected sl).RegInv := h.of_regs rfl

theorem State.RegInv.answerRead (r : Option Value × BitReader) : LegalOutcome (s.answerRead r) := by
  unfold State.answerRead
  split
  · exact (h.setSelected _).ok _
  · exact (h.setSelected _).fail _ _

end gates

/-! ## The BitReader and the arithmetic decoder -/

section units
variable {s : State} (h : s.RegInv)
include h

theorem execBrLoad_legal (size : Nat) : LegalOutcome (execBrLoad size s) := by
  refine h.unlessOwned <| h.withFreeSlot fun sl => ?_
  split
  · exact h.fail _ _
  · exact h.takeDin _ _ fun _ _ ht => (ht.setSelected _).ok _

theorem execBrReadBit_legal : LegalOutcome (execBrReadBit s) :=
  h.unlessOwned <| h.withFreeSlot fun _ => h.answerRead _

theorem execBrReadBits_legal (n : Nat) : LegalOutcome (execBrReadBits n s) := by
  refine h.unlessOwned <| h.withFreeSlot fun sl => ?_
  split
  · exact h.fail _ _
  · exact h.answerRead _

theorem execBrReadSigned_legal (n : Nat) : LegalOutcome (execBrReadSigned n s) := by
  refine h.unlessOwned <| h.withFreeSlot fun sl => ?_
  split
  · exact h.fail _ _
  · exact h.answerRead _

theorem execBrReadByteAligned_legal : LegalOutcome (execBrReadByteAligned s) :=
  h.unlessOwned <| h.withFreeSlot fun _ => h.answerRead _

theorem execBrRice_legal (m : Nat) : LegalOutcome (execBrRice m s) := by
  refine h.unlessOwned <| h.withFreeSlot fun sl => ?_
  split
  · exact h.fail _ _
  · exact h.answerRead _

theorem execAcStart_legal : LegalOutcome (execAcStart s) :=
  h.unlessOwned <| h.withFreeSlot fun _ => (h.setSelected _).ok _

/-- The fault of an interval of 0 (assumption log 20) is no next state. -/
theorem execAcDecode_legal (p flush : Nat) : LegalOutcome (execAcDecode p flush s) := by
  refine h.unlessOwned <| h.withFreeSlot fun sl => ?_
  split
  · exact h.fail _ _
  · exact (h.setSelected _).ok _
  · split
    · exact h.fail _ _
    · dsimp only
      split
      · rintro t ⟨⟩
      · exact (h.setSelected _).ok _

theorem execAcQuantize_legal (len pred : Nat) : LegalOutcome (execAcQuantize len pred s) := by
  unfold execAcQuantize
  split
  · exact h.fail _ _
  · exact h.ok _

end units

/-! ## Frame decodes and the ring -/

theorem State.submitFrame_regs (s : State) (f : Frame) : (s.submitFrame f).regs = s.regs := by
  unfold State.submitFrame
  split
  · rfl
  · split <;> rfl

theorem State.slotStep_regs (s : State) (k : Nat) : (s.slotStep k).regs = s.regs := rfl

theorem State.retireFailed_regs (s : State) (k : Nat) : (s.retireFailed k).regs = s.regs := rfl

theorem State.dequeue_regs (s : State) : s.dequeue.regs = s.regs := rfl

theorem State.retire_regs (s : State) : s.retire.regs = s.regs := by
  rcases s.retire_cases with ⟨_, hr⟩ | ⟨_, hr⟩
  · rw [hr, State.slotStep_regs]
  · rw [hr, State.retireFailed_regs, State.slotStep_regs]

theorem State.collectBody_regs (s : State) : s.collectBody.2.regs = s.regs :=
  s.retire.dequeue_regs.trans s.retire_regs

section ring
variable {s : State} (h : s.RegInv)
include h

theorem State.RegInv.retireFailed (k : Nat) : (s.retireFailed k).RegInv := h.of_regs (s.retireFailed_regs k)

theorem execDstDecode_legal : LegalOutcome (execDstDecode s) := by
  refine h.unlessOwned <| h.withFreeSlot fun sl => ?_
  split
  · exact h.fail _ _
  · dsimp only
    split
    · exact (h.setSelected _).ok _
    · exact ((h.setSelected _).retireFailed _).fail _ _

theorem execSlotRead_legal : LegalOutcome (execSlotRead s) :=
  h.unlessOwned <| h.withFreeSlot fun sl =>
    (h.of_regs rfl : (s.emit (bufBytes sl.outbuf 0 sl.outSize)).RegInv).ok _

theorem State.RegInv.runFrame (b : Byte) : (s.runFrame b).RegInv := h.of_regs rfl

/-- `POOL_INIT` checks the channel count it writes (44_dst_pool.md R341). -/
theorem State.RegInv.clearRing {ch : Nat} (hch : ch ≤ 6) : (s.clearRing ch).RegInv :=
  ⟨h.slotSel, h.ditherDepth, h.dstFb, hch, h.ch, h.pcCh, h.fx⟩

theorem execPoolInit_legal (ch : Nat) : LegalOutcome (execPoolInit ch s) := by
  refine h.unlessOwned ?_
  split
  · exact h.fail _ _
  · next hch =>
    have hle : 1 ≤ ch ∧ ch ≤ 6 := (channelsLegal_iff ch).mp (Bool.eq_true_of_not_eq_false hch)
    split
    · exact h.fail _ _
    · exact (h.clearRing hle.2).ok _

theorem State.RegInv.sentinel : LegalOutcome s.sentinel := by
  unfold State.sentinel
  split
  · exact h.fail _ _
  · have hs : ({ s.drainBusy with pool := { s.pool with draining := true } } : State).RegInv := h.of_regs rfl
    exact hs.ok _

theorem State.RegInv.jam (i : Instr) : (s.jam i).RegInv := h.of_regs rfl

theorem State.RegInv.submitBody (bytes : List Byte) : (s.submitBody bytes).RegInv := h.of_regs rfl

theorem State.RegInv.submitDsdBody (bytes : List Byte) : (s.submitDsdBody bytes).RegInv := h.of_regs rfl

theorem execSubmit_legal (size : Nat) : LegalOutcome (execSubmit size s) := by
  refine h.unlessOwned ?_
  split
  · exact h.sentinel
  · split
    · exact h.fail _ _
    · split
      · exact h.fail _ _
      · split
        · exact (h.jam _).next
        · exact h.takeDin _ _ fun _ _ ht => (ht.submitBody _).ok _

theorem execSubmitDsd_legal (size : Nat) : LegalOutcome (execSubmitDsd size s) := by
  refine h.unlessOwned ?_
  split
  · exact h.fail _ _
  · split
    · exact h.fail _ _
    · split
      · exact (h.jam _).next
      · exact h.takeDin _ _ fun _ _ ht => (ht.submitDsdBody _).ok _

theorem execCollect_legal (handle : Nat) : LegalOutcome (execCollect handle s) := by
  refine h.unlessOwned ?_
  split
  · exact h.fail _ _
  · split
    · exact h.fail _ _
    · exact (h.of_regs s.collectBody_regs).finish _

end ring

/-! ## The converter -/

theorem State.setPc_regs (s : State) {pc : Pc} (hch : pc.ch = s.pc.ch) : ({ s with pc := pc } : State).regs = s.regs :=
  congrArg (fun ch => { s.regs with pcCh := ch }) hch

theorem Pc.degibbs_ch (pc : Pc) (start n : Nat) (side : Bool) : (pc.degibbs start n side).2.ch = pc.ch := by
  rw [(pc.degibbs_frame start n side).1]

theorem Pc.fadeIn_ch (pc : Pc) (first : Bool) : (pc.fadeIn first).ch = pc.ch := by
  unfold Pc.fadeIn
  split
  · exact pc.degibbs_ch _ _ _
  · rfl

theorem State.pcConvertBody_regs (s : State) (bytes : List Byte) : (s.pcConvertBody bytes).regs = s.regs :=
  s.setPc_regs (s.pc.convert_mode s.ditherDepth bytes).ch

section converter
variable {s : State} (h : s.RegInv)
include h

theorem State.RegInv.pcInitBody {ch : Nat} (hch : ch ≤ 6) (k pcm : Nat) : (s.pcInitBody ch k pcm).RegInv :=
  ⟨h.slotSel, h.ditherDepth, h.dstFb, h.dstCh, h.ch, hch, h.fx⟩

/-- `PC_INIT` checks the channel count it writes (45_dsd_pcm.md R370). -/
theorem execPcInit_legal (ch dsd pcm : Nat) : LegalOutcome (execPcInit ch dsd pcm s) := by
  refine h.unlessOwned ?_
  split
  · exact h.fail _ _
  · next hch =>
    have hle : 1 ≤ ch ∧ ch ≤ 6 := (channelsLegal_iff ch).mp (Bool.eq_true_of_not_eq_false hch)
    split
    · exact h.fail _ _
    · exact h.fail _ _
    · exact (h.pcInitBody hle.2 _ _).ok _

theorem execPcConvert_legal (size : Nat) : LegalOutcome (execPcConvert size s) := by
  refine h.unlessOwned <| h.withConverter ?_
  split
  · exact h.fail _ _
  · exact h.takeDin _ _ fun bytes t ht => (ht.of_regs (t.pcConvertBody_regs bytes)).ok _

theorem execPcGetDelay_legal : LegalOutcome (execPcGetDelay s) := h.withConverter (h.ok _)

theorem execPcDegibbs_legal (side n : Nat) : LegalOutcome (execPcDegibbs side n s) := by
  refine h.unlessOwned <| h.withConverter ?_
  split
  · exact h.fail _ _
  · split
    · exact h.fail _ _
    · exact (h.of_regs (s.setPc_regs (s.pc.degibbs_ch _ _ _))).ok _

theorem State.RegInv.emit (bytes : List Byte) : (s.emit bytes).RegInv := h.of_regs rfl

theorem execPcPack_legal (skip count : Nat) : LegalOutcome (execPcPack skip count s) := by
  refine h.unlessOwned <| h.withConverter ?_
  split
  · exact h.fail _ _
  · exact (h.emit _).ok _

theorem execPcReadf_legal : LegalOutcome (execPcReadf s) :=
  h.unlessOwned <| h.withConverter <| (h.emit _).ok _

end converter

end Sys2Proof.Machine
end

section
/-! PROOFS (O57, continued). A frame read, a seek and the read of a track list keep the geometry of the extractor
(46_fx_files.md R451, R457; 47_fx_sector.md R520). -/

namespace Sys2Proof.Machine

/-! ## The medium and the file containers -/

theorem State.mediumRead_geometry (s : State) (off n : Nat) :
    (s.mediumRead off n).2.fx.geometry = s.fx.geometry := congrArg Fx.geometry (s.mediumRead_fx off n)

theorem State.moveCursor_geometry (s : State) (p : Nat) : (s.moveCursor p).fx.geometry = s.fx.geometry := rfl

theorem State.setEot_geometry (s : State) (eot : Bool) :
    (s.setFx { s.fx with eot := eot }).fx.geometry = s.fx.geometry := rfl

theorem State.badFrame_geometry (s : State) (info : Nat) : (s.badFrame info).2.fx.geometry = s.fx.geometry := rfl

theorem State.invalidFrame_geometry (s : State) (e : Exc) (info : Nat) :
    (s.invalidFrame e info).2.fx.geometry = s.fx.geometry := rfl

theorem State.dsfFetch_geometry (s : State) (g : Nat) : (s.dsfFetch g).fx.geometry = s.fx.geometry := by
  unfold State.dsfFetch
  split
  · rfl
  · dsimp only
    split <;> rfl

theorem State.dsfRead_geometry : ∀ (fuel n : Nat) (bad : Option Nat) (s : State),
    (State.dsfRead fuel n bad s).2.2.fx.geometry = s.fx.geometry
  | 0, _, _, _ => rfl
  | fuel + 1, n, bad, s => by
    rw [State.dsfRead]
    split
    · rfl
    · exact (State.dsfRead_geometry fuel _ _ _).trans (s.dsfFetch_geometry _)

theorem State.readDsf_geometry (s : State) : s.readDsf.2.fx.geometry = s.fx.geometry := by
  unfold State.readDsf
  split
  · rfl
  · dsimp only
    have h := State.dsfRead_geometry (min s.fx.frameBytes (s.fx.dsfTotal - s.fx.dsf.pos))
      (min s.fx.frameBytes (s.fx.dsfTotal - s.fx.dsf.pos)) none s
    split
    · next hr =>
      rw [hr] at h
      exact h
    · next hr =>
      rw [hr] at h
      exact h

theorem State.readDffDsd_geometry (s : State) : s.readDffDsd.2.fx.geometry = s.fx.geometry := by
  unfold State.readDffDsd
  split
  · rfl
  · dsimp only
    split
    · rfl
    · split <;> simp only [State.badFrame_geometry, State.moveCursor_geometry, State.mediumRead_geometry]

theorem State.readDstBytes_geometry (s : State) (off n next : Nat) :
    (s.readDstBytes off n next).2.fx.geometry = s.fx.geometry := by
  unfold State.readDstBytes
  dsimp only
  split <;> simp only [State.badFrame_geometry, State.moveCursor_geometry, State.mediumRead_geometry]

theorem State.readDffIndexed_geometry (s : State) : s.readDffIndexed.2.fx.geometry = s.fx.geometry := by
  unfold State.readDffIndexed
  split
  · rfl
  · dsimp only
    split
    · rw [State.badFrame_geometry, State.mediumRead_geometry]
    · split
      · rw [State.invalidFrame_geometry, State.mediumRead_geometry]
      · rw [State.readDstBytes_geometry, State.mediumRead_geometry]

theorem State.readDffWalk_geometry : ∀ (fuel : Nat) (s : State),
    (State.readDffWalk fuel s).2.fx.geometry = s.fx.geometry
  | 0, _ => rfl
  | fuel + 1, s => by
    rw [State.readDffWalk]
    dsimp only
    split
    · rfl
    · split
      · rw [State.setEot_geometry, State.badFrame_geometry, State.mediumRead_geometry]
      · split
        · split
          · rw [State.invalidFrame_geometry, State.moveCursor_geometry, State.mediumRead_geometry]
          · rw [State.readDstBytes_geometry, State.mediumRead_geometry]
        · rw [State.readDffWalk_geometry fuel, State.moveCursor_geometry, State.mediumRead_geometry]

theorem State.readDff_geometry (s : State) : s.readDff.2.fx.geometry = s.fx.geometry := by
  unfold State.readDff
  split
  · exact s.readDffDsd_geometry
  · split
    · exact s.readDffIndexed_geometry
    · exact State.readDffWalk_geometry _ s

theorem State.skipFrames_geometry : ∀ (fuel n : Nat) (s : State),
    (State.skipFrames fuel n s).2.fx.geometry = s.fx.geometry
  | 0, _, _ => rfl
  | fuel + 1, n, s => by
    rw [State.skipFrames]
    dsimp only
    split
    · rfl
    · split
      · rfl
      · split
        · exact s.mediumRead_geometry _ _
        · split <;> exact (State.skipFrames_geometry fuel _ _).trans (s.mediumRead_geometry _ _)

/-! ## Discs -/

/-- A sector reader with the same areas. -/
theorem State.setSec_geometry (s : State) {sec : Sec} (h1 : sec.area1 = s.fx.sec.area1)
    (h2 : sec.area2 = s.fx.sec.area2) : (s.setSec sec).fx.geometry = s.fx.geometry := by
  show ({ s.fx with sec := sec } : Fx).geometry = s.fx.geometry
  simp only [Fx.geometry, h1, h2]

theorem Sec.begin_areas (sec : Sec) : sec.begin.area1 = sec.area1 ∧ sec.begin.area2 = sec.area2 := by
  unfold Sec.begin
  split <;> exact ⟨rfl, rfl⟩

theorem State.finishFrame_geometry (s : State) : s.finishFrame.2.fx.geometry = s.fx.geometry := by
  unfold State.finishFrame
  dsimp only
  split <;> rfl

theorem State.fetchSector_geometry (s : State) :
    s.fetchSector.2.fx.geometry = s.fx.geometry ∧ ∀ r, s.fetchSector.1 = some r → r.2.fx.geometry = s.fx.geometry := by
  unfold State.fetchSector
  dsimp only
  split
  · exact ⟨rfl, by rintro r ⟨⟩; rfl⟩
  · split
    · exact ⟨rfl, by rintro r ⟨⟩; rfl⟩
    · exact ⟨rfl, by rintro r ⟨⟩⟩

theorem State.takePacket_geometry (s : State) :
    s.takePacket.2.fx.geometry = s.fx.geometry ∧ ∀ r, s.takePacket.1 = some r → r.2.fx.geometry = s.fx.geometry := by
  obtain ⟨h1, h2⟩ := s.fx.sec.begin_areas
  unfold State.takePacket
  dsimp only
  split
  · exact ⟨rfl, by rintro r ⟨⟩⟩
  · split
    · exact ⟨rfl, by rintro r ⟨⟩; exact s.finishFrame_geometry⟩
    · split
      · exact ⟨s.setSec_geometry h1 h2, by rintro r ⟨⟩⟩
      · split
        · exact ⟨s.setSec_geometry h1 h2, by rintro r ⟨⟩; exact s.setSec_geometry h1 h2⟩
        · exact ⟨s.setSec_geometry h1 h2, by rintro r ⟨⟩⟩

theorem State.endOfSectors_geometry (s : State) : s.endOfSectors.2.fx.geometry = s.fx.geometry := by
  unfold State.endOfSectors
  split
  · exact s.finishFrame_geometry
  · rfl

theorem State.sectorLoop_geometry : ∀ (fuel : Nat) (s : State),
    (State.sectorLoop fuel s).2.fx.geometry = s.fx.geometry
  | 0, _ => rfl
  | fuel + 1, s => by
    obtain ⟨hfetch, hfetched⟩ := s.fetchSector_geometry
    obtain ⟨htake, htaken⟩ := s.takePacket_geometry
    rw [State.sectorLoop]
    split
    · split
      · exact s.endOfSectors_geometry
      · split
        · next r _ hr => exact hfetched r (by rw [hr])
        · next t hr =>
          rw [hr] at hfetch
          exact (State.sectorLoop_geometry fuel t).trans hfetch
    · split
      · next r _ hr => exact htaken r (by rw [hr])
      · next t hr =>
        rw [hr] at htake
        exact (State.sectorLoop_geometry fuel t).trans htake

/-! ## Frames and seeks, whatever the container -/

theorem State.readKind_geometry (s : State) : s.readKind.2.fx.geometry = s.fx.geometry := by
  unfold State.readKind
  split
  · rfl
  · exact State.sectorLoop_geometry _ s
  · exact s.readDff_geometry
  · exact s.readDsf_geometry

theorem State.readFrameBody_geometry (s : State) : s.readFrameBody.2.fx.geometry = s.fx.geometry := by
  unfold State.readFrameBody
  split
  · rfl
  · have h := s.readKind_geometry
    split <;> next hr => rw [hr] at h; exact h

theorem State.readFrameBody_regs (s : State) : s.readFrameBody.2.regs = s.regs :=
  s.readFrameBody_only.regs s.readFrameBody_geometry

theorem State.seekDff_geometry (s : State) (frame : Nat) : (s.seekDff frame).2.fx.geometry = s.fx.geometry := by
  unfold State.seekDff
  split
  · rfl
  · split
    · rfl
    · split
      · rfl
      · dsimp only
        have h : (State.skipFrames (s.fx.dataEnd - s.fx.dataStart + 1) frame
            (s.moveCursor s.fx.dataStart)).2.fx.geometry = s.fx.geometry := State.skipFrames_geometry _ _ _
        split <;> exact h

theorem State.seekKind_geometry (s : State) (frame : Nat) : (s.seekKind frame).2.fx.geometry = s.fx.geometry := by
  unfold State.seekKind
  split
  · rfl
  · dsimp only
    unfold State.seekSector
    split <;> rfl
  · exact s.seekDff_geometry frame
  · dsimp only
    unfold State.seekDsf
    split <;> rfl

theorem State.seekKind_regs (s : State) (frame : Nat) : (s.seekKind frame).2.regs = s.regs :=
  (s.seekKind_only frame).regs (s.seekKind_geometry frame)

theorem State.readTrackList_regs (s : State) (track : Nat) (area : AreaOperand) :
    (s.readTrackList track area).2.regs = s.regs :=
  (s.readTrackList_only track area).regs (congrArg Fx.geometry (s.readTrackList_fx track area))

end Sys2Proof.Machine
end

section
/-! PROOFS (O57, continued). `OPEN` keeps only a container whose rate and channel count passed its checks
(46_fx_files.md R465, R477; 47_fx_sector.md R503, R504). -/

namespace Sys2Proof.Machine

/-! ## Parts of a parse -/

/-- From a legal extractor, `p` either fails or gives a value that meets `Q` and leaves the extractor legal. -/
def Scan.Yields {α : Type} (p : Scan α) (Q : α → Prop) : Prop :=
  ∀ s a t, s.fx.Inv → p s = .ok a t → t.fx.Inv ∧ Q a

section rules
variable {α β : Type}

theorem Scan.yields_pure {Q : α → Prop} {a : α} (h : Q a) : (pure a : Scan α).Yields Q := by
  rintro s b t hs ⟨⟩
  exact ⟨hs, h⟩

theorem Scan.yields_throw {Q : α → Prop} (e : OpenError) : (throw e : Scan α).Yields Q := by
  rintro s b t _ ⟨⟩

theorem Scan.Yields.bind {p : Scan α} {f : α → Scan β} {Q : α → Prop} {R : β → Prop} (hp : p.Yields Q)
    (hf : ∀ a, Q a → (f a).Yields R) : (p >>= f).Yields R := by
  intro s b t hs h
  obtain ⟨a, u, hpa, hfa⟩ := (bind_eq_ok p f s t b).mp h
  obtain ⟨hu, ha⟩ := hp s a u hs hpa
  exact hf a ha u b t hu hfa

theorem Scan.yields_read (off n : Nat) : (Scan.read off n).Yields fun _ => True := by
  rintro s b t hs ⟨⟩
  exact ⟨hs.of_geometry (s.mediumRead_geometry off n), trivial⟩

theorem Scan.yields_sector (lsn : Nat) : (Scan.sector lsn).Yields fun _ => True := by
  rintro s b t hs ⟨⟩
  exact ⟨hs.of_geometry (s.mediumRead_geometry _ _), trivial⟩

theorem Scan.yields_mediumSize : Scan.mediumSize.Yields fun _ => True := by
  rintro s b t hs ⟨⟩
  exact ⟨hs, trivial⟩

theorem Scan.yields_check (ok : Bool) (info : Nat) : (Scan.check ok info).Yields fun _ => ok = true := by
  unfold Scan.check
  split
  · next hok => exact Scan.yields_pure hok
  · exact Scan.yields_throw _

theorem Scan.yields_checkLow (ok : Bool) (info : Nat) : (Scan.checkLow ok info).Yields fun _ => ok = true :=
  Scan.yields_check ok _

theorem Scan.yields_setFx {f : Fx → Fx} (hf : ∀ fx : Fx, fx.Inv → (f fx).Inv) :
    (Scan.setFx f).Yields fun _ => True := by
  rintro s b t hs ⟨⟩
  exact ⟨hf _ hs, trivial⟩

theorem Scan.yields_checks : ∀ cs, (Scan.checks cs).Yields fun _ => ∀ c ∈ cs, c.2 = true
  | [] => Scan.yields_pure fun _ h => absurd h List.not_mem_nil
  | c :: cs => (Scan.yields_check c.2 c.1).bind fun _ hc s a t hs h => by
    obtain ⟨ht, hcs⟩ := Scan.yields_checks cs s a t hs h
    exact ⟨ht, List.forall_mem_cons.mpr ⟨hc, hcs⟩⟩

theorem Scan.yields_need (off n : Nat) : (Scan.need off n).Yields fun _ => True :=
  (Scan.yields_read off n).bind fun _ _ => (Scan.yields_check _ _).bind fun _ _ => Scan.yields_pure trivial

theorem Scan.yields_chunk (p stop : Nat) : (Scan.chunk p stop).Yields fun _ => True :=
  (Scan.yields_need p 12).bind fun _ _ => (Scan.yields_check _ _).bind fun _ _ => Scan.yields_pure trivial

theorem Scan.yields_chunkData (c : Chunk) (p n : Nat) : (Scan.chunkData c p n).Yields fun _ => True :=
  (Scan.yields_check _ _).bind fun _ _ => Scan.yields_need _ _

/-- What every chunk keeps, the walk over the chunks keeps. -/
theorem Scan.yields_walk {f : Nat → Chunk → α → Scan α} {Q : α → Prop} (hf : ∀ p c a, Q a → (f p c a).Yields Q)
    (stop : Nat) : ∀ fuel p acc, Q acc → (Scan.walk f stop fuel p acc).Yields Q
  | 0, _, _, h => Scan.yields_pure h
  | fuel + 1, p, acc, h => by
    rw [Scan.walk]
    split
    · exact (Scan.yields_chunk p stop).bind fun c _ => (hf p c acc h).bind fun acc' h' =>
        Scan.yields_walk hf stop fuel _ acc' h'
    · exact Scan.yields_pure h

end rules

/-! ## DSDIFF -/

/-- The rate and the channel count that the walk has found are legal (46_fx_files.md R477). -/
structure DffScan.Legal (a : DffScan) : Prop where
  rate : ∀ r, a.rate = some r → dsdRateLegal r = true
  ch : ∀ n, a.ch = some n → channelsLegal n = true

theorem DffScan.empty_legal : DffScan.empty.Legal := ⟨by rintro r ⟨⟩, by rintro n ⟨⟩⟩

theorem scanProperty_legal (p : Nat) (c : Chunk) (a : DffScan) (h : a.Legal) :
    (scanProperty p c a).Yields DffScan.Legal := by
  unfold scanProperty
  split
  · refine (Scan.yields_chunkData c p 4).bind fun bs _ => (Scan.yields_check _ _).bind fun _ hrate =>
      Scan.yields_pure ⟨?_, h.ch⟩
    rintro r ⟨⟩
    exact hrate
  · split
    · refine (Scan.yields_chunkData c p 2).bind fun bs _ => (Scan.yields_check _ _).bind fun _ hch =>
        Scan.yields_pure ⟨h.rate, ?_⟩
      rintro n ⟨⟩
      exact hch
    · split
      · exact (Scan.yields_chunkData c p 4).bind fun bs _ => (Scan.yields_check _ _).bind fun _ _ =>
          Scan.yields_pure ⟨h.rate, h.ch⟩
      · exact Scan.yields_pure h

theorem scanVersion_legal (p : Nat) (c : Chunk) (a : DffScan) (h : a.Legal) :
    (scanVersion p c a).Yields DffScan.Legal :=
  (Scan.yields_chunkData c p 4).bind fun _ _ => (Scan.yields_check _ _).bind fun _ _ =>
    Scan.yields_pure ⟨h.rate, h.ch⟩

theorem scanProp_legal (p : Nat) (c : Chunk) (a : DffScan) (h : a.Legal) : (scanProp p c a).Yields DffScan.Legal :=
  (Scan.yields_chunkData c p 4).bind fun _ _ => (Scan.yields_check _ _).bind fun _ _ =>
    Scan.yields_walk scanProperty_legal _ _ _ _ h

theorem scanDst_legal (p : Nat) (c : Chunk) (a : DffScan) (h : a.Legal) : (scanDst p c a).Yields DffScan.Legal :=
  (Scan.yields_check _ _).bind fun _ _ => (Scan.yields_chunk _ _).bind fun _ _ => (Scan.yields_check _ _).bind fun _ _ =>
    (Scan.yields_chunkData _ _ _).bind fun _ _ => (Scan.yields_check _ _).bind fun _ _ =>
      Scan.yields_pure ⟨h.rate, h.ch⟩

theorem scanForm_legal (p : Nat) (c : Chunk) (a : DffScan) (h : a.Legal) : (scanForm p c a).Yields DffScan.Legal := by
  unfold scanForm
  split
  · exact scanVersion_legal p c a h
  · split
    · exact scanProp_legal p c a h
    · split
      · exact Scan.yields_pure ⟨h.rate, h.ch⟩
      · split
        · exact scanDst_legal p c a h
        · split
          · exact Scan.yields_pure ⟨h.rate, h.ch⟩
          · exact Scan.yields_pure h

theorem Fx.Inv.openedDff {fx : Fx} (h : fx.Inv) (a : DffScan) {rate ch : Nat} (dst : Bool) (data : Nat × Nat)
    (hrate : dsdRateLegal rate = true) (hch : channelsLegal ch = true) : (fx.openedDff a rate ch dst data).Inv :=
  ⟨fun _ => ⟨hrate, (channelsLegal_iff ch).mp hch⟩, h.area1, h.area2⟩

theorem finishDff_yields (a : DffScan) (h : a.Legal) : (finishDff a).Yields fun _ => True := by
  unfold finishDff
  split
  · next rate ch dst hrate hch _ =>
    split
    · split
      · exact Scan.yields_setFx fun fx hfx => hfx.openedDff a dst _ (h.rate rate hrate) (h.ch ch hch)
      · exact Scan.yields_throw _
    · exact Scan.yields_throw _
  · exact Scan.yields_throw _

theorem openDff_yields : openDff.Yields fun _ => True :=
  (Scan.yields_read 0 16).bind fun _ _ => (Scan.yields_check _ _).bind fun _ _ =>
    Scan.yields_mediumSize.bind fun _ _ =>
      (Scan.yields_walk scanForm_legal _ _ _ _ DffScan.empty_legal).bind fun a ha => finishDff_yields a ha

/-! ## DSF -/

theorem Fx.Inv.openedDsf {fx : Fx} (h : fx.Inv) (hd : List Byte) (hch : channelsLegal (leField hd 52 4) = true)
    (hrate : dsdRateLegal (leField hd 56 4) = true) : (fx.openedDsf hd).Inv :=
  ⟨fun _ => ⟨hrate, (channelsLegal_iff _).mp hch⟩, h.area1, h.area2⟩

/-- The checks of the header are made before the extractor is written (46_fx_files.md R465). -/
theorem openDsf_yields : openDsf.Yields fun _ => True := by
  refine (Scan.yields_read 0 92).bind fun hd _ => ?_
  have h : (Scan.mediumSize >>= fun size => Scan.checks (dsfHeaderChecks hd size) >>= fun _ =>
      Scan.setFx fun fx => fx.openedDsf hd : Scan Unit).Yields fun _ => True :=
    Scan.yields_mediumSize.bind fun size _ => (Scan.yields_checks _).bind fun _ hcs =>
      Scan.yields_setFx fun fx hfx => hfx.openedDsf hd
        (hcs (52, channelsLegal (leField hd 52 4)) (by simp [dsfHeaderChecks]))
        (hcs (56, dsdRateLegal (leField hd 56 4)) (by simp [dsfHeaderChecks]))
  dsimp only
  split
  · exact (Scan.yields_throw (Q := fun _ => True) _).bind fun _ _ => h
  · exact (Scan.yields_pure (Q := fun _ => True) (a := ()) trivial).bind fun _ _ => h

/-! ## Discs -/

/-- An area that has tracks has a legal rate and channel count (47_fx_sector.md R503, R504). -/
def Area.Legal (a : Area) : Prop := a.tracks ≠ 0 → geometryLegal a.rate a.ch

theorem scanTrackList_yields (areaLsn : Nat) : ∀ n lsn, (scanTrackList areaLsn n lsn).Yields fun _ => True
  | 0, _ => (Scan.yields_checkLow _ _).bind fun _ _ => Scan.yields_pure trivial
  | n + 1, lsn => by
    refine (Scan.yields_sector lsn).bind fun _ _ => (Scan.yields_checkLow _ _).bind fun _ _ => ?_
    split
    · exact Scan.yields_pure trivial
    · exact scanTrackList_yields areaLsn n _

theorem parseArea_yields (magic : List Byte) (lsn n : Nat) : (parseArea magic lsn n).Yields Area.Legal := by
  refine (Scan.yields_check _ _).bind fun _ _ => (Scan.yields_sector _).bind fun t _ =>
    (Scan.yields_checkLow _ _).bind fun _ _ => (Scan.yields_checkLow _ _).bind fun _ _ =>
      (Scan.yields_checkLow _ _).bind fun _ _ => (Scan.yields_checkLow _ _).bind fun _ _ =>
        (Scan.yields_checkLow _ _).bind fun _ hch => (scanTrackList_yields _ _ _).bind fun _ _ =>
          Scan.yields_pure fun _ => ⟨?_, (channelsLegal_iff _).mp hch⟩
  exact (dsdRateLegal_iff _).mpr (.inl Config.dsdRateBase_eq)

theorem parseAreaAt_yields (magic : List Byte) (lsn n : Nat) : (parseAreaAt magic lsn n).Yields Area.Legal := by
  unfold parseAreaAt
  split
  · exact Scan.yields_pure fun h => absurd rfl h
  · exact parseArea_yields magic lsn n

theorem openSector_yields (psn : Bool) : (openSector psn).Yields fun _ => True := by
  refine (Scan.yields_setFx fun fx hfx => ?_).bind fun _ _ =>
    (Scan.yields_sector _).bind fun _ _ => (Scan.yields_check _ _).bind fun _ _ =>
      (Scan.yields_check _ _).bind fun _ _ => (Scan.yields_check _ _).bind fun _ _ =>
        (parseAreaAt_yields _ _ _).bind fun a1 h1 => (parseAreaAt_yields _ _ _).bind fun a2 h2 =>
          Scan.yields_setFx fun fx _ => ?_
  · exact ⟨hfx.file, hfx.area1, hfx.area2⟩
  · exact ⟨(by rintro (h | h) <;> cases h), h1, h2⟩

/-! ## The whole parse -/

theorem fxOpen_yields (kind : KindOperand) : (fxOpen kind).Yields fun _ => True := by
  refine (Scan.yields_read 0 4).bind fun m4 _ => ?_
  split
  · exact openDff_yields
  · split
    · exact openDsf_yields
    · split
      · refine (Scan.yields_read _ 8).bind fun m _ => ?_
        split
        · exact openSector_yields false
        · refine (Scan.yields_read _ 8).bind fun m' _ => ?_
          split
          · exact openSector_yields true
          · exact Scan.yields_throw _
      · exact Scan.yields_throw _

/-- However the parse ends, only the extractor was written, and after a success it is legal. -/
theorem execOpen_legal {s : State} (h : s.RegInv) (kind : Nat) : LegalOutcome (execOpen kind s) := by
  unfold execOpen
  split
  · exact h.fail _ _
  · next k _ =>
    split
    · exact h.fail _ _
    · have honly : s.resetFx.FxOnly (endState (fxOpen k s.resetFx)) := fxOpen_only k s.resetFx
      split
      · next t ht =>
        rw [ht] at honly
        obtain ⟨hfx, _⟩ := fxOpen_yields k _ _ t Fx.reset_inv ht
        have hopened : ({ t with sess := .opened } : State).RegInv := (h.resetFx.of_fxOnly honly hfx).of_regs rfl
        exact hopened.ok _
      · next e t ht =>
        rw [ht] at honly
        exact (h.resetFx.of_fxOnly (honly.trans _ _ _ (t.setFx_only Fx.reset)) Fx.reset_inv).fail _ _

end Sys2Proof.Machine
end

section
/-! PROOFS (O57, end). Track selection, the session and its registers (48_session.md R545, R550, R558, R561), and the
step. -/

namespace Sys2Proof.Machine

/-! ## Track selection -/

/-- A selection writes the rate and channel count of a disc only, whose areas it keeps (47_fx_sector.md R506). -/
theorem Fx.Inv.select {fx : Fx} (h : fx.Inv) (track : Nat) (area : AreaOperand) (list : List Byte) :
    (fx.select track area list).Inv := by
  unfold Fx.select
  split
  · exact h
  · next hkind =>
    refine ⟨fun hfile => ?_, h.area1, h.area2⟩
    change fx.kind = .dsf ∨ fx.kind = .dsdiff at hfile
    rcases hfile with hfile | hfile <;> cases hkind.symm.trans hfile
  · exact h.of_geometry rfl
  · exact h.of_geometry rfl

/-- The area a track lies in has that track (47_fx_sector.md R505). -/
theorem Fx.Inv.place_legal {fx : Fx} (h : fx.Inv) (track : Nat) (area : AreaOperand)
    (ht : track < fx.sec.tracksIn area) :
    geometryLegal (fx.sec.place track area).1.rate (fx.sec.place track area).1.ch := by
  cases area with
  | twoCh => exact h.area1 (Nat.ne_zero_of_lt ht)
  | mulCh => exact h.area2 (Nat.ne_zero_of_lt ht)
  | both =>
    have hsum : track < fx.sec.area1.tracks + fx.sec.area2.tracks := ht
    unfold Sec.place
    dsimp only
    split
    · next hlt => exact h.area1 (Nat.ne_zero_of_lt hlt)
    · exact h.area2 (by omega)

/-- A track that is there has a legal rate and channel count. -/
theorem Fx.Inv.select_geometryLegal {fx : Fx} (h : fx.Inv) (track : Nat) (area : AreaOperand) (list : List Byte)
    (ht : track < fx.tracksIn area) :
    geometryLegal (fx.select track area list).rate (fx.select track area list).ch := by
  unfold Fx.tracksIn at ht
  unfold Fx.select
  cases hkind : fx.kind with
  | none => simp [hkind] at ht
  | sector =>
    rw [hkind] at ht
    exact h.place_legal track area ht
  | dsdiff => exact h.file (.inr hkind)
  | dsf => exact h.file (.inl hkind)

/-- The frame size of a legal rate is 4704 bytes or more (46_fx_files.md R453). -/
theorem one_le_frameBytes {rate : Nat} (hrate : dsdRateLegal rate = true) : 1 ≤ Config.frameBytes rate := by
  rw [dsdRateLegal_iff] at hrate
  rw [Config.frameBytes_eq]
  omega

section session
variable {s : State} (h : s.RegInv)
include h

theorem State.RegInv.setTrackBody (track : Nat) (area : AreaOperand) (list : List Byte) :
    (s.setTrackBody track area list).RegInv :=
  ⟨h.slotSel, h.ditherDepth, h.dstFb, h.dstCh, h.ch, h.pcCh, (h.fx.select track area list).of_geometry rfl⟩

theorem execSetTrack_legal (track area : Nat) : LegalOutcome (execSetTrack track area s) := by
  refine h.unlessOwned ?_
  split
  · exact h.fail _ _
  · split
    · exact h.fail _ _
    · next a _ =>
      split
      · exact h.fail _ _
      · have hread := h.of_regs (s.readTrackList_regs track a)
        split
        · next hr =>
          rw [hr] at hread
          exact hread.fail _ _
        · next hr =>
          rw [hr] at hread
          exact (hread.setTrackBody _ _ _).ok _

theorem execReadFrame_legal : LegalOutcome (execReadFrame s) := by
  refine h.unlessOwned <| h.withTrack ?_
  have hread := h.of_regs s.readFrameBody_regs
  split
  · next hr =>
    rw [hr] at hread
    exact hread.ok _
  · next hr =>
    rw [hr] at hread
    exact (hread.emit _).ok _

theorem execSeek_legal (frame : Nat) : LegalOutcome (execSeek frame s) := by
  refine h.unlessOwned <| h.withTrack ?_
  have hseek := h.of_regs (s.seekKind_regs frame)
  split
  · next hr =>
    rw [hr] at hseek
    exact hseek.fail _ _
  · next t hr =>
    rw [hr] at hseek
    exact State.RegInv.ok (hseek.of_regs rfl : (t.setFx { t.fx with frameIndex := frame, eot := false }).RegInv) _

/-! ## INIT_TRACK and CLOSE -/

/-- `DST_FB` takes the frame size of the track only where it is a legal value of the register (48_session.md R545). -/
theorem State.RegInv.startSession (hg : geometryLegal s.fx.rate s.fx.ch) (pcm : Nat) : (s.startSession pcm).RegInv := by
  obtain ⟨hrate, _, hch⟩ := hg
  have hfb : 1 ≤ (s.startSession pcm).pool.dstFb ∧ (s.startSession pcm).pool.dstFb ≤ 18816 := by
    show 1 ≤ (if s.fx.frameBytes ≤ Config.maxDsdBytesInFrame then s.fx.frameBytes else s.pool.dstFb) ∧
      (if s.fx.frameBytes ≤ Config.maxDsdBytesInFrame then s.fx.frameBytes else s.pool.dstFb) ≤ 18816
    split
    · next hle => exact ⟨one_le_frameBytes hrate, hle⟩
    · exact h.dstFb
  exact ⟨h.slotSel, h.ditherDepth, hfb, hch, hch, hch, h.fx⟩

theorem State.RegInv.drainBusy : s.drainBusy.RegInv := h.of_regs rfl

theorem State.RegInv.initTrackBody (track : Nat) (area : AreaOperand) (pcm : Nat) (list : List Byte)
    (ht : track < s.fx.tracksIn area) : (s.initTrackBody track area pcm list).RegInv :=
  (h.drainBusy.setTrackBody track area list).startSession (h.fx.select_geometryLegal track area list ht) pcm

theorem execInitTrack_legal (track area pcm : Nat) : LegalOutcome (execInitTrack track area pcm s) := by
  unfold execInitTrack
  split
  · exact h.fail _ _
  · split
    · exact h.fail _ _
    · exact h.fail _ _
    · next a rate _ _ =>
      split
      · exact h.fail _ _
      · next ht =>
        split
        · exact h.fail _ _
        · have hread := h.of_regs (s.readTrackList_regs track a)
          have hfx := s.readTrackList_fx track a
          split
          · next hr =>
            rw [hr] at hread
            exact hread.fail _ _
          · next list t hr =>
            rw [hr] at hread hfx
            have ht' : track < t.fx.tracksIn a := by
              rw [hfx]
              exact Nat.lt_of_not_le ht
            exact (hread.initTrackBody track a rate list ht').ok _

theorem State.RegInv.closeBody : s.closeBody.RegInv :=
  ⟨h.slotSel, h.ditherDepth, h.dstFb, Nat.zero_le 6, Nat.zero_le 6, Nat.zero_le 6, Fx.reset_inv⟩

theorem execClose_legal : LegalOutcome (execClose s) := h.closeBody.ok _

end session

/-! ## DECODE_NEXT -/

theorem State.fillRing_regs : ∀ (fuel : Nat) (s : State), (State.fillRing fuel s).regs = s.regs
  | 0, _ => rfl
  | fuel + 1, s => by
    have h := s.readFrameBody_regs
    rw [State.fillRing]
    split
    · split
      · next hr =>
        rw [hr] at h
        exact h
      · next f t hr =>
        rw [hr] at h
        exact ((State.fillRing_regs fuel _).trans (t.submitFrame_regs f)).trans h
    · rfl

theorem State.retireFrame_regs (s : State) : s.retireFrame.2.regs = s.regs := by
  unfold State.retireFrame
  dsimp only
  rw [State.setPc_regs _ (Pc.fadeIn_ch _ _), State.pcConvertBody_regs, State.collectBody_regs]

theorem State.flushTrack_regs (s : State) : s.flushTrack.2.regs = s.regs := by
  unfold State.flushTrack
  split
  · dsimp only
    exact (State.setPc_regs _ (Pc.degibbs_ch _ _ _ _)).trans (s.pcConvertBody_regs _)
  · rfl

theorem State.decodeNextBody_regs (s : State) : s.decodeNextBody.2.regs = s.regs := by
  unfold State.decodeNextBody
  have hfill := State.fillRing_regs (2 ^ 70) s
  generalize State.fillRing (2 ^ 70) s = t at hfill
  dsimp only
  split
  · exact t.retireFrame_regs.trans hfill
  · exact t.flushTrack_regs.trans hfill

/-! ## Registers -/

section registers
variable {s : State} (h : s.RegInv)
include h

theorem execDecodeNext_legal : LegalOutcome (execDecodeNext s) := by
  unfold execDecodeNext
  split
  · exact h.fail _ _
  · exact (h.of_regs s.decodeNextBody_regs).finish _

theorem execRdreg_legal (idx : Nat) : LegalOutcome (execRdreg idx s) := by
  unfold execRdreg
  split
  · exact h.ok _
  · exact h.fail _ _

/-- A legal value of a register is one that the invariant allows (48_session.md R561). -/
theorem State.RegInv.writeReg (r : WritableReg) (v : Nat) (hv : r.legal v = true) : (s.writeReg r v).RegInv := by
  cases r with
  | slotSel => exact ⟨of_decide_eq_true hv, h.ditherDepth, h.dstFb, h.dstCh, h.ch, h.pcCh, h.fx⟩
  | dstFb =>
    have hfb : 1 ≤ v ∧ v ≤ 18816 := by simpa [WritableReg.legal] using hv
    exact ⟨h.slotSel, h.ditherDepth, hfb, h.dstCh, h.ch, h.pcCh, h.fx⟩
  | ditherDepth => exact ⟨h.slotSel, of_decide_eq_true hv, h.dstFb, h.dstCh, h.ch, h.pcCh, h.fx⟩
  | warnThreshold => exact h.of_regs rfl
  | ditherSeedLo => exact h.of_regs rfl
  | ditherSeedHi => exact h.of_regs rfl
  | silenceByte => exact h.of_regs rfl

theorem execWrreg_legal (idx imm16 : Nat) : LegalOutcome (execWrreg idx imm16 s) := by
  unfold execWrreg
  split
  · exact h.fail _ _
  · next r _ =>
    split
    · exact h.fail _ _
    · next hv =>
      split
      · exact h.fail _ _
      · split
        · exact h.fail _ _
        · exact (h.writeReg r imm16 (Bool.eq_true_of_not_eq_false hv)).ok _

/-! ## The step -/

/-- Every instruction keeps the invariant. -/
theorem exec_legal (i : Instr) : LegalOutcome (exec i s) := by
  cases i with
  | nop => exact h.ok _
  | reset => exact s.toReset_regInv.ok _
  | openMedium kind => exact execOpen_legal h kind
  | initTrack track area pcm => exact execInitTrack_legal h track area pcm
  | decodeNext => exact execDecodeNext_legal h
  | close => exact execClose_legal h
  | rdreg idx => exact execRdreg_legal h idx
  | wrreg idx imm16 => exact execWrreg_legal h idx imm16
  | setTrack track area => exact execSetTrack_legal h track area
  | readFrame => exact execReadFrame_legal h
  | seek frame => exact execSeek_legal h frame
  | getChannels => exact h.withContainer (h.ok _)
  | getSamplerate => exact h.withContainer (h.ok _)
  | getFramerate => exact h.withContainer (h.ok _)
  | getProgress => exact h.withContainer (h.ok _)
  | poolInit ch => exact execPoolInit_legal h ch
  | submit size => exact execSubmit_legal h size
  | submitDsd size => exact execSubmitDsd_legal h size
  | collect handle => exact execCollect_legal h handle
  | dstDecode => exact execDstDecode_legal h
  | slotRead => exact execSlotRead_legal h
  | brLoad size => exact execBrLoad_legal h size
  | brReadBit => exact execBrReadBit_legal h
  | brReadBits n => exact execBrReadBits_legal h n
  | brReadSigned n => exact execBrReadSigned_legal h n
  | brReadByteAligned => exact execBrReadByteAligned_legal h
  | brRice m => exact execBrRice_legal h m
  | acStart => exact execAcStart_legal h
  | acDecode p flush => exact execAcDecode_legal h p flush
  | acQuantize len pred => exact execAcQuantize_legal h len pred
  | pcInit ch dsd pcm => exact execPcInit_legal h ch dsd pcm
  | pcConvert size => exact execPcConvert_legal h size
  | pcGetDelay => exact execPcGetDelay_legal h
  | pcIsConvertCalled => exact h.ok _
  | pcDegibbs side n => exact execPcDegibbs_legal h side n
  | pcPack skip count => exact execPcPack_legal h skip count
  | pcReadf => exact execPcReadf_legal h
  | dstfCoded x => exact (h.runFrame _).next
  | dstfPlain x => exact (h.runFrame _).next

theorem step_legal : LegalOutcome (step s) := by
  have hcases := step_cases s
  generalize step s = o at hcases
  cases hcases with
  | reset _ => exact s.toReset_regInv.next
  | stay => exact h.next
  | noFrame k ks _ => exact State.RegInv.next (h.of_regs rfl)
  | badFrame k ks _ _ => exact State.RegInv.next (h.of_regs rfl)
  | frame i _ _ => exact exec_legal h i
  | held i _ _ => exact exec_legal (s := { s with held := none }) (h.of_regs rfl) i
  | command w ws i _ _ _ _ => exact exec_legal (s := { s with cmd := ws }) (h.of_regs rfl) i
  | illegal w ws _ => exact State.RegInv.next (h.of_regs rfl)

end registers

/-- Settles O57: the writable registers, the channel counts and the container's geometry stay legal. -/
theorem registersStayLegal : Obligations.RegistersStayLegal := by
  unfold Obligations.RegistersStayLegal
  intro s t hs hstep
  exact step_legal hs t hstep

end Sys2Proof.Machine
end

section
/-! PROOFS (O5). Which instruction a step runs, in terms of what stands in the state (20_memory.md R120, R122;
70_reset_and_hazards.md R710). -/

namespace Sys2Proof.Machine

/-! ## What is fetched -/

/-- A step is the run of what was fetched. -/
theorem step_of_fetch_run {s t : State} {i : Instr} (h : s.fetch = .run i t) : step s = exec i t := by
  unfold step
  rw [h]

/-- With no slot's turn left the sequencer moves (20_memory.md R122). -/
theorem State.fetch_sequencer {s : State} (hrst : s.rst = false) (hturns : s.turns = []) :
    s.fetch = s.fetchSequencer := by
  simp [State.fetch, hrst, hturns]

/-- The slots' turns come before the sequencer (20_memory.md R122). -/
theorem State.fetch_slot {s : State} {k : Nat} {ks : List Nat} (hrst : s.rst = false) (hturns : s.turns = k :: ks) :
    s.fetch = s.fetchSlot k ks := by
  simp [State.fetch, hrst, hturns]

/-- A held command comes before the command queue (70_reset_and_hazards.md R710 (k)). -/
theorem State.fetchSequencer_held {s : State} {i : Instr} (hstuck : s.stuck = false) (hheld : s.held = some i) :
    s.fetchSequencer = .run i { s with held := none } := by
  simp [State.fetchSequencer, hstuck, hheld]

theorem State.fetchSequencer_command {s : State} (hstuck : s.stuck = false) (hheld : s.held = none) :
    s.fetchSequencer = s.fetchCommand := by
  simp [State.fetchSequencer, hstuck, hheld]

theorem State.fetchCommand_decoded {s : State} {w : Word} {ws : List Word} {i : Instr} (hcmd : s.cmd = w :: ws)
    (hdecode : decode w = .ok i) : s.fetchCommand = .run i { s with cmd := ws } := by
  simp [State.fetchCommand, hcmd, hdecode]

/-- A `BUSY` slot fetches the frame row of its first byte (30_encoding.md R151). -/
theorem State.fetchSlot_frame {s : State} {k : Nat} {i : Instr} (ks : List Nat) (hbusy : (s.slot k).slotState = .busy)
    (hdecode : decodeFrameByte (bufByte (s.slot k).br.inbuf 0) = .ok i) : s.fetchSlot k ks = .run i s := by
  simp [State.fetchSlot, hbusy, hdecode]

/-! ## The statement -/

/-- Settles O5: each of the three clauses fetches the instruction it names. -/
theorem stepRunsTheDecodedInstruction : Obligations.StepRunsTheDecodedInstruction := by
  unfold Obligations.StepRunsTheDecodedInstruction
  refine ⟨fun s w ws i hready hcmd hdecode => ?_, fun s i hrst hturns hstuck hheld => ?_,
    fun s k ks i hrst hturns hbusy hdecode => ?_⟩
  · obtain ⟨hrst, hturns, hstuck, hheld⟩ := hready
    apply step_of_fetch_run
    rw [State.fetch_sequencer hrst hturns, State.fetchSequencer_command hstuck hheld,
      State.fetchCommand_decoded hcmd hdecode]
  · apply step_of_fetch_run
    rw [State.fetch_sequencer hrst hturns, State.fetchSequencer_held hstuck hheld]
  · apply step_of_fetch_run
    rw [State.fetch_slot hrst hturns, State.fetchSlot_frame ks hbusy hdecode]

end Sys2Proof.Machine
end

section
/-! PROOFS (O12). No step writes the medium, and a step takes answers only off the front of its script (20_memory.md
R106; assumption log 6). Only the extractor reads the medium, and what it leaves is `State.FxOnly`; every other operation
leaves the medium's side of the state as it was, which is gathered in `State.mediumPort`. -/

namespace Sys2Proof.Machine

/-! ## The medium's side of the state -/

/-- The medium and what it will answer. -/
structure MediumPort where
  medium : List Host.Cell
  mediumSize : BitVec 64
  answers : List MediumAnswer

/-- The medium's side of a state. -/
def State.mediumPort (s : State) : MediumPort :=
  { medium := s.medium, mediumSize := s.mediumSize, answers := s.answers }

/-- From `s` to `t` the medium is not written, and answers are only taken off the front. -/
structure State.MediumKept (s t : State) : Prop where
  medium : t.medium = s.medium
  mediumSize : t.mediumSize = s.mediumSize
  answers : ∃ n, t.answers = s.answers.drop n

theorem State.MediumKept.refl (s : State) : s.MediumKept s := ⟨rfl, rfl, 0, rfl⟩

/-- What keeps the medium's side of the state keeps the medium. -/
theorem State.MediumKept.of_port {s t u : State} (h : s.MediumKept t) (hport : u.mediumPort = t.mediumPort) :
    s.MediumKept u := by
  simp only [State.mediumPort, MediumPort.mk.injEq] at hport
  obtain ⟨hmedium, hsize, hanswers⟩ := hport
  exact ⟨hmedium.trans h.medium, hsize.trans h.mediumSize, hanswers ▸ h.answers⟩

theorem State.MediumKept.trans {s t u : State} (h : s.MediumKept t) (h' : t.MediumKept u) : s.MediumKept u where
  medium := h'.medium.trans h.medium
  mediumSize := h'.mediumSize.trans h.mediumSize
  answers := by
    obtain ⟨n, hn⟩ := h.answers
    obtain ⟨m, hm⟩ := h'.answers
    exact ⟨n + m, by rw [hm, hn, List.drop_drop]⟩

/-- An extractor operation only reads the medium. -/
theorem State.FxOnly.mediumKept {s t : State} (h : s.FxOnly t) : s.MediumKept t :=
  ⟨by rw [h.frame], by rw [h.frame], h.answers⟩

/-! ## Outcomes that keep the medium -/

/-- The next state of an outcome, if it has one, has the medium of `s`. -/
def State.KeepsMedium (s : State) (o : Out) : Prop := ∀ t, o = .next t → s.MediumKept t

section answers
variable {s t u : State} (h : s.MediumKept t)
include h

theorem State.MediumKept.next (hport : u.mediumPort = t.mediumPort) : s.KeepsMedium (.next u) := by
  rintro v ⟨⟩
  exact h.of_port hport

theorem State.MediumKept.ok {v : Value} (hport : u.mediumPort = t.mediumPort) : s.KeepsMedium (u.ok v) :=
  h.next (u := u.respond v) hport

theorem State.MediumKept.fail {e : Exc} {v : Value} (hport : u.mediumPort = t.mediumPort) :
    s.KeepsMedium (u.fail e v) := h.next (u := u.raise e v) hport

theorem State.MediumKept.finish (r : Reply) : s.KeepsMedium (t.finish r) := by
  unfold State.finish
  split
  · exact h.ok rfl
  · exact h.fail rfl

end answers

/-- What keeps the medium from a state with the same medium's side. -/
theorem State.KeepsMedium.of_port {s t : State} {o : Out} (ho : t.KeepsMedium o) (hport : t.mediumPort = s.mediumPort) :
    s.KeepsMedium o := fun u hu => ((State.MediumKept.refl s).of_port hport).trans (ho u hu)

section gates
variable (s : State)

theorem State.keeps_next {t : State} (hport : t.mediumPort = s.mediumPort) : s.KeepsMedium (.next t) :=
  (State.MediumKept.refl s).next hport

theorem State.keeps_ok {t : State} {v : Value} (hport : t.mediumPort = s.mediumPort) :
    s.KeepsMedium (t.ok v) := (State.MediumKept.refl s).ok hport

theorem State.keeps_fail {t : State} {e : Exc} {v : Value} (hport : t.mediumPort = s.mediumPort) :
    s.KeepsMedium (t.fail e v) := (State.MediumKept.refl s).fail hport

/-- A check that refuses the command, as `unlessOwned`, `withTrack`, `withContainer` and every operand check do. -/
theorem State.keeps_check {c : Prop} [Decidable c] {e : Exc} {v : Value} {k : Out} (hk : s.KeepsMedium k) :
    s.KeepsMedium (if c then s.fail e v else k) := by
  split
  · exact s.keeps_fail rfl
  · exact hk

theorem State.keeps_withFreeSlot {k : Slot → Out} (hk : ∀ sl, s.KeepsMedium (k sl)) :
    s.KeepsMedium (s.withFreeSlot k) := by
  unfold State.withFreeSlot
  split
  · exact hk _
  · exact s.keeps_fail rfl

/-- The gates in front of a command on the selected slot (40_bitreader.md R200 (a), 48_session.md R542). -/
theorem State.keeps_slotCommand {k : Slot → Out} (hk : ∀ sl, s.KeepsMedium (k sl)) :
    s.KeepsMedium (s.unlessOwned (s.withFreeSlot k)) := s.keeps_check (s.keeps_withFreeSlot hk)

/-- The gates in front of a converter command (48_session.md R542, 60_exceptions.md R602). -/
theorem State.keeps_converterCommand {k : Pc → Out} (hk : s.KeepsMedium (k s.pc)) :
    s.KeepsMedium (s.unlessOwned (s.withConverter k)) := s.keeps_check (s.keeps_check hk)

/-- A command that answers a value of the open container (46_fx_files.md R458 to R461). -/
theorem State.keeps_containerValue {v : Value} : s.KeepsMedium (s.withContainer (s.ok v)) :=
  s.keeps_check (s.keeps_ok rfl)

theorem State.keeps_takeDin {n : Nat} {i : Instr} {k : List Byte → State → Out}
    (hk : ∀ bytes, s.KeepsMedium (k bytes { s with din := s.din.drop n })) : s.KeepsMedium (s.takeDin n i k) := by
  unfold State.takeDin
  split
  · exact s.keeps_next rfl
  · exact hk _

theorem State.keeps_answerRead (r : Option Value × BitReader) : s.KeepsMedium (s.answerRead r) := by
  unfold State.answerRead
  split
  · exact s.keeps_ok rfl
  · exact s.keeps_fail rfl

end gates

/-! ## The BitReader and the arithmetic decoder -/

section units
variable (s : State)

theorem execBrLoad_keepsMedium (size : Nat) : s.KeepsMedium (execBrLoad size s) :=
  s.keeps_slotCommand fun _ => s.keeps_check <| s.keeps_takeDin fun _ => s.keeps_ok rfl

theorem execBrReadBits_keepsMedium (n : Nat) : s.KeepsMedium (execBrReadBits n s) :=
  s.keeps_slotCommand fun _ => s.keeps_check (s.keeps_answerRead _)

theorem execBrReadSigned_keepsMedium (n : Nat) : s.KeepsMedium (execBrReadSigned n s) :=
  s.keeps_slotCommand fun _ => s.keeps_check (s.keeps_answerRead _)

theorem execBrRice_keepsMedium (m : Nat) : s.KeepsMedium (execBrRice m s) :=
  s.keeps_slotCommand fun _ => s.keeps_check (s.keeps_answerRead _)

theorem execAcDecode_keepsMedium (p flush : Nat) : s.KeepsMedium (execAcDecode p flush s) := by
  refine s.keeps_slotCommand fun sl => ?_
  split
  · exact s.keeps_fail rfl
  · exact s.keeps_ok rfl
  · refine s.keeps_check ?_
    dsimp only
    split
    · rintro t ⟨⟩
    · exact s.keeps_ok rfl

end units

/-! ## Frame decodes and the ring -/

theorem State.retire_mediumPort (s : State) : s.retire.mediumPort = s.mediumPort := by
  rcases s.retire_cases with ⟨_, hr⟩ | ⟨_, hr⟩
  · rw [hr]
    rfl
  · rw [hr]
    rfl

theorem State.collectBody_mediumPort (s : State) : s.collectBody.2.mediumPort = s.mediumPort := s.retire_mediumPort

theorem State.submitFrame_mediumPort (s : State) (f : Frame) : (s.submitFrame f).mediumPort = s.mediumPort := by
  unfold State.submitFrame
  split
  · rfl
  · split <;> rfl

section ring
variable (s : State)

theorem execDstDecode_keepsMedium : s.KeepsMedium (execDstDecode s) := by
  refine s.keeps_slotCommand fun sl => s.keeps_check ?_
  dsimp only
  split
  · exact s.keeps_ok rfl
  · exact s.keeps_fail rfl

theorem execSubmit_keepsMedium (size : Nat) : s.KeepsMedium (execSubmit size s) := by
  refine s.keeps_check ?_
  split
  · exact s.keeps_check (s.keeps_ok rfl)
  · refine s.keeps_check <| s.keeps_check ?_
    split
    · exact s.keeps_next rfl
    · exact s.keeps_takeDin fun _ => s.keeps_ok rfl

theorem execSubmitDsd_keepsMedium (size : Nat) : s.KeepsMedium (execSubmitDsd size s) := by
  refine s.keeps_check <| s.keeps_check <| s.keeps_check ?_
  split
  · exact s.keeps_next rfl
  · exact s.keeps_takeDin fun _ => s.keeps_ok rfl

theorem execCollect_keepsMedium (handle : Nat) : s.KeepsMedium (execCollect handle s) :=
  s.keeps_check <| s.keeps_check <| s.keeps_check <|
    ((State.MediumKept.refl s).of_port s.collectBody_mediumPort).finish _

end ring

/-! ## The converter -/

section converter
variable (s : State)

theorem execPcInit_keepsMedium (ch dsd pcm : Nat) : s.KeepsMedium (execPcInit ch dsd pcm s) := by
  refine s.keeps_check <| s.keeps_check ?_
  split
  · exact s.keeps_fail rfl
  · exact s.keeps_fail rfl
  · exact s.keeps_ok rfl

theorem execPcConvert_keepsMedium (size : Nat) : s.KeepsMedium (execPcConvert size s) :=
  s.keeps_converterCommand <| s.keeps_check <| s.keeps_takeDin fun _ => s.keeps_ok rfl

theorem execPcDegibbs_keepsMedium (side n : Nat) : s.KeepsMedium (execPcDegibbs side n s) := by
  refine s.keeps_converterCommand ?_
  split
  · exact s.keeps_fail rfl
  · exact s.keeps_check (s.keeps_ok rfl)

theorem execPcPack_keepsMedium (skip count : Nat) : s.KeepsMedium (execPcPack skip count s) :=
  s.keeps_converterCommand <| s.keeps_check (s.keeps_ok rfl)

end converter

/-! ## The extractor and the session -/

section session
variable (s : State)

/-- However the parse ends, it has only read the medium (48_session.md R540). -/
theorem execOpen_keepsMedium (kind : Nat) : s.KeepsMedium (execOpen kind s) := by
  unfold execOpen
  split
  · exact s.keeps_fail rfl
  · next k _ =>
    refine s.keeps_check ?_
    have hparse : s.MediumKept (endState (fxOpen k s.resetFx)) :=
      ((s.setFx_only Fx.reset).trans _ _ _ (fxOpen_only k s.resetFx)).mediumKept
    split
    · next t ht =>
      rw [ht] at hparse
      exact hparse.ok rfl
    · next e t ht =>
      rw [ht] at hparse
      exact hparse.fail rfl

theorem execSetTrack_keepsMedium (track area : Nat) : s.KeepsMedium (execSetTrack track area s) := by
  refine s.keeps_check <| s.keeps_check ?_
  split
  · exact s.keeps_fail rfl
  · next a _ =>
    refine s.keeps_check ?_
    have hread := (s.readTrackList_only track a).mediumKept
    split
    · next hr =>
      rw [hr] at hread
      exact hread.fail rfl
    · next list t hr =>
      rw [hr] at hread
      exact hread.ok rfl

theorem execInitTrack_keepsMedium (track area pcm : Nat) : s.KeepsMedium (execInitTrack track area pcm s) := by
  refine s.keeps_check ?_
  split
  · exact s.keeps_fail rfl
  · exact s.keeps_fail rfl
  · next a rate _ _ =>
    refine s.keeps_check <| s.keeps_check ?_
    have hread := (s.readTrackList_only track a).mediumKept
    split
    · next hr =>
      rw [hr] at hread
      exact hread.fail rfl
    · next list t hr =>
      rw [hr] at hread
      exact hread.ok rfl

theorem execReadFrame_keepsMedium : s.KeepsMedium (execReadFrame s) := by
  refine s.keeps_check <| s.keeps_check ?_
  have hread := s.readFrameBody_only.mediumKept
  split
  · next hr =>
    rw [hr] at hread
    exact hread.ok rfl
  · next f t hr =>
    rw [hr] at hread
    exact hread.ok rfl

theorem execSeek_keepsMedium (frame : Nat) : s.KeepsMedium (execSeek frame s) := by
  refine s.keeps_check <| s.keeps_check ?_
  have hseek := (s.seekKind_only frame).mediumKept
  split
  · next hr =>
    rw [hr] at hseek
    exact hseek.fail rfl
  · next t hr =>
    rw [hr] at hseek
    exact hseek.ok rfl

/-- The read-ahead only reads the medium, once for each frame and each part of it (48_session.md R550). -/
theorem State.fillRing_mediumKept : ∀ (fuel : Nat) (s : State), s.MediumKept (State.fillRing fuel s)
  | 0, s => State.MediumKept.refl s
  | fuel + 1, s => by
    have hread := s.readFrameBody_only.mediumKept
    rw [State.fillRing]
    split
    · split
      · next hr =>
        rw [hr] at hread
        exact hread
      · next f t hr =>
        rw [hr] at hread
        exact (hread.of_port (t.submitFrame_mediumPort f)).trans (State.fillRing_mediumKept fuel _)
    · exact State.MediumKept.refl s

theorem State.retireFrame_mediumPort : s.retireFrame.2.mediumPort = s.mediumPort := s.collectBody_mediumPort

theorem State.flushTrack_mediumPort : s.flushTrack.2.mediumPort = s.mediumPort := by
  unfold State.flushTrack
  split <;> rfl

theorem State.decodeNextBody_mediumKept : s.MediumKept s.decodeNextBody.2 := by
  unfold State.decodeNextBody
  have hfill := State.fillRing_mediumKept (2 ^ 70) s
  generalize State.fillRing (2 ^ 70) s = t at hfill
  dsimp only
  split
  · exact hfill.of_port t.retireFrame_mediumPort
  · exact hfill.of_port t.flushTrack_mediumPort

theorem execRdreg_keepsMedium (idx : Nat) : s.KeepsMedium (execRdreg idx s) := by
  unfold execRdreg
  split
  · exact s.keeps_ok rfl
  · exact s.keeps_fail rfl

theorem State.writeReg_mediumPort (r : WritableReg) (v : Nat) : (s.writeReg r v).mediumPort = s.mediumPort := by
  cases r <;> rfl

theorem execWrreg_keepsMedium (idx imm16 : Nat) : s.KeepsMedium (execWrreg idx imm16 s) := by
  unfold execWrreg
  split
  · exact s.keeps_fail rfl
  · next r _ =>
    exact s.keeps_check <| s.keeps_check <| s.keeps_check <| s.keeps_ok (s.writeReg_mediumPort r imm16)

end session

/-! ## The step -/

/-- No instruction writes the medium (20_memory.md R106). -/
theorem exec_keepsMedium (i : Instr) (s : State) : s.KeepsMedium (exec i s) := by
  cases i with
  | nop => exact s.keeps_ok rfl
  | reset => exact s.keeps_ok rfl
  | openMedium kind => exact execOpen_keepsMedium s kind
  | initTrack track area pcm => exact execInitTrack_keepsMedium s track area pcm
  | decodeNext => exact s.keeps_check (s.decodeNextBody_mediumKept.finish _)
  | close => exact s.keeps_ok rfl
  | rdreg idx => exact execRdreg_keepsMedium s idx
  | wrreg idx imm16 => exact execWrreg_keepsMedium s idx imm16
  | setTrack track area => exact execSetTrack_keepsMedium s track area
  | readFrame => exact execReadFrame_keepsMedium s
  | seek frame => exact execSeek_keepsMedium s frame
  | getChannels => exact s.keeps_containerValue
  | getSamplerate => exact s.keeps_containerValue
  | getFramerate => exact s.keeps_containerValue
  | getProgress => exact s.keeps_containerValue
  | poolInit ch => exact s.keeps_check <| s.keeps_check <| s.keeps_check <| s.keeps_ok rfl
  | submit size => exact execSubmit_keepsMedium s size
  | submitDsd size => exact execSubmitDsd_keepsMedium s size
  | collect handle => exact execCollect_keepsMedium s handle
  | dstDecode => exact execDstDecode_keepsMedium s
  | slotRead => exact s.keeps_slotCommand fun _ => s.keeps_ok rfl
  | brLoad size => exact execBrLoad_keepsMedium s size
  | brReadBit => exact s.keeps_slotCommand fun _ => s.keeps_answerRead _
  | brReadBits n => exact execBrReadBits_keepsMedium s n
  | brReadSigned n => exact execBrReadSigned_keepsMedium s n
  | brReadByteAligned => exact s.keeps_slotCommand fun _ => s.keeps_answerRead _
  | brRice m => exact execBrRice_keepsMedium s m
  | acStart => exact s.keeps_slotCommand fun _ => s.keeps_ok rfl
  | acDecode p flush => exact execAcDecode_keepsMedium s p flush
  | acQuantize len pred => exact s.keeps_check (s.keeps_ok rfl)
  | pcInit ch dsd pcm => exact execPcInit_keepsMedium s ch dsd pcm
  | pcConvert size => exact execPcConvert_keepsMedium s size
  | pcGetDelay => exact s.keeps_check (s.keeps_ok rfl)
  | pcIsConvertCalled => exact s.keeps_ok rfl
  | pcDegibbs side n => exact execPcDegibbs_keepsMedium s side n
  | pcPack skip count => exact execPcPack_keepsMedium s skip count
  | pcReadf => exact s.keeps_converterCommand (s.keeps_ok rfl)
  | dstfCoded x => exact s.keeps_next rfl
  | dstfPlain x => exact s.keeps_next rfl

theorem step_keepsMedium (s : State) : s.KeepsMedium (step s) := by
  have hcases := step_cases s
  generalize step s = o at hcases
  cases hcases with
  | reset _ => exact s.keeps_next rfl
  | stay => exact s.keeps_next rfl
  | noFrame k ks _ => exact s.keeps_next rfl
  | badFrame k ks _ _ => exact s.keeps_next rfl
  | frame i _ _ => exact exec_keepsMedium i s
  | held i _ _ => exact (exec_keepsMedium i { s with held := none }).of_port rfl
  | command w ws i _ _ _ _ => exact (exec_keepsMedium i { s with cmd := ws }).of_port rfl
  | illegal w ws _ => exact s.keeps_next rfl

/-- Settles O12: every case of a step, and in it every instruction, keeps the medium. -/
theorem mediumIsReadOnly : Obligations.MediumIsReadOnly := by
  unfold Obligations.MediumIsReadOnly
  intro s t hstep
  obtain ⟨hmedium, hsize, hanswers⟩ := step_keepsMedium s t hstep
  exact ⟨hmedium, hsize, hanswers⟩

end Sys2Proof.Machine
end

section
/-! PROOFS (O1 to O4). The decoder and the encoder of command words and frame bytes (30_encoding.md R141, R143, R151,
R160). The seven formats are treated once each, for any row that has the format: what the row's words decode to (for
O1), and which of the words of its opcode decode (`RowDecodes`, for O2 and O3). The table of R143 is then walked twice:
along the constructors in `decodeOfEncode`, along the opcodes in `decode_cases`. -/

namespace Sys2Proof

open Sys2Proof.Claims Sys2Proof.Machine

/-! ## The fields of a word -/

theorem fits8_iff {v : Nat} : fits8 v = true ↔ v < 2 ^ 8 := decide_eq_true_iff

theorem fits12_iff {v : Nat} : fits12 v = true ↔ v < 2 ^ 12 := decide_eq_true_iff

theorem fits16_iff {v : Nat} : fits16 v = true ↔ v < 2 ^ 16 := decide_eq_true_iff

theorem fits24_iff {v : Nat} : fits24 v = true ↔ v < 2 ^ 24 := decide_eq_true_iff

/-- A word is the command word of its opcode and its low 24 bits (30_encoding.md R141). -/
theorem commandWord_fields (w : Word) : commandWord (w.toNat / 2 ^ 24) (w.toNat % 2 ^ 24) = .command w := by
  rw [commandWord, Nat.div_add_mod', BitVec.ofNat_toNat, BitVec.setWidth_eq]

/-- What reads every word of an opcode reads the command words made with it (30_encoding.md R141). -/
theorem decodeEncoding_commandWord {op low : Nat} {parse : Nat → Except DecodeError Instr} (hop : op < 2 ^ 8)
    (hlow : low < 2 ^ 24) (hrow : ∀ w : Word, w.toNat / 2 ^ 24 = op → decode w = parse (w.toNat % 2 ^ 24)) :
    decodeEncoding (commandWord op low) = parse low := by
  have hw : (BitVec.ofNat 32 (op * 2 ^ 24 + low)).toNat = op * 2 ^ 24 + low := by
    rw [BitVec.toNat_ofNat]
    omega
  refine (hrow _ (by omega)).trans (congrArg parse ?_)
  omega

/-! ## Each format decodes what it encodes

Each lemma is about any row of the table with the format named. Its hypothesis `hrow`, that the decoder reads the words
of the opcode by this format, is found in `decode` for the opcode at hand. -/

section roundtrip
variable {op a b c v : Nat}

theorem decode_formatZ {i : Instr}
    (hrow : ∀ w : Word, w.toNat / 2 ^ 24 = op → decode w = formatZ (w.toNat % 2 ^ 24) i := by
      intro w h; simp only [decode, h])
    (hop : op < 2 ^ 8 := by decide) : decodeEncoding (commandWord op 0) = .ok i :=
  decodeEncoding_commandWord (parse := fun low => formatZ low i) hop (by decide) hrow

theorem decode_formatA {f : Nat → Instr} (ha : fits8 a = true)
    (hrow : ∀ w : Word, w.toNat / 2 ^ 24 = op → decode w = formatA (w.toNat % 2 ^ 24) f := by
      intro w h; simp only [decode, h])
    (hop : op < 2 ^ 8 := by decide) : decodeEncoding (commandWord op (lowABC a 0 0)) = .ok (f a) := by
  have ha' := fits8_iff.mp ha
  have hfield : lowABC a 0 0 / 2 ^ 16 = a := by unfold lowABC; omega
  have hrest : lowABC a 0 0 % 2 ^ 16 = 0 := by unfold lowABC; omega
  rw [decodeEncoding_commandWord (parse := fun low => formatA low f) hop (by unfold lowABC; omega) hrow, formatA,
    if_pos hrest, hfield]

theorem decode_formatAB {f : Nat → Nat → Instr} (h : (fits8 a && fits8 b) = true)
    (hrow : ∀ w : Word, w.toNat / 2 ^ 24 = op → decode w = formatAB (w.toNat % 2 ^ 24) f := by
      intro w h; simp only [decode, h])
    (hop : op < 2 ^ 8 := by decide) : decodeEncoding (commandWord op (lowABC a b 0)) = .ok (f a b) := by
  simp only [Bool.and_eq_true, fits8_iff] at h
  obtain ⟨ha, hb⟩ := h
  obtain ⟨hfirst, hsecond⟩ : lowABC a b 0 / 2 ^ 16 = a ∧ lowABC a b 0 / 2 ^ 8 % 2 ^ 8 = b := by unfold lowABC; omega
  have hrest : lowABC a b 0 % 2 ^ 8 = 0 := by unfold lowABC; omega
  rw [decodeEncoding_commandWord (parse := fun low => formatAB low f) hop (by unfold lowABC; omega) hrow, formatAB,
    if_pos hrest, hfirst, hsecond]

theorem decode_formatABC {f : Nat → Nat → Nat → Instr} (h : (fits8 a && fits8 b && fits8 c) = true)
    (hrow : ∀ w : Word, w.toNat / 2 ^ 24 = op → decode w = formatABC (w.toNat % 2 ^ 24) f := by
      intro w h; simp only [decode, h])
    (hop : op < 2 ^ 8 := by decide) : decodeEncoding (commandWord op (lowABC a b c)) = .ok (f a b c) := by
  simp only [Bool.and_eq_true, fits8_iff] at h
  obtain ⟨⟨ha, hb⟩, hc⟩ := h
  obtain ⟨hfirst, hsecond, hthird⟩ :
      lowABC a b c / 2 ^ 16 = a ∧ lowABC a b c / 2 ^ 8 % 2 ^ 8 = b ∧ lowABC a b c % 2 ^ 8 = c := by
    unfold lowABC
    omega
  rw [decodeEncoding_commandWord (parse := fun low => formatABC low f) hop (by unfold lowABC; omega) hrow, formatABC,
    hfirst, hsecond, hthird]

theorem decode_formatI24 {f : Nat → Instr} (hv : fits24 v = true)
    (hrow : ∀ w : Word, w.toNat / 2 ^ 24 = op → decode w = formatI24 (w.toNat % 2 ^ 24) f := by
      intro w h; simp only [decode, h])
    (hop : op < 2 ^ 8 := by decide) : decodeEncoding (commandWord op v) = .ok (f v) :=
  decodeEncoding_commandWord (parse := fun low => formatI24 low f) hop (fits24_iff.mp hv) hrow

theorem decode_formatAI16 {f : Nat → Nat → Instr} (h : (fits8 a && fits16 v) = true)
    (hrow : ∀ w : Word, w.toNat / 2 ^ 24 = op → decode w = formatAI16 (w.toNat % 2 ^ 24) f := by
      intro w h; simp only [decode, h])
    (hop : op < 2 ^ 8 := by decide) : decodeEncoding (commandWord op (a * 2 ^ 16 + v)) = .ok (f a v) := by
  simp only [Bool.and_eq_true, fits8_iff, fits16_iff] at h
  obtain ⟨ha, hv⟩ := h
  obtain ⟨hfirst, hsecond⟩ : (a * 2 ^ 16 + v) / 2 ^ 16 = a ∧ (a * 2 ^ 16 + v) % 2 ^ 16 = v := by omega
  rw [decodeEncoding_commandWord (parse := fun low => formatAI16 low f) hop (by omega) hrow, formatAI16,
    hfirst, hsecond]

theorem decode_formatSC {f : Nat → Nat → Instr} (h : (fits12 a && fits12 b) = true)
    (hrow : ∀ w : Word, w.toNat / 2 ^ 24 = op → decode w = formatSC (w.toNat % 2 ^ 24) f := by
      intro w h; simp only [decode, h])
    (hop : op < 2 ^ 8 := by decide) : decodeEncoding (commandWord op (a * 2 ^ 12 + b)) = .ok (f a b) := by
  simp only [Bool.and_eq_true, fits12_iff] at h
  obtain ⟨ha, hb⟩ := h
  obtain ⟨hfirst, hsecond⟩ : (a * 2 ^ 12 + b) / 2 ^ 12 = a ∧ (a * 2 ^ 12 + b) % 2 ^ 12 = b := by omega
  rw [decodeEncoding_commandWord (parse := fun low => formatSC low f) hop (by omega) hrow, formatSC,
    hfirst, hsecond]

end roundtrip

/-! ## Frame bytes (30_encoding.md R151) -/

theorem decodeFrameByte_coded {x : Nat} (hx : x < 2 ^ 7) :
    decodeFrameByte (BitVec.ofNat 8 (2 ^ 7 + x)) = .ok (.dstfCoded x) := by
  have hbyte : (BitVec.ofNat 8 (2 ^ 7 + x)).toNat = 2 ^ 7 + x := by
    rw [BitVec.toNat_ofNat]
    omega
  have hfirst : (2 ^ 7 + x) / 2 ^ 7 = 1 := by omega
  have hrest : (2 ^ 7 + x) % 2 ^ 7 = x := by omega
  simp only [decodeFrameByte, hbyte, if_pos hfirst, hrest]

theorem decodeFrameByte_plain {x : Nat} (hx : x < 2 ^ 1) :
    decodeFrameByte (BitVec.ofNat 8 (x * 2 ^ 6)) = .ok (.dstfPlain x) := by
  have hbyte : (BitVec.ofNat 8 (x * 2 ^ 6)).toNat = x * 2 ^ 6 := by
    rw [BitVec.toNat_ofNat]
    omega
  have hfirst : ¬ x * 2 ^ 6 / 2 ^ 7 = 1 := by omega
  have hfield : x * 2 ^ 6 % 2 ^ 6 = 0 := by omega
  have hdummy : x * 2 ^ 6 / 2 ^ 6 = x := by omega
  simp only [decodeFrameByte, hbyte, if_neg hfirst, if_pos hfield, hdummy]

/-- A frame byte that decodes is the encoding of its frame row. -/
theorem decodeFrameByte_sound {b : Byte} {i : Instr} (h : decodeFrameByte b = .ok i) :
    i.wellFormed = true ∧ encode i = .frameByte b := by
  have hb := b.isLt
  unfold decodeFrameByte at h
  dsimp only at h
  split at h
  · next hfirst =>
    cases h
    have hbyte : 2 ^ 7 + b.toNat % 2 ^ 7 = b.toNat := by omega
    exact ⟨decide_eq_true (by omega), by rw [encode, hbyte, BitVec.ofNat_toNat, BitVec.setWidth_eq]⟩
  · next hfirst =>
    split at h
    · next hfield =>
      cases h
      have hbyte : b.toNat / 2 ^ 6 * 2 ^ 6 = b.toNat := by omega
      exact ⟨decide_eq_true (by omega), by rw [encode, hbyte, BitVec.ofNat_toNat, BitVec.setWidth_eq]⟩
    · cases h

/-! ## Decoding the encoding of an instruction -/

/-- Settles O1: every row decodes by its format what its format encodes. -/
theorem decodeOfEncode : Obligations.DecodeOfEncode := by
  unfold Obligations.DecodeOfEncode
  intro i hwf
  cases i with
  | nop => exact decode_formatZ
  | reset => exact decode_formatZ
  | openMedium kind => exact decode_formatA hwf
  | initTrack track area pcm => exact decode_formatABC hwf
  | decodeNext => exact decode_formatZ
  | close => exact decode_formatZ
  | rdreg idx => exact decode_formatA hwf
  | wrreg idx imm16 => exact decode_formatAI16 hwf
  | setTrack track area => exact decode_formatAB hwf
  | readFrame => exact decode_formatZ
  | seek frame => exact decode_formatI24 hwf
  | getChannels => exact decode_formatZ
  | getSamplerate => exact decode_formatZ
  | getFramerate => exact decode_formatZ
  | getProgress => exact decode_formatZ
  | poolInit ch => exact decode_formatA hwf
  | submit size => exact decode_formatI24 hwf
  | submitDsd size => exact decode_formatI24 hwf
  | collect handle => exact decode_formatI24 hwf
  | dstDecode => exact decode_formatZ
  | slotRead => exact decode_formatZ
  | brLoad size => exact decode_formatI24 hwf
  | brReadBit => exact decode_formatZ
  | brReadBits n => exact decode_formatA hwf
  | brReadSigned n => exact decode_formatA hwf
  | brReadByteAligned => exact decode_formatZ
  | brRice m => exact decode_formatA hwf
  | acStart => exact decode_formatZ
  | acDecode p flush => exact decode_formatAB hwf
  | acQuantize len pred => exact decode_formatAI16 hwf
  | pcInit ch dsd pcm => exact decode_formatABC hwf
  | pcConvert size => exact decode_formatI24 hwf
  | pcGetDelay => exact decode_formatZ
  | pcIsConvertCalled => exact decode_formatZ
  | pcDegibbs side n => exact decode_formatAI16 hwf
  | pcPack skip count => exact decode_formatSC hwf
  | pcReadf => exact decode_formatZ
  | dstfCoded x => exact decodeFrameByte_coded (decide_eq_true_iff.mp hwf)
  | dstfPlain x => exact decodeFrameByte_plain (decide_eq_true_iff.mp hwf)

/-! ## Which words of an opcode decode

A format leaves the lowest `free` bits of a word unnamed: it decodes exactly the words whose lowest `free` bits are 0,
and what it decodes encodes to the word. -/

/-- The word `w`, of a listed opcode whose format leaves the lowest `free` bits unnamed, decodes as `r`
(30_encoding.md R141, R143, R160). -/
structure RowDecodes (w : Word) (free : Nat) (r : Except DecodeError Instr) : Prop where
  listed : (w.toNat / 2 ^ 24, 2 ^ free - 1) ∈ opcodeRows
  legal : (∃ i, r = .ok i) ↔ w.toNat % 2 ^ free = 0
  sound : ∀ i, r = .ok i → i.wellFormed = true ∧ encode i = .command w

section rows
variable {w : Word} {op : Nat} (hop : w.toNat / 2 ^ 24 = op)
include hop

/-- A format that checks its unnamed bits. -/
theorem RowDecodes.checked {free : Nat} {c : Prop} [Decidable c] {i : Instr}
    (hlisted : (op, 2 ^ free - 1) ∈ opcodeRows) (hc : c ↔ w.toNat % 2 ^ free = 0)
    (hi : c → i.wellFormed = true ∧ ∃ low, encode i = commandWord op low ∧ low = w.toNat % 2 ^ 24) :
    RowDecodes w free (if c then .ok i else .error .reservedBits) where
  listed := hop ▸ hlisted
  legal := by
    refine Iff.trans ⟨fun ⟨j, hj⟩ => ?_, fun h => ⟨i, if_pos h⟩⟩ hc
    by_contra h
    rw [if_neg h] at hj
    cases hj
  sound := by
    split
    · next h =>
      rintro _ ⟨⟩
      obtain ⟨hwf, low, henc, hlow⟩ := hi h
      exact ⟨hwf, by rw [henc, hlow, ← hop, commandWord_fields]⟩
    · rintro _ ⟨⟩

/-- A format that names every bit. -/
theorem RowDecodes.total {i : Instr} (hlisted : (op, 0) ∈ opcodeRows) (hwf : i.wellFormed = true)
    (hi : ∃ low, encode i = commandWord op low ∧ low = w.toNat % 2 ^ 24) : RowDecodes w 0 (.ok i) := by
  have hnone : True ↔ w.toNat % 2 ^ 0 = 0 := by simp [Nat.mod_one]
  have h := RowDecodes.checked (i := i) hop hlisted hnone fun _ => ⟨hwf, hi⟩
  rwa [if_pos trivial] at h

theorem RowDecodes.formatZ {i : Instr} (hlisted : (op, 2 ^ 24 - 1) ∈ opcodeRows := by decide)
    (hwf : i.wellFormed = true := by rfl) (henc : encode i = commandWord op 0 := by rfl) :
    RowDecodes w 24 (formatZ (w.toNat % 2 ^ 24) i) :=
  .checked hop hlisted Iff.rfl fun h => ⟨hwf, 0, henc, h.symm⟩

theorem RowDecodes.formatA {f : Nat → Instr} (hlisted : (op, 2 ^ 16 - 1) ∈ opcodeRows := by decide)
    (hwf : ∀ a, (f a).wellFormed = fits8 a := by exact fun _ => rfl)
    (henc : ∀ a, encode (f a) = commandWord op (lowABC a 0 0) := by exact fun _ => rfl) :
    RowDecodes w 16 (formatA (w.toNat % 2 ^ 24) f) :=
  .checked hop hlisted (by omega) fun h =>
    ⟨by rw [hwf, fits8_iff]; omega, _, henc _, by unfold lowABC; omega⟩

theorem RowDecodes.formatAB {f : Nat → Nat → Instr} (hlisted : (op, 2 ^ 8 - 1) ∈ opcodeRows := by decide)
    (hwf : ∀ a b, (f a b).wellFormed = (fits8 a && fits8 b) := by exact fun _ _ => rfl)
    (henc : ∀ a b, encode (f a b) = commandWord op (lowABC a b 0) := by exact fun _ _ => rfl) :
    RowDecodes w 8 (formatAB (w.toNat % 2 ^ 24) f) :=
  .checked hop hlisted (by omega) fun h =>
    ⟨by rw [hwf, Bool.and_eq_true, fits8_iff, fits8_iff]; omega, _, henc _ _, by unfold lowABC; omega⟩

theorem RowDecodes.formatABC {f : Nat → Nat → Nat → Instr} (hlisted : (op, 0) ∈ opcodeRows := by decide)
    (hwf : ∀ a b c, (f a b c).wellFormed = (fits8 a && fits8 b && fits8 c) := by exact fun _ _ _ => rfl)
    (henc : ∀ a b c, encode (f a b c) = commandWord op (lowABC a b c) := by exact fun _ _ _ => rfl) :
    RowDecodes w 0 (formatABC (w.toNat % 2 ^ 24) f) :=
  .total hop hlisted (by simp only [hwf, Bool.and_eq_true, fits8_iff]; omega)
    ⟨_, henc _ _ _, by unfold lowABC; omega⟩

theorem RowDecodes.formatI24 {f : Nat → Instr} (hlisted : (op, 0) ∈ opcodeRows := by decide)
    (hwf : ∀ v, (f v).wellFormed = fits24 v := by exact fun _ => rfl)
    (henc : ∀ v, encode (f v) = commandWord op v := by exact fun _ => rfl) :
    RowDecodes w 0 (formatI24 (w.toNat % 2 ^ 24) f) :=
  .total hop hlisted (by rw [hwf, fits24_iff]; omega) ⟨_, henc _, rfl⟩

theorem RowDecodes.formatAI16 {f : Nat → Nat → Instr} (hlisted : (op, 0) ∈ opcodeRows := by decide)
    (hwf : ∀ a v, (f a v).wellFormed = (fits8 a && fits16 v) := by exact fun _ _ => rfl)
    (henc : ∀ a v, encode (f a v) = commandWord op (a * 2 ^ 16 + v) := by exact fun _ _ => rfl) :
    RowDecodes w 0 (formatAI16 (w.toNat % 2 ^ 24) f) :=
  .total hop hlisted (by rw [hwf, Bool.and_eq_true, fits8_iff, fits16_iff]; omega)
    ⟨_, henc _ _, Nat.div_add_mod' _ _⟩

theorem RowDecodes.formatSC {f : Nat → Nat → Instr} (hlisted : (op, 0) ∈ opcodeRows := by decide)
    (hwf : ∀ a b, (f a b).wellFormed = (fits12 a && fits12 b) := by exact fun _ _ => rfl)
    (henc : ∀ a b, encode (f a b) = commandWord op (a * 2 ^ 12 + b) := by exact fun _ _ => rfl) :
    RowDecodes w 0 (formatSC (w.toNat % 2 ^ 24) f) :=
  .total hop hlisted (by rw [hwf, Bool.and_eq_true, fits12_iff, fits12_iff]; omega)
    ⟨_, henc _ _, Nat.div_add_mod' _ _⟩

end rows

/-- All that decoding a word can be: its opcode is in no row of R143, or its row decodes it. -/
inductive Decoding (w : Word) : Except DecodeError Instr → Prop where
  | unlisted (h : ∀ r ∈ opcodeRows, w.toNat / 2 ^ 24 ≠ r.1) : Decoding w (.error .illegalOpcode)
  | row {free : Nat} {r : Except DecodeError Instr} (h : RowDecodes w free r) : Decoding w r

theorem decode_cases (w : Word) : Decoding w (decode w) := by
  unfold decode
  dsimp only
  split
  · next hop => exact .row (.formatZ hop)
  · next hop => exact .row (.formatZ hop)
  · next hop => exact .row (.formatA hop)
  · next hop => exact .row (.formatABC hop)
  · next hop => exact .row (.formatZ hop)
  · next hop => exact .row (.formatZ hop)
  · next hop => exact .row (.formatA hop)
  · next hop => exact .row (.formatAI16 hop)
  · next hop => exact .row (.formatAB hop)
  · next hop => exact .row (.formatZ hop)
  · next hop => exact .row (.formatI24 hop)
  · next hop => exact .row (.formatZ hop)
  · next hop => exact .row (.formatZ hop)
  · next hop => exact .row (.formatZ hop)
  · next hop => exact .row (.formatZ hop)
  · next hop => exact .row (.formatA hop)
  · next hop => exact .row (.formatI24 hop)
  · next hop => exact .row (.formatI24 hop)
  · next hop => exact .row (.formatI24 hop)
  · next hop => exact .row (.formatZ hop)
  · next hop => exact .row (.formatZ hop)
  · next hop => exact .row (.formatI24 hop)
  · next hop => exact .row (.formatZ hop)
  · next hop => exact .row (.formatA hop)
  · next hop => exact .row (.formatA hop)
  · next hop => exact .row (.formatZ hop)
  · next hop => exact .row (.formatA hop)
  · next hop => exact .row (.formatZ hop)
  · next hop => exact .row (.formatAB hop)
  · next hop => exact .row (.formatAI16 hop)
  · next hop => exact .row (.formatABC hop)
  · next hop => exact .row (.formatI24 hop)
  · next hop => exact .row (.formatZ hop)
  · next hop => exact .row (.formatZ hop)
  · next hop => exact .row (.formatAI16 hop)
  · next hop => exact .row (.formatSC hop)
  · next hop => exact .row (.formatZ hop)
  · refine .unlisted ?_
    simp_all [opcodeRows]

/-! ## Decoding is the inverse of encoding, and legal words are what decodes -/

/-- Settles O2: a word decodes by its row, a frame byte by R151, and both only to what encodes to them. -/
theorem encodeOfDecode : Obligations.EncodeOfDecode := by
  unfold Obligations.EncodeOfDecode
  refine ⟨fun w i hdecode => ?_, fun b i => decodeFrameByte_sound⟩
  have hcases := decode_cases w
  rw [hdecode] at hcases
  cases hcases with
  | row h => exact h.sound i rfl

/-- An opcode stands in one row of the table (30_encoding.md R143). -/
theorem opcodeRows_unique : ∀ r ∈ opcodeRows, ∀ r' ∈ opcodeRows, r.1 = r'.1 → r = r' := by decide

/-- A word is legal when the bits that its row leaves unnamed are 0 (30_encoding.md R160). -/
theorem RowDecodes.legalWord_iff {w : Word} {free : Nat} {r : Except DecodeError Instr} (h : RowDecodes w free r) :
    legalWord w ↔ w.toNat % 2 ^ free = 0 := by
  constructor
  · rintro ⟨row, hrow, hop, hbits⟩
    rw [opcodeRows_unique row hrow _ h.listed hop.symm, Nat.and_two_pow_sub_one_eq_mod] at hbits
    exact hbits
  · intro hbits
    exact ⟨_, h.listed, rfl, by rw [Nat.and_two_pow_sub_one_eq_mod]; exact hbits⟩

/-- A word decodes exactly when it is legal (30_encoding.md R160). -/
theorem decode_ok_iff_legalWord (w : Word) : (∃ i, decode w = .ok i) ↔ legalWord w := by
  have hcases := decode_cases w
  generalize decode w = r at hcases
  cases hcases with
  | unlisted hop => exact ⟨fun ⟨_, hi⟩ => (nomatch hi), fun ⟨row, hrow, h, _⟩ => absurd h (hop row hrow)⟩
  | row h => exact h.legal.trans h.legalWord_iff.symm

/-- A word that is no command is taken off the port and answered with `E_ILLEGAL` (60_exceptions.md R611). -/
theorem Machine.State.fetchCommand_illegal {s : State} {w : Word} {ws : List Word} (hcmd : s.cmd = w :: ws)
    (hw : ¬ legalWord w) : s.fetchCommand = .become (({ s with cmd := ws } : State).refusedWith 1 w.toNat) := by
  rcases hdecode : decode w with e | i
  · simp only [State.fetchCommand, hcmd, hdecode, State.illegal_eq]
  · exact absurd ((decode_ok_iff_legalWord w).mp ⟨i, hdecode⟩) hw

/-- Settles O3: legal words are what decodes, and the sequencer refuses the others. -/
theorem illegalWordsAreRefused : Obligations.IllegalWordsAreRefused := by
  unfold Obligations.IllegalWordsAreRefused
  refine ⟨decode_ok_iff_legalWord, fun s w ws hready hcmd hw => ?_⟩
  obtain ⟨hrst, hturns, hstuck, hheld⟩ := hready
  have hfetch : s.fetch = .become (({ s with cmd := ws } : State).refusedWith 1 w.toNat) := by
    rw [State.fetch_sequencer hrst hturns, State.fetchSequencer_command hstuck hheld,
      State.fetchCommand_illegal hcmd hw]
  rw [step, hfetch]

/-- Settles O4: each word is the encoding of its instruction. -/
theorem sampleWordsDecode : Obligations.SampleWordsDecode := by
  unfold Obligations.SampleWordsDecode
  exact ⟨decodeOfEncode (.initTrack 0 0 1) rfl, decodeOfEncode (.setTrack 0 2) rfl, decodeOfEncode (.collect 1) rfl,
    decodeOfEncode (.brReadSigned 9) rfl, decodeOfEncode (.acDecode 0 1) rfl, decodeOfEncode (.acQuantize 2 0xFF00) rfl,
    decodeOfEncode (.pcPack 8 2) rfl, decodeOfEncode (.dstfCoded 0x7C) rfl, decodeOfEncode (.dstfPlain 1) rfl⟩

end Sys2Proof
end

section
/-! PROOFS (O9). What an instruction does to the three ports (30_encoding.md R140, R144): bytes are only appended to
DOUT and only taken off the front of DIN, and a command ends with one response or waits. Until a command responds it is
`State.Unanswered`; most operations do not touch the ports at all, which is an equation of `State.ports`. -/

namespace Sys2Proof.Machine

/-! ## The ports -/

/-- The ports that a command answers on and takes bytes from. -/
structure Ports where
  din : List Byte
  dout : List Byte
  rsp : List Response

/-- The ports of a state. -/
def State.ports (s : State) : Ports := { din := s.din, dout := s.dout, rsp := s.rsp }

/-- From `s` to `t` bytes are appended to DOUT and taken off the front of DIN, and nothing is answered yet. -/
structure State.Unanswered (s t : State) : Prop where
  dout : ∃ out, t.dout = s.dout ++ out
  din : ∃ n, t.din = s.din.drop n
  rsp : t.rsp = s.rsp

/-- What does not touch the ports answers nothing. -/
theorem State.Unanswered.of_ports {s t : State} (h : t.ports = s.ports) : s.Unanswered t := by
  simp only [State.ports, Ports.mk.injEq] at h
  obtain ⟨hdin, hdout, hrsp⟩ := h
  exact ⟨⟨[], by rw [hdout, List.append_nil]⟩, ⟨0, by rw [hdin, List.drop_zero]⟩, hrsp⟩

theorem State.Unanswered.trans {s t u : State} (h : s.Unanswered t) (h' : t.Unanswered u) : s.Unanswered u where
  dout := by
    obtain ⟨out, hout⟩ := h.dout
    obtain ⟨out', hout'⟩ := h'.dout
    exact ⟨out ++ out', by rw [hout', hout, List.append_assoc]⟩
  din := by
    obtain ⟨n, hn⟩ := h.din
    obtain ⟨m, hm⟩ := h'.din
    exact ⟨n + m, by rw [hm, hn, List.drop_drop]⟩
  rsp := h'.rsp.trans h.rsp

theorem State.emit_unanswered (s : State) (bytes : List Byte) : s.Unanswered (s.emit bytes) :=
  ⟨⟨bytes, rfl⟩, ⟨0, rfl⟩, rfl⟩

theorem State.dropDin_unanswered (s : State) (n : Nat) : s.Unanswered { s with din := s.din.drop n } :=
  ⟨⟨[], (List.append_nil _).symm⟩, ⟨n, rfl⟩, rfl⟩

/-- The extractor has no part in the ports. -/
theorem State.FxOnly.ports {s t : State} (h : s.FxOnly t) : t.ports = s.ports := by rw [h.frame]; rfl

/-! ## Outcomes on the ports -/

/-- The next state of an outcome of `i`, if it has one, keeps to the ports' rules: what is emitted and taken, and one
response, or none for a frame row or while `i` is held. -/
def State.KeepsPorts (s : State) (i : Instr) (o : Out) : Prop :=
  ∀ t, o = .next t → (∃ out, t.dout = s.dout ++ out) ∧ (∃ n, t.din = s.din.drop n) ∧
    ((∃ r, t.rsp = s.rsp ++ [r]) ∨ (t.rsp = s.rsp ∧ (i.isFrame = true ∨ t.held = some i)))

section answers
variable {s t : State} {i : Instr} (h : s.Unanswered t)
include h

theorem State.Unanswered.ok (v : Value) : s.KeepsPorts i (t.ok v) := by
  rintro _ ⟨⟩
  exact ⟨h.dout, h.din, .inl ⟨_, by rw [State.respond_rsp, h.rsp]⟩⟩

theorem State.Unanswered.fail (e : Exc) (v : Value) : s.KeepsPorts i (t.fail e v) := by
  rintro _ ⟨⟩
  exact ⟨h.dout, h.din, .inl ⟨_, by rw [State.raise_rsp, h.rsp]⟩⟩

theorem State.Unanswered.finish (r : Reply) : s.KeepsPorts i (t.finish r) := by
  have hemit := h.trans (t.emit_unanswered r.out)
  unfold State.finish
  split
  · exact hemit.ok _
  · exact hemit.fail _ _

/-- A command that waits is held and answers nothing (70_reset_and_hazards.md R710 (k)). -/
theorem State.Unanswered.waits (hheld : t.held = some i) : s.KeepsPorts i (.next t) := by
  rintro _ ⟨⟩
  exact ⟨h.dout, h.din, .inr ⟨h.rsp, .inr hheld⟩⟩

/-- A frame row answers nothing (30_encoding.md R151). -/
theorem State.Unanswered.frame (hframe : i.isFrame = true) : s.KeepsPorts i (.next t) := by
  rintro _ ⟨⟩
  exact ⟨h.dout, h.din, .inr ⟨h.rsp, .inl hframe⟩⟩

/-- A command that goes on from where it has taken its bytes. -/
theorem State.Unanswered.goesOn {o : Out} (ho : t.KeepsPorts i o) : s.KeepsPorts i o := by
  intro u hu
  obtain ⟨⟨out, hout⟩, ⟨n, hn⟩, hrsp⟩ := ho u hu
  obtain ⟨out', hout'⟩ := h.dout
  obtain ⟨m, hm⟩ := h.din
  rw [h.rsp] at hrsp
  exact ⟨⟨out' ++ out, by rw [hout, hout', List.append_assoc]⟩, ⟨m + n, by rw [hn, hm, List.drop_drop]⟩, hrsp⟩

end answers

section gates
variable {s t : State} {i : Instr}

theorem State.keepsPorts_ok {v : Value} (h : t.ports = s.ports) : s.KeepsPorts i (t.ok v) :=
  (State.Unanswered.of_ports h).ok v

theorem State.keepsPorts_fail {e : Exc} {v : Value} (h : t.ports = s.ports) : s.KeepsPorts i (t.fail e v) :=
  (State.Unanswered.of_ports h).fail e v

theorem State.keepsPorts_emit {bytes : List Byte} {v : Value} : s.KeepsPorts i ((s.emit bytes).ok v) :=
  (s.emit_unanswered bytes).ok v

/-- A check that refuses the command, as `unlessOwned`, `withConverter`, `withTrack`, `withContainer` and every operand
check do. -/
theorem State.keepsPorts_check {c : Prop} [Decidable c] {e : Exc} {v : Value} {k : Out} (hk : s.KeepsPorts i k) :
    s.KeepsPorts i (if c then s.fail e v else k) := by
  split
  · exact State.keepsPorts_fail rfl
  · exact hk

/-- The gates in front of a command on the selected slot (40_bitreader.md R200 (a), 48_session.md R542). -/
theorem State.keepsPorts_slotCommand {k : Slot → Out} (hk : ∀ sl, s.KeepsPorts i (k sl)) :
    s.KeepsPorts i (s.unlessOwned (s.withFreeSlot k)) := by
  refine State.keepsPorts_check ?_
  unfold State.withFreeSlot
  split
  · exact hk _
  · exact State.keepsPorts_fail rfl

/-- The gates in front of a converter command (48_session.md R542, 60_exceptions.md R602). -/
theorem State.keepsPorts_converterCommand {k : Pc → Out} (hk : s.KeepsPorts i (k s.pc)) :
    s.KeepsPorts i (s.unlessOwned (s.withConverter k)) := State.keepsPorts_check (State.keepsPorts_check hk)

/-- A command that answers a value of the open container (46_fx_files.md R458 to R461). -/
theorem State.keepsPorts_containerValue {v : Value} : s.KeepsPorts i (s.withContainer (s.ok v)) :=
  State.keepsPorts_check (State.keepsPorts_ok rfl)

/-- A command that takes bytes from DIN waits for them, then takes them off its front (30_encoding.md R140). -/
theorem State.keepsPorts_takeDin {n : Nat} {k : List Byte → State → Out}
    (hk : ∀ (bytes : List Byte) (t : State), t.KeepsPorts i (k bytes t)) : s.KeepsPorts i (s.takeDin n i k) := by
  unfold State.takeDin
  split
  · exact (State.Unanswered.of_ports (t := s.hold i) rfl).waits rfl
  · exact (s.dropDin_unanswered n).goesOn (hk _ _)

theorem State.keepsPorts_answerRead (r : Option Value × BitReader) : s.KeepsPorts i (s.answerRead r) := by
  unfold State.answerRead
  split
  · exact State.keepsPorts_ok rfl
  · exact State.keepsPorts_fail rfl

end gates

/-! ## The BitReader and the arithmetic decoder -/

section units
variable (s : State)

theorem execBrLoad_keepsPorts (size : Nat) : s.KeepsPorts (.brLoad size) (execBrLoad size s) :=
  State.keepsPorts_slotCommand fun _ => State.keepsPorts_check <|
    State.keepsPorts_takeDin fun _ _ => State.keepsPorts_ok rfl

theorem execBrReadBits_keepsPorts (n : Nat) : s.KeepsPorts (.brReadBits n) (execBrReadBits n s) :=
  State.keepsPorts_slotCommand fun _ => State.keepsPorts_check (State.keepsPorts_answerRead _)

theorem execBrReadSigned_keepsPorts (n : Nat) : s.KeepsPorts (.brReadSigned n) (execBrReadSigned n s) :=
  State.keepsPorts_slotCommand fun _ => State.keepsPorts_check (State.keepsPorts_answerRead _)

theorem execBrRice_keepsPorts (m : Nat) : s.KeepsPorts (.brRice m) (execBrRice m s) :=
  State.keepsPorts_slotCommand fun _ => State.keepsPorts_check (State.keepsPorts_answerRead _)

/-- A decode whose loop would not end has no next state (41_arith_decoder.md R223). -/
theorem execAcDecode_keepsPorts (p flush : Nat) : s.KeepsPorts (.acDecode p flush) (execAcDecode p flush s) := by
  refine State.keepsPorts_slotCommand fun sl => ?_
  split
  · exact State.keepsPorts_fail rfl
  · exact State.keepsPorts_ok rfl
  · refine State.keepsPorts_check ?_
    dsimp only
    split
    · rintro t ⟨⟩
    · exact State.keepsPorts_ok rfl

end units

/-! ## Frame decodes and the ring -/

theorem State.retire_ports (s : State) : s.retire.ports = s.ports := by
  rcases s.retire_cases with ⟨_, hr⟩ | ⟨_, hr⟩ <;> rw [hr] <;> rfl

theorem State.collectBody_ports (s : State) : s.collectBody.2.ports = s.ports := s.retire_ports

theorem State.submitFrame_ports (s : State) (f : Frame) : (s.submitFrame f).ports = s.ports := by
  unfold State.submitFrame
  split
  · rfl
  · split <;> rfl

section ring
variable (s : State)

theorem execDstDecode_keepsPorts : s.KeepsPorts .dstDecode (execDstDecode s) := by
  refine State.keepsPorts_slotCommand fun sl => State.keepsPorts_check ?_
  dsimp only
  split
  · exact State.keepsPorts_ok rfl
  · exact State.keepsPorts_fail rfl

/-- A submission to a full ring is held for good (44_dst_pool.md R347). -/
theorem State.jam_keepsPorts (i : Instr) : s.KeepsPorts i (.next (s.jam i)) :=
  (State.Unanswered.of_ports (t := s.jam i) rfl).waits rfl

theorem execSubmit_keepsPorts (size : Nat) : s.KeepsPorts (.submit size) (execSubmit size s) := by
  refine State.keepsPorts_check ?_
  split
  · exact State.keepsPorts_check (State.keepsPorts_ok rfl)
  · refine State.keepsPorts_check <| State.keepsPorts_check ?_
    split
    · exact s.jam_keepsPorts _
    · exact State.keepsPorts_takeDin fun _ _ => State.keepsPorts_ok rfl

theorem execSubmitDsd_keepsPorts (size : Nat) : s.KeepsPorts (.submitDsd size) (execSubmitDsd size s) := by
  refine State.keepsPorts_check <| State.keepsPorts_check <| State.keepsPorts_check ?_
  split
  · exact s.jam_keepsPorts _
  · exact State.keepsPorts_takeDin fun _ _ => State.keepsPorts_ok rfl

theorem execCollect_keepsPorts (handle : Nat) : s.KeepsPorts (.collect handle) (execCollect handle s) :=
  State.keepsPorts_check <| State.keepsPorts_check <| State.keepsPorts_check <|
    (State.Unanswered.of_ports s.collectBody_ports).finish _

end ring

/-! ## The converter -/

section converter
variable (s : State)

theorem execPcInit_keepsPorts (ch dsd pcm : Nat) : s.KeepsPorts (.pcInit ch dsd pcm) (execPcInit ch dsd pcm s) := by
  refine State.keepsPorts_check <| State.keepsPorts_check ?_
  split
  · exact State.keepsPorts_fail rfl
  · exact State.keepsPorts_fail rfl
  · exact State.keepsPorts_ok rfl

theorem execPcConvert_keepsPorts (size : Nat) : s.KeepsPorts (.pcConvert size) (execPcConvert size s) :=
  State.keepsPorts_converterCommand <| State.keepsPorts_check <|
    State.keepsPorts_takeDin fun _ _ => State.keepsPorts_ok rfl

theorem execPcDegibbs_keepsPorts (side n : Nat) : s.KeepsPorts (.pcDegibbs side n) (execPcDegibbs side n s) := by
  refine State.keepsPorts_converterCommand ?_
  split
  · exact State.keepsPorts_fail rfl
  · exact State.keepsPorts_check (State.keepsPorts_ok rfl)

theorem execPcPack_keepsPorts (skip count : Nat) : s.KeepsPorts (.pcPack skip count) (execPcPack skip count s) :=
  State.keepsPorts_converterCommand <| State.keepsPorts_check State.keepsPorts_emit

end converter

/-! ## The extractor and the session -/

section session
variable (s : State)

/-- Whether the parse succeeds or not, it has not touched the ports (48_session.md R540). -/
theorem execOpen_keepsPorts (kind : Nat) : s.KeepsPorts (.openMedium kind) (execOpen kind s) := by
  unfold execOpen
  split
  · exact State.keepsPorts_fail rfl
  · next k _ =>
    refine State.keepsPorts_check ?_
    have hparse : (endState (fxOpen k s.resetFx)).ports = s.ports := (fxOpen_only k s.resetFx).ports
    split
    · next t ht =>
      rw [ht] at hparse
      exact State.keepsPorts_ok hparse
    · next e t ht =>
      rw [ht] at hparse
      exact State.keepsPorts_fail hparse

theorem execSetTrack_keepsPorts (track area : Nat) :
    s.KeepsPorts (.setTrack track area) (execSetTrack track area s) := by
  refine State.keepsPorts_check <| State.keepsPorts_check ?_
  split
  · exact State.keepsPorts_fail rfl
  · next a _ =>
    refine State.keepsPorts_check ?_
    have hread := (s.readTrackList_only track a).ports
    split
    · next hr =>
      rw [hr] at hread
      exact State.keepsPorts_fail hread
    · next hr =>
      rw [hr] at hread
      exact State.keepsPorts_ok hread

theorem execInitTrack_keepsPorts (track area pcm : Nat) :
    s.KeepsPorts (.initTrack track area pcm) (execInitTrack track area pcm s) := by
  refine State.keepsPorts_check ?_
  split
  · exact State.keepsPorts_fail rfl
  · exact State.keepsPorts_fail rfl
  · next a rate _ _ =>
    refine State.keepsPorts_check <| State.keepsPorts_check ?_
    have hread := (s.readTrackList_only track a).ports
    split
    · next hr =>
      rw [hr] at hread
      exact State.keepsPorts_fail hread
    · next hr =>
      rw [hr] at hread
      exact State.keepsPorts_ok hread

theorem execReadFrame_keepsPorts : s.KeepsPorts .readFrame (execReadFrame s) := by
  refine State.keepsPorts_check <| State.keepsPorts_check ?_
  have hread := s.readFrameBody_only.ports
  split
  · next hr =>
    rw [hr] at hread
    exact State.keepsPorts_ok hread
  · next hr =>
    rw [hr] at hread
    exact (State.Unanswered.of_ports hread).goesOn State.keepsPorts_emit

theorem execSeek_keepsPorts (frame : Nat) : s.KeepsPorts (.seek frame) (execSeek frame s) := by
  refine State.keepsPorts_check <| State.keepsPorts_check ?_
  have hseek := (s.seekKind_only frame).ports
  split
  · next hr =>
    rw [hr] at hseek
    exact State.keepsPorts_fail hseek
  · next hr =>
    rw [hr] at hseek
    exact State.keepsPorts_ok hseek

/-- The read-ahead goes from the medium to the ring and touches no port (48_session.md R550). -/
theorem State.fillRing_ports : ∀ (fuel : Nat) (s : State), (State.fillRing fuel s).ports = s.ports
  | 0, _ => rfl
  | fuel + 1, s => by
    have hread := s.readFrameBody_only.ports
    rw [State.fillRing]
    split
    · split
      · next hr =>
        rw [hr] at hread
        exact hread
      · next f t hr =>
        rw [hr] at hread
        exact ((State.fillRing_ports fuel _).trans (t.submitFrame_ports f)).trans hread
    · rfl

theorem State.flushTrack_ports : s.flushTrack.2.ports = s.ports := by
  unfold State.flushTrack
  split <;> rfl

/-- The bytes of a block stand in the reply, not yet on DOUT (48_session.md R550). -/
theorem State.decodeNextBody_ports : s.decodeNextBody.2.ports = s.ports := by
  unfold State.decodeNextBody
  have hfill := State.fillRing_ports (2 ^ 70) s
  generalize State.fillRing (2 ^ 70) s = t at hfill
  dsimp only
  split
  · exact (t.collectBody_ports : t.retireFrame.2.ports = t.ports).trans hfill
  · exact t.flushTrack_ports.trans hfill

theorem execDecodeNext_keepsPorts : s.KeepsPorts .decodeNext (execDecodeNext s) :=
  State.keepsPorts_check ((State.Unanswered.of_ports s.decodeNextBody_ports).finish _)

theorem execRdreg_keepsPorts (idx : Nat) : s.KeepsPorts (.rdreg idx) (execRdreg idx s) := by
  unfold execRdreg
  split
  · exact State.keepsPorts_ok rfl
  · exact State.keepsPorts_fail rfl

theorem State.writeReg_ports (r : WritableReg) (v : Nat) : (s.writeReg r v).ports = s.ports := by
  cases r <;> rfl

theorem execWrreg_keepsPorts (idx imm16 : Nat) : s.KeepsPorts (.wrreg idx imm16) (execWrreg idx imm16 s) := by
  unfold execWrreg
  split
  · exact State.keepsPorts_fail rfl
  · exact State.keepsPorts_check <| State.keepsPorts_check <| State.keepsPorts_check <|
      State.keepsPorts_ok (s.writeReg_ports _ imm16)

end session

/-! ## Every instruction -/

/-- Settles O9: every instruction emits, takes and answers by the rules of the ports. -/
theorem portsOfEveryCommand : Obligations.PortsOfEveryCommand := by
  unfold Obligations.PortsOfEveryCommand
  intro i s
  change s.KeepsPorts i (exec i s)
  cases i with
  | nop => exact State.keepsPorts_ok rfl
  | reset => exact State.keepsPorts_ok rfl
  | openMedium kind => exact execOpen_keepsPorts s kind
  | initTrack track area pcm => exact execInitTrack_keepsPorts s track area pcm
  | decodeNext => exact execDecodeNext_keepsPorts s
  | close => exact State.keepsPorts_ok rfl
  | rdreg idx => exact execRdreg_keepsPorts s idx
  | wrreg idx imm16 => exact execWrreg_keepsPorts s idx imm16
  | setTrack track area => exact execSetTrack_keepsPorts s track area
  | readFrame => exact execReadFrame_keepsPorts s
  | seek frame => exact execSeek_keepsPorts s frame
  | getChannels => exact State.keepsPorts_containerValue
  | getSamplerate => exact State.keepsPorts_containerValue
  | getFramerate => exact State.keepsPorts_containerValue
  | getProgress => exact State.keepsPorts_containerValue
  | poolInit ch =>
    exact State.keepsPorts_check <| State.keepsPorts_check <| State.keepsPorts_check <| State.keepsPorts_ok rfl
  | submit size => exact execSubmit_keepsPorts s size
  | submitDsd size => exact execSubmitDsd_keepsPorts s size
  | collect handle => exact execCollect_keepsPorts s handle
  | dstDecode => exact execDstDecode_keepsPorts s
  | slotRead => exact State.keepsPorts_slotCommand fun _ => State.keepsPorts_emit
  | brLoad size => exact execBrLoad_keepsPorts s size
  | brReadBit => exact State.keepsPorts_slotCommand fun _ => State.keepsPorts_answerRead _
  | brReadBits n => exact execBrReadBits_keepsPorts s n
  | brReadSigned n => exact execBrReadSigned_keepsPorts s n
  | brReadByteAligned => exact State.keepsPorts_slotCommand fun _ => State.keepsPorts_answerRead _
  | brRice m => exact execBrRice_keepsPorts s m
  | acStart => exact State.keepsPorts_slotCommand fun _ => State.keepsPorts_ok rfl
  | acDecode p flush => exact execAcDecode_keepsPorts s p flush
  | acQuantize len pred => exact State.keepsPorts_check (State.keepsPorts_ok rfl)
  | pcInit ch dsd pcm => exact execPcInit_keepsPorts s ch dsd pcm
  | pcConvert size => exact execPcConvert_keepsPorts s size
  | pcGetDelay => exact State.keepsPorts_check (State.keepsPorts_ok rfl)
  | pcIsConvertCalled => exact State.keepsPorts_ok rfl
  | pcDegibbs side n => exact execPcDegibbs_keepsPorts s side n
  | pcPack skip count => exact execPcPack_keepsPorts s skip count
  | pcReadf => exact State.keepsPorts_converterCommand State.keepsPorts_emit
  | dstfCoded x => exact (State.Unanswered.of_ports rfl).frame rfl
  | dstfPlain x => exact (State.Unanswered.of_ports rfl).frame rfl

end Sys2Proof.Machine
end

section
/-! PROOFS (O24, O25, O27). The BitReader's reads, its load and the start of an arithmetic code on a free slot
(40_bitreader.md R200 to R205; 41_arith_decoder.md R221): the model's number of `n` stream bits is the sum that the
statements write out, a read fails exactly when bits are short or the error flag sticks, and what is left is the answer
port. -/

open Sys2Proof.Claims

namespace Sys2Proof.Machine

/-! ## The number that stream bits stand for -/

/-- A stream bit as a number (40_bitreader.md R200 (b)). -/
theorem streamBit_toNat (buf : List Byte) (i : Nat) : (streamBit buf i).toNat = bitAt buf i := Nat.toNat_testBit _ _

theorem bitsAt_succ (buf : List Byte) (pos n : Nat) :
    bitsAt buf pos (n + 1) = bitAt buf pos * 2 ^ n + bitsAt buf (pos + 1) n := by
  unfold bitsAt
  rw [List.range_succ_eq_map, List.map_cons, List.sum_cons, List.map_map]
  congr 2
  refine List.map_congr_left fun j _ => ?_
  simp only [Function.comp_apply]
  congr 2 <;> omega

/-- The first bit read is the most significant one of the sum (40_bitreader.md R202). -/
theorem streamBits_eq_bitsAt (buf : List Byte) : ∀ n pos, streamBits buf n pos 0 = bitsAt buf pos n
  | 0, _ => rfl
  | n + 1, pos => by rw [streamBits_succ, bitsAt_succ, streamBit_toNat, streamBits_eq_bitsAt buf n (pos + 1)]

theorem bitsAt_lt (buf : List Byte) (pos n : Nat) : bitsAt buf pos n < 2 ^ n :=
  streamBits_eq_bitsAt buf n pos ▸ streamBits_lt buf n pos

/-- Sign extension to the width of a response value (40_bitreader.md R204). -/
theorem valInt_sext (n v : Nat) (hn : 1 ≤ n) (hv : v < 2 ^ n) :
    valInt (sext n v) = (BitVec.ofNat n v).signExtend 64 := by
  rw [sext_eq_toInt n v hn hv]
  rfl

/-! ## Reads on a free slot -/

/-- On a free slot with no session the gates of a slot command let it through (40_bitreader.md R200 (a)). -/
theorem State.unitFree.slotCommand {s : State} (h : s.unitFree) (k : Slot → Out) :
    s.unlessOwned (s.withFreeSlot k) = k s.selected := by
  obtain ⟨hsess, hfree⟩ := h
  rw [s.unlessOwned_free _ hsess, s.withFreeSlot_free k hfree]

theorem State.readBits_tooFew {s : State} {n : Nat} (h : tooFew s n) :
    s.selected.br.readBits n = (none, s.selected.br.markError) := s.selected.br.readBits_fail n h

theorem State.readBits_enough {s : State} {n : Nat} (h : ¬ tooFew s n) :
    s.selected.br.readBits n = (some (bitsAt s.selected.br.inbuf s.selected.br.pos n),
      { s.selected.br with pos := s.selected.br.pos + n }) := by
  obtain ⟨_, _, hread⟩ | ⟨hfail, _⟩ := s.selected.br.readBits_cases n
  · rw [hread, streamBits_eq_bitsAt]
  · exact absurd hfail h

theorem State.answerRead_markError (s : State) : s.answerRead (none, s.selected.br.markError) = .next (readFails s) :=
  s.answerRead_none _

section reads
variable {s : State} (h : s.unitFree)
include h

theorem execBrReadBits_free (n : Nat) (hn : n ≤ 32) :
    execBrReadBits n s = s.answerRead ((s.selected.br.readBits n).map (Option.map val) id) := by
  refine (h.slotCommand _).trans (if_neg ?_)
  rw [Config.maxReadBits_eq]
  omega

theorem execBrReadBits_refused (n : Nat) (hn : 32 < n) : execBrReadBits n s = .next (s.refusedWith 2 n) := by
  refine (h.slotCommand _).trans ((if_pos ?_).trans (s.fail_eq .eOperand n))
  rw [Config.maxReadBits_eq]
  exact hn

theorem execBrReadBits_tooFew (n : Nat) (hn : n ≤ 32) (hfew : tooFew s n) :
    execBrReadBits n s = .next (readFails s) := by
  rw [execBrReadBits_free h n hn, State.readBits_tooFew hfew]
  exact s.answerRead_markError

theorem execBrReadBits_enough (n : Nat) (hn : n ≤ 32) (hfew : ¬ tooFew s n) :
    execBrReadBits n s = .next
      ((withBr s { s.selected.br with pos := s.selected.br.pos + n }).okWith
        (val (bitsAt s.selected.br.inbuf s.selected.br.pos n))) := by
  rw [execBrReadBits_free h n hn, State.readBits_enough hfew]
  exact s.answerRead_some _ _

theorem execBrReadSigned_free (n : Nat) (hlo : 1 ≤ n) (hn : n ≤ 32) :
    execBrReadSigned n s = s.answerRead ((s.selected.br.readSigned n).map (Option.map valInt) id) := by
  refine (h.slotCommand _).trans (if_neg ?_)
  rw [Config.maxReadBits_eq]
  omega

theorem execBrReadSigned_refused (n : Nat) (hn : n = 0 ∨ 32 < n) :
    execBrReadSigned n s = .next (s.refusedWith 2 n) := by
  refine (h.slotCommand _).trans ((if_pos ?_).trans (s.fail_eq .eOperand n))
  rw [Config.maxReadBits_eq]
  exact hn

theorem execBrReadSigned_tooFew (n : Nat) (hlo : 1 ≤ n) (hn : n ≤ 32) (hfew : tooFew s n) :
    execBrReadSigned n s = .next (readFails s) := by
  rw [execBrReadSigned_free h n hlo hn, BitReader.readSigned_eq, State.readBits_tooFew hfew]
  exact s.answerRead_markError

theorem execBrReadSigned_enough (n : Nat) (hlo : 1 ≤ n) (hn : n ≤ 32) (hfew : ¬ tooFew s n) :
    execBrReadSigned n s = .next
      ((withBr s { s.selected.br with pos := s.selected.br.pos + n }).okWith
        ((BitVec.ofNat n (bitsAt s.selected.br.inbuf s.selected.br.pos n)).signExtend 64)) := by
  rw [execBrReadSigned_free h n hlo hn, BitReader.readSigned_eq, State.readBits_enough hfew,
    ← valInt_sext n _ hlo (bitsAt_lt _ _ _)]
  exact s.answerRead_some _ _

theorem execBrReadByteAligned_free :
    execBrReadByteAligned s = s.answerRead (s.selected.br.readByteAligned.map (Option.map fun v => val v.toNat) id) :=
  h.slotCommand _

/-- The alignment is undone by a failure: the cursor stays where it was (40_bitreader.md R205). -/
theorem execBrReadByteAligned_tooFew
    (hfew : s.selected.br.brErr = true ∨ s.selected.br.totalBits < s.selected.br.alignedPos + 8) :
    execBrReadByteAligned s = .next (readFails s) := by
  rw [execBrReadByteAligned_free h, BitReader.readByteAligned, if_pos hfew]
  exact s.answerRead_markError

theorem execBrReadByteAligned_enough (herr : s.selected.br.brErr = false)
    (hbits : s.selected.br.alignedPos + 8 ≤ s.selected.br.totalBits) :
    execBrReadByteAligned s = .next
      ((withBr s { s.selected.br with pos := s.selected.br.alignedPos + 8 }).okWith
        ((bufByte s.selected.br.inbuf (s.selected.br.alignedPos / 8)).setWidth 64)) := by
  have hfew : ¬ (s.selected.br.brErr = true ∨ s.selected.br.totalBits < s.selected.br.alignedPos + 8) := by
    rw [herr]
    rintro (hc | hc)
    · cases hc
    · omega
  rw [execBrReadByteAligned_free h, BitReader.readByteAligned, if_neg hfew, ← BitVec.ofNat_toNat]
  exact s.answerRead_some _ _

end reads

/-- `BR_READ_BIT` is `BR_READ_BITS 1` in every state (40_bitreader.md R203). -/
theorem execBrReadBit_eq (s : State) : execBrReadBit s = execBrReadBits 1 s := rfl

theorem bitsAt_one (buf : List Byte) (pos : Nat) : bitsAt buf pos 1 = bitAt buf pos := by
  rw [← streamBits_eq_bitsAt, streamBits_one, streamBit_toNat]

/-- Settles O24: the operand check, the failed read and the read, and `BR_READ_BIT` as the case `n = 1`. -/
theorem readBitsReadsBits : Obligations.ReadBitsReadsBits := by
  unfold Obligations.ReadBitsReadsBits
  refine ⟨fun s n h => ⟨execBrReadBits_refused h n, execBrReadBits_tooFew h n, execBrReadBits_enough h n⟩,
    fun s h hfew => ?_, execBrReadBit_eq⟩
  rw [← bitsAt_one]
  exact (execBrReadBit_eq s).trans (execBrReadBits_enough h 1 (by decide) hfew)

/-- Settles O25: the signed read is the read with its number sign-extended, the aligned read starts at the next
multiple of 8. -/
theorem signedAndAlignedReads : Obligations.SignedAndAlignedReads := by
  unfold Obligations.SignedAndAlignedReads
  refine ⟨fun s n h => ⟨execBrReadSigned_refused h n, execBrReadSigned_tooFew h n, execBrReadSigned_enough h n⟩, ?_⟩
  rintro s p h rfl
  exact ⟨execBrReadByteAligned_tooFew h, execBrReadByteAligned_enough h⟩

/-! ## BR_LOAD and AC_START -/

section load
variable {s : State} (h : s.unitFree)
include h

theorem execBrLoad_refused (size : Nat) (hsize : 112897 < size) :
    execBrLoad size s = .next (s.refusedWith 2 size) := by
  refine (h.slotCommand _).trans ((if_pos ?_).trans (s.fail_eq .eOperand size))
  rw [Config.inCap_eq]
  exact hsize

theorem execBrLoad_full (size : Nat) (hsize : size ≤ 112897) (hdin : size ≤ s.din.length) :
    execBrLoad size s = .next
      ((({ s with din := s.din.drop size } : State).setSelected (s.selected.brLoad (s.din.take size))).okWith
        (val (8 * size))) := by
  refine (h.slotCommand _).trans ((if_neg ?_).trans (s.takeDin_full size _ _ hdin))
  rw [Config.inCap_eq]
  omega

end load

/-- The loaded slot: the bytes of the load and, past them, the old ones (40_bitreader.md R201). -/
theorem Slot.brLoad_eq (sl : Slot) (bytes : List Byte) (size : Nat) (hlen : bytes.length = size) :
    sl.brLoad bytes = { sl with
      br := { inbuf := bytes ++ sl.br.inbuf.drop size, totalBits := 8 * size, pos := 0, brErr := false }
      ac := { sl.ac with acInit := true, acBase := 0, acLen := 0 }
      fd := { sl.fd with dstate := .idle } } := by
  subst hlen
  rfl

/-- Settles O27: a load of the bytes DIN holds, the refused load, and the mark of `AC_START`. -/
theorem loadAndStart : Obligations.LoadAndStart := by
  unfold Obligations.LoadAndStart
  refine ⟨fun s size h hsize hdin => ?_, fun s size h => execBrLoad_refused h size, fun s h => h.slotCommand _⟩
  rw [← s.selected.brLoad_eq _ size (List.length_take_of_le hdin)]
  exact execBrLoad_full h size hsize hdin

end Sys2Proof.Machine
end

section
/-! PROOFS (O56). The disc reader stays within its track, its packets and its assembly buffer (47_fx_sector.md R526).
The file containers do not touch what `Fx.SectorInv` speaks of, which is gathered in `Fx.discReader`; a turn of the
sector loop keeps the invariant because it takes a packet only where one is left, fetches a sector only before the end
of the track, and appends to a frame only what the frame's capacity holds. -/

namespace Sys2Proof.Machine

/-! ## What the invariant speaks of -/

/-- The sector reader, and the geometry that gives the size of a frame. -/
structure DiscReader where
  sec : Sec
  ch : Nat
  rate : Nat

/-- The part of an extractor that `Fx.SectorInv` speaks of. -/
def Fx.discReader (fx : Fx) : DiscReader := { sec := fx.sec, ch := fx.ch, rate := fx.rate }

/-- The capacity of the frame in progress, where a full plain frame has `size` bytes (47_fx_sector.md R520). -/
def Sec.capacity (sec : Sec) (size : Nat) : Nat := if sec.asmDst then Config.inCap else size

/-- `Fx.SectorInv` of the sector reader alone, where a full plain frame has `size` bytes. -/
structure Sec.Within (sec : Sec) (size : Nat) : Prop where
  packets : sec.pktCount ≤ 7 ∧ sec.pktIdx ≤ sec.pktCount
  assembled : sec.asmStarted = true → sec.asmSize ≤ sec.capacity size
  position : sec.curLsn ≤ sec.trackStartLsn + sec.trackLenLsn

theorem Fx.sectorInv_iff (fx : Fx) : fx.SectorInv ↔ fx.sec.Within (fx.ch * fx.frameBytes) :=
  ⟨fun h => ⟨h.packets, h.assembled, h.position⟩, fun h => ⟨h.packets, h.assembled, h.position⟩⟩

theorem Fx.SectorInv.of_discReader {fx fx' : Fx} (h : fx.SectorInv) (hd : fx'.discReader = fx.discReader) :
    fx'.SectorInv := by
  simp only [Fx.discReader, DiscReader.mk.injEq] at hd
  obtain ⟨hsec, hch, hrate⟩ := hd
  rw [Fx.sectorInv_iff, Fx.frameBytes] at h ⊢
  rw [hsec, hch, hrate]
  exact h

/-! ## The file containers -/

theorem State.mediumRead_discReader (s : State) (off n : Nat) :
    (s.mediumRead off n).2.fx.discReader = s.fx.discReader := congrArg Fx.discReader (s.mediumRead_fx off n)

theorem State.moveCursor_discReader (s : State) (p : Nat) : (s.moveCursor p).fx.discReader = s.fx.discReader := rfl

theorem State.setEot_discReader (s : State) (eot : Bool) :
    (s.setFx { s.fx with eot := eot }).fx.discReader = s.fx.discReader := rfl

theorem State.badFrame_discReader (s : State) (info : Nat) :
    (s.badFrame info).2.fx.discReader = s.fx.discReader := rfl

theorem State.invalidFrame_discReader (s : State) (e : Exc) (info : Nat) :
    (s.invalidFrame e info).2.fx.discReader = s.fx.discReader := rfl

theorem State.dsfFetch_discReader (s : State) (g : Nat) : (s.dsfFetch g).fx.discReader = s.fx.discReader := by
  unfold State.dsfFetch
  split
  · rfl
  · dsimp only
    split <;> rfl

theorem State.dsfRead_discReader : ∀ (fuel n : Nat) (bad : Option Nat) (s : State),
    (State.dsfRead fuel n bad s).2.2.fx.discReader = s.fx.discReader
  | 0, _, _, _ => rfl
  | fuel + 1, n, bad, s => by
    rw [State.dsfRead]
    split
    · rfl
    · exact (State.dsfRead_discReader fuel _ _ _).trans (s.dsfFetch_discReader _)

theorem State.readDsf_discReader (s : State) : s.readDsf.2.fx.discReader = s.fx.discReader := by
  unfold State.readDsf
  split
  · rfl
  · dsimp only
    have h := fun n => State.dsfRead_discReader n n none s
    split <;> next hr => exact (congrArg (·.2.2.fx.discReader) hr).symm.trans (h _)

theorem State.readDffDsd_discReader (s : State) : s.readDffDsd.2.fx.discReader = s.fx.discReader := by
  unfold State.readDffDsd
  split
  · rfl
  · dsimp only
    split
    · rfl
    · split <;> simp only [State.badFrame_discReader, State.moveCursor_discReader, State.mediumRead_discReader]

theorem State.readDstBytes_discReader (s : State) (off n next : Nat) :
    (s.readDstBytes off n next).2.fx.discReader = s.fx.discReader := by
  unfold State.readDstBytes
  dsimp only
  split <;> simp only [State.badFrame_discReader, State.moveCursor_discReader, State.mediumRead_discReader]

theorem State.readDffIndexed_discReader (s : State) : s.readDffIndexed.2.fx.discReader = s.fx.discReader := by
  unfold State.readDffIndexed
  split
  · rfl
  · dsimp only
    split
    · rw [State.badFrame_discReader, State.mediumRead_discReader]
    · split
      · rw [State.invalidFrame_discReader, State.mediumRead_discReader]
      · rw [State.readDstBytes_discReader, State.mediumRead_discReader]

theorem State.readDffWalk_discReader : ∀ (fuel : Nat) (s : State),
    (State.readDffWalk fuel s).2.fx.discReader = s.fx.discReader
  | 0, _ => rfl
  | fuel + 1, s => by
    rw [State.readDffWalk]
    dsimp only
    split
    · rfl
    · split
      · rw [State.setEot_discReader, State.badFrame_discReader, State.mediumRead_discReader]
      · split
        · split
          · rw [State.invalidFrame_discReader, State.moveCursor_discReader, State.mediumRead_discReader]
          · rw [State.readDstBytes_discReader, State.mediumRead_discReader]
        · rw [State.readDffWalk_discReader fuel, State.moveCursor_discReader, State.mediumRead_discReader]

theorem State.readDff_discReader (s : State) : s.readDff.2.fx.discReader = s.fx.discReader := by
  unfold State.readDff
  split
  · exact s.readDffDsd_discReader
  · split
    · exact s.readDffIndexed_discReader
    · exact State.readDffWalk_discReader _ s

theorem State.skipFrames_discReader : ∀ (fuel n : Nat) (s : State),
    (State.skipFrames fuel n s).2.fx.discReader = s.fx.discReader
  | 0, _, _ => rfl
  | fuel + 1, n, s => by
    have hhead := s.mediumRead_discReader s.fx.cursor 12
    rw [State.skipFrames]
    dsimp only
    split
    · rfl
    · split
      · rfl
      · split
        · exact hhead
        · split <;> exact (State.skipFrames_discReader fuel _ _).trans hhead

theorem State.seekDff_discReader (s : State) (frame : Nat) : (s.seekDff frame).2.fx.discReader = s.fx.discReader := by
  unfold State.seekDff
  split
  · rfl
  · split
    · rfl
    · split
      · rfl
      · dsimp only
        have hskip : (State.skipFrames (s.fx.dataEnd - s.fx.dataStart + 1) frame
            (s.moveCursor s.fx.dataStart)).2.fx.discReader = s.fx.discReader := State.skipFrames_discReader _ _ _
        split <;> exact hskip

/-! ## The sector reader's operations -/

theorem Sec.begin_packet (sec : Sec) : sec.begin.packet = sec.packet := by
  unfold Sec.begin
  split <;> rfl

theorem Sec.begin_counts (sec : Sec) : sec.begin.pktIdx = sec.pktIdx ∧ sec.begin.pktCount = sec.pktCount := by
  unfold Sec.begin
  split <;> exact ⟨rfl, rfl⟩

/-- A packet count has three bits (47_fx_sector.md R510). -/
theorem Sec.withSector_pktCount_le (sec : Sec) (bytes : List Byte) : (sec.withSector bytes).pktCount ≤ 7 := by
  show beField bytes 0 1 / 2 ^ 5 ≤ 7
  cases bytes with
  | nil => decide
  | cons b bs =>
    have hb := b.isLt
    simp only [beField, slice, beNat, List.drop_zero, List.take_succ_cons, List.take_zero, List.foldl_cons,
      List.foldl_nil, Nat.zero_mul, Nat.zero_add]
    omega

section operations
variable {sec : Sec} {size : Nat} (h : sec.Within size)
include h

theorem Sec.Within.finish : ({ sec with asmStarted := false } : Sec).Within size := ⟨h.packets, nofun, h.position⟩

theorem Sec.Within.abandon (drop : Bool) : (sec.abandon drop).Within size := by
  refine ⟨?_, nofun, h.position⟩
  cases drop with
  | true => exact ⟨Nat.zero_le 7, Nat.le_refl 0⟩
  | false => exact h.packets

/-- A packet is used up only where one is left (47_fx_sector.md R526 (b)). -/
theorem Sec.Within.consume (hleft : sec.pktIdx < sec.pktCount) : sec.consume.Within size :=
  ⟨⟨h.packets.1, hleft⟩, h.assembled, h.position⟩

theorem Sec.Within.begin : sec.begin.Within size := by
  unfold Sec.begin
  split
  · exact ⟨h.packets, fun _ => Nat.zero_le _, h.position⟩
  · exact h

/-- Only what the frame's capacity holds is appended to it (47_fx_sector.md R526 (e)). -/
theorem Sec.Within.append (hroom : sec.asmSize + sec.packet.length ≤ sec.capacity size) : sec.append.Within size :=
  ⟨h.packets, fun _ => hroom, h.position⟩

/-- A sector is passed only before the end of the track (47_fx_sector.md R526). -/
theorem Sec.Within.pass (hleft : sec.curLsn < sec.trackStartLsn + sec.trackLenLsn) :
    ({ sec with curLsn := sec.curLsn + 1 } : Sec).Within size := ⟨h.packets, h.assembled, hleft⟩

theorem Sec.Within.withSector (bytes : List Byte) : (sec.withSector bytes).Within size :=
  ⟨⟨sec.withSector_pktCount_le bytes, Nat.zero_le _⟩, h.assembled, h.position⟩

end operations

/-- A rewound reader has no packet and no frame, at the first sector of the track (47_fx_sector.md R506, R525). -/
theorem Fx.rewindSector_inv (fx : Fx) : fx.rewindSector.SectorInv :=
  ⟨⟨Nat.zero_le 7, Nat.le_refl 0⟩, nofun, Nat.le_add_right _ _⟩

/-! ## A turn of the sector loop -/

/-- The bytes of a plain frame of the open track (46_fx_files.md R453). -/
def State.frameSize (s : State) : Nat := s.fx.ch * s.fx.frameBytes

theorem State.setSec_sectorInv {s : State} {sec : Sec} (h : sec.Within s.frameSize) :
    (s.setSec sec).fx.SectorInv := (Fx.sectorInv_iff _).mpr h

theorem State.invalidFrame_sectorInv {s : State} (h : s.fx.SectorInv) (e : Exc) (info : Nat) :
    (s.invalidFrame e info).2.fx.SectorInv := h.of_discReader rfl

theorem State.badFrame_sectorInv {s : State} (h : s.fx.SectorInv) (info : Nat) :
    (s.badFrame info).2.fx.SectorInv := h.of_discReader rfl

/-- The state after the next sector has been read, before it is looked at (47_fx_sector.md R520). -/
def State.passSector (s : State) : State :=
  (s.sectorRead s.fx.sec.curLsn).2.setFx { s.fx with
    cursor := sectorStart s.fx.sec.psn (s.fx.sec.curLsn + 1), sec := { s.fx.sec with curLsn := s.fx.sec.curLsn + 1 } }

/-- All that fetching a sector can do: a short sector and one with too many bytes claimed are given up, any other is
taken in hand (47_fx_sector.md R520, R522, R523). -/
theorem State.fetchSector_cases (s : State) : ∃ bytes,
    (∃ bad, bad = s.passSector.setSec (s.passSector.fx.sec.abandon true) ∧
      s.fetchSector = (some (bad.badFrame s.fx.sec.curLsn), bad)) ∨
    (∃ bad, bad = s.passSector.setSec ((s.passSector.fx.sec.withSector bytes).abandon true) ∧
      s.fetchSector = (some (bad.invalidFrame .bufferOverflow s.fx.sec.curLsn), bad)) ∨
    s.fetchSector = (none, s.passSector.setSec (s.passSector.fx.sec.withSector bytes)) := by
  refine ⟨(s.sectorRead s.fx.sec.curLsn).1, ?_⟩
  by_cases hshort : (s.sectorRead s.fx.sec.curLsn).1.length < Config.sectorBytes
  · exact .inl ⟨_, rfl, if_pos hshort⟩
  · by_cases hfull : Config.sectorBytes < (s.passSector.fx.sec.withSector (s.sectorRead s.fx.sec.curLsn).1).claimed
    · exact .inr (.inl ⟨_, rfl, (if_neg hshort).trans (if_pos hfull)⟩)
    · exact .inr (.inr ((if_neg hshort).trans (if_neg hfull)))

/-- What a turn of the sector loop leaves, whether it ends the call or goes on, is within its bounds. -/
structure TurnWithin (o : Option (Option Frame × State) × State) : Prop where
  next : o.2.fx.SectorInv
  ended : ∀ r, o.1 = some r → r.2.fx.SectorInv

theorem TurnWithin.goesOn {t : State} (h : t.fx.SectorInv) : TurnWithin (none, t) := ⟨h, by rintro r ⟨⟩⟩

theorem TurnWithin.ends {t : State} {r : Option Frame × State} (h : t.fx.SectorInv) (hr : r.2.fx.SectorInv) :
    TurnWithin (some r, t) := ⟨h, by rintro r ⟨⟩; exact hr⟩

section turn
variable {s : State} (h : s.fx.SectorInv)
include h

theorem State.finishFrame_sectorInv : s.finishFrame.2.fx.SectorInv := by
  have hdone := State.setSec_sectorInv ((Fx.sectorInv_iff _).mp h).finish
  unfold State.finishFrame
  dsimp only
  split
  · exact State.invalidFrame_sectorInv hdone _ _
  · exact hdone

theorem State.endOfSectors_sectorInv : s.endOfSectors.2.fx.SectorInv := by
  unfold State.endOfSectors
  split
  · exact State.finishFrame_sectorInv h
  · exact h

theorem State.fetchSector_within (hleft : s.fx.sec.curLsn < s.fx.sec.trackStartLsn + s.fx.sec.trackLenLsn) :
    TurnWithin s.fetchSector := by
  have hpass : s.passSector.fx.sec.Within s.passSector.frameSize := ((Fx.sectorInv_iff _).mp h).pass hleft
  obtain ⟨bytes, ⟨bad, hbad, hfetch⟩ | ⟨bad, hbad, hfetch⟩ | hfetch⟩ := s.fetchSector_cases <;> rw [hfetch]
  · have hinv : bad.fx.SectorInv := hbad ▸ State.setSec_sectorInv (hpass.abandon true)
    exact .ends hinv (State.badFrame_sectorInv hinv _)
  · have hinv : bad.fx.SectorInv := hbad ▸ State.setSec_sectorInv ((hpass.withSector bytes).abandon true)
    exact .ends hinv (State.invalidFrame_sectorInv hinv _ _)
  · exact .goesOn (State.setSec_sectorInv (hpass.withSector bytes))

theorem State.takePacket_within (hleft : s.fx.sec.pktIdx < s.fx.sec.pktCount) : TurnWithin s.takePacket := by
  have hsec : s.fx.sec.Within s.frameSize := (Fx.sectorInv_iff _).mp h
  have hleft' : s.fx.sec.begin.pktIdx < s.fx.sec.begin.pktCount := by
    obtain ⟨hidx, hcount⟩ := s.fx.sec.begin_counts
    rw [hidx, hcount]
    exact hleft
  unfold State.takePacket
  dsimp only
  split
  · exact .goesOn (State.setSec_sectorInv (hsec.consume hleft))
  · split
    · exact .ends h (State.finishFrame_sectorInv h)
    · split
      · exact .goesOn (State.setSec_sectorInv (hsec.begin.consume hleft'))
      · split
        · have hbad := State.setSec_sectorInv ((hsec.begin.consume hleft').abandon false)
          exact .ends hbad (State.invalidFrame_sectorInv hbad _ _)
        · next hfull =>
          have hroom : s.fx.sec.begin.asmSize + s.fx.sec.begin.packet.length ≤ s.fx.sec.begin.capacity s.frameSize := by
            rw [Sec.begin_packet]
            exact Nat.le_of_not_lt hfull
          exact .goesOn (State.setSec_sectorInv ((hsec.begin.append hroom).consume hleft'))

end turn

theorem State.sectorLoop_sectorInv : ∀ (fuel : Nat) (s : State), s.fx.SectorInv →
    (State.sectorLoop fuel s).2.fx.SectorInv
  | 0, _, h => h
  | fuel + 1, s, h => by
    rw [State.sectorLoop]
    split
    · split
      · exact State.endOfSectors_sectorInv h
      · next hleft =>
        obtain ⟨hnext, hended⟩ := State.fetchSector_within h (Nat.lt_of_not_le hleft)
        split
        · next r _ hr => exact hended r (by rw [hr])
        · next t hr =>
          rw [hr] at hnext
          exact State.sectorLoop_sectorInv fuel t hnext
    · next hleft =>
      obtain ⟨hnext, hended⟩ := State.takePacket_within h (Nat.lt_of_not_le hleft)
      split
      · next r _ hr => exact hended r (by rw [hr])
      · next t hr =>
        rw [hr] at hnext
        exact State.sectorLoop_sectorInv fuel t hnext

/-! ## Frames, seeks and tracks, whatever the container -/

section extractor
variable {s : State} (h : s.fx.SectorInv)
include h

theorem State.readKind_sectorInv : s.readKind.2.fx.SectorInv := by
  unfold State.readKind
  split
  · exact h
  · exact State.sectorLoop_sectorInv _ s h
  · exact h.of_discReader s.readDff_discReader
  · exact h.of_discReader s.readDsf_discReader

theorem State.readFrameBody_sectorInv : s.readFrameBody.2.fx.SectorInv := by
  unfold State.readFrameBody
  split
  · exact h
  · have hkind := State.readKind_sectorInv h
    split <;> next hr => rw [hr] at hkind; exact hkind.of_discReader rfl

theorem State.seekKind_sectorInv (frame : Nat) : (s.seekKind frame).2.fx.SectorInv := by
  unfold State.seekKind
  split
  · exact h
  · dsimp only
    unfold State.seekSector
    split
    · exact s.fx.rewindSector_inv
    · exact h
  · exact h.of_discReader (s.seekDff_discReader frame)
  · dsimp only
    unfold State.seekDsf
    split
    · exact h
    · exact h.of_discReader rfl

end extractor

theorem Fx.SectorInv.select {fx : Fx} (h : fx.SectorInv) (track : Nat) (area : AreaOperand) (list : List Byte) :
    (fx.select track area list).SectorInv := by
  unfold Fx.select
  split
  · exact h
  · exact Fx.rewindSector_inv _
  · exact h.of_discReader rfl
  · exact h.of_discReader rfl

end Sys2Proof.Machine
end

section
/-! PROOFS (O56, continued). `OPEN` writes the extractor at four places only; every relation on states that allows the
reads of the medium and those four writes holds between the ends of a parse (46_fx_files.md R462). -/

namespace Sys2Proof.Machine

/-! ## A parse, up to a relation on states -/

/-- The extractor after a disc's tables of contents (47_fx_sector.md R501). -/
def Fx.openedDisc (fx : Fx) (a1 a2 : Area) : Fx :=
  { fx with
    kind := .sector, ch := 0, rate := 0, dst := false, trackSelected := false, trackCount := a1.tracks + a2.tracks
    sec := { fx.sec with area1 := a1, area2 := a2 } }

/-- `R` holds across a read of the medium and across each of the writes that a parse makes. -/
structure Scan.Admits (R : State → State → Prop) : Prop where
  refl : ∀ s, R s s
  trans : ∀ s t u, R s t → R t u → R s u
  read : ∀ (s : State) (off n : Nat), R s (s.mediumRead off n).2
  layout : ∀ (s : State) (psn : Bool), R s (s.setFx { s.fx with sec := { s.fx.sec with psn := psn } })
  disc : ∀ (s : State) (a1 a2 : Area), R s (s.setFx (s.fx.openedDisc a1 a2))
  dff : ∀ (s : State) (a : DffScan) (rate ch : Nat) (dst : Bool) (data : Nat × Nat),
    R s (s.setFx (s.fx.openedDff a rate ch dst data))
  dsf : ∀ (s : State) (hd : List Byte), R s (s.setFx (s.fx.openedDsf hd))

section parse
variable {α β : Type} {R : State → State → Prop} (h : Scan.Admits R)
include h

theorem Scan.Admits.pure (a : α) : Runs R (pure a : Scan α) := Runs.pure h.refl a

theorem Scan.Admits.throw (e : OpenError) : Runs R (throw e : Scan α) := Runs.throw h.refl e

theorem Scan.Admits.bind {p : Scan α} {f : α → Scan β} (hp : Runs R p) (hf : ∀ a, Runs R (f a)) : Runs R (p >>= f) :=
  Runs.bind h.trans hp hf

theorem Scan.Admits.check (ok : Bool) (info : Nat) : Runs R (Scan.check ok info) := Runs.ite (h.pure _) (h.throw _)

theorem Scan.Admits.mediumSize : Runs R Scan.mediumSize := h.refl

theorem Scan.Admits.bytes (off n : Nat) : Runs R (Scan.read off n) := fun s => h.read s off n

theorem Scan.Admits.sector (lsn : Nat) : Runs R (Scan.sector lsn) := fun s => h.read s _ _

theorem Scan.Admits.checks : ∀ cs, Runs R (Scan.checks cs)
  | [] => h.pure _
  | _ :: cs => h.bind (h.check _ _) fun _ => Scan.Admits.checks cs

theorem Scan.Admits.need (off n : Nat) : Runs R (Scan.need off n) :=
  h.bind (h.bytes off n) fun _ => h.bind (h.check _ _) fun _ => h.pure _

theorem Scan.Admits.chunk (p stop : Nat) : Runs R (Scan.chunk p stop) :=
  h.bind (h.need p 12) fun _ => h.bind (h.check _ _) fun _ => h.pure _

theorem Scan.Admits.chunkData (c : Chunk) (p n : Nat) : Runs R (Scan.chunkData c p n) :=
  h.bind (h.check _ _) fun _ => h.need _ _

/-- A field of a chunk read, checked and kept. -/
theorem Scan.Admits.field (c : Chunk) (p n : Nat) (ok : List Byte → Bool) (info : Nat) {k : List Byte → Scan α}
    (hk : ∀ bs, Runs R (k bs)) :
    Runs R (Scan.chunkData c p n >>= fun bs => Scan.check (ok bs) info >>= fun _ => k bs) :=
  h.bind (h.chunkData c p n) fun bs => h.bind (h.check _ _) fun _ => hk bs

theorem Scan.Admits.walk {f : Nat → Chunk → α → Scan α} (hf : ∀ p c a, Runs R (f p c a)) (stop : Nat) :
    ∀ fuel p acc, Runs R (Scan.walk f stop fuel p acc)
  | 0, _, _ => h.pure _
  | fuel + 1, p, acc =>
    Runs.ite (h.bind (h.chunk p stop) fun c => h.bind (hf p c acc) fun _ => Scan.Admits.walk hf stop fuel _ _) (h.pure _)

/-! ## DSDIFF and DSF -/

theorem scanProperty_runs (p : Nat) (c : Chunk) (a : DffScan) : Runs R (scanProperty p c a) :=
  Runs.ite (h.field c p 4 _ _ fun _ => h.pure _) <| Runs.ite (h.field c p 2 _ _ fun _ => h.pure _) <|
    Runs.ite (h.field c p 4 _ _ fun _ => h.pure _) (h.pure _)

theorem scanDst_runs (p : Nat) (c : Chunk) (a : DffScan) : Runs R (scanDst p c a) :=
  h.bind (h.check _ _) fun _ => h.bind (h.chunk _ _) fun f => h.bind (h.check _ _) fun _ =>
    h.field f _ 6 _ _ fun _ => h.pure _

theorem scanForm_runs (p : Nat) (c : Chunk) (a : DffScan) : Runs R (scanForm p c a) :=
  Runs.ite (h.field c p 4 _ _ fun _ => h.pure _) <|
    Runs.ite (h.field c p 4 _ _ fun _ => h.walk (scanProperty_runs h) _ _ _ _) <|
      Runs.ite (h.pure _) <| Runs.ite (scanDst_runs h p c a) <| Runs.ite (h.pure _) (h.pure _)

theorem finishDff_runs (a : DffScan) : Runs R (finishDff a) := by
  unfold finishDff
  split
  · next rate ch dst _ _ _ =>
    split
    · next data _ => exact Runs.ite (fun s => h.dff s a rate ch dst data) (h.throw _)
    · exact h.throw _
  · exact h.throw _

theorem openDff_runs : Runs R openDff :=
  h.bind (h.bytes 0 16) fun _ => h.bind (h.check _ _) fun _ => h.bind h.mediumSize fun _ =>
    h.bind (h.walk (scanForm_runs h) _ _ _ _) fun a => finishDff_runs h a

theorem openDsf_runs : Runs R openDsf := by
  refine h.bind (h.bytes 0 92) fun hd => ?_
  have hfits : Runs R (Scan.mediumSize >>= fun size => Scan.checks (dsfHeaderChecks hd size) >>= fun _ =>
      Scan.setFx fun fx => fx.openedDsf hd : Scan Unit) :=
    h.bind h.mediumSize fun _ => h.bind (h.checks _) fun _ s => h.dsf s hd
  exact Runs.ite (h.bind (h.throw _) fun _ => hfits) hfits

/-! ## Discs -/

theorem scanTrackList_runs (areaLsn : Nat) : ∀ n lsn, Runs R (scanTrackList areaLsn n lsn)
  | 0, _ => h.bind (h.check _ _) fun _ => h.pure _
  | n + 1, lsn => h.bind (h.sector lsn) fun _ => h.bind (h.check _ _) fun _ =>
    Runs.ite (h.pure _) (scanTrackList_runs areaLsn n (lsn + 1))

theorem parseAreaAt_runs (magic : List Byte) (lsn n : Nat) : Runs R (parseAreaAt magic lsn n) :=
  Runs.ite (h.pure _) <| h.bind (h.check _ _) fun _ => h.bind (h.sector _) fun _ => h.bind (h.check _ _) fun _ =>
    h.bind (h.check _ _) fun _ => h.bind (h.check _ _) fun _ => h.bind (h.check _ _) fun _ =>
      h.bind (h.check _ _) fun _ => h.bind (scanTrackList_runs h _ _ _) fun _ => h.pure _

theorem openSector_runs (psn : Bool) : Runs R (openSector psn) :=
  h.bind (fun s => h.layout s psn) fun _ => h.bind (h.sector _) fun _ => h.bind (h.check _ _) fun _ =>
    h.bind (h.check _ _) fun _ => h.bind (h.check _ _) fun _ => h.bind (parseAreaAt_runs h _ _ _) fun a1 =>
      h.bind (parseAreaAt_runs h _ _ _) fun a2 s => h.disc s a1 a2

theorem openDisc_runs : Runs R openDisc :=
  h.bind (h.bytes _ 8) fun _ => Runs.ite (openSector_runs h false) <|
    h.bind (h.bytes _ 8) fun _ => Runs.ite (openSector_runs h true) (h.throw _)

/-- Whatever a parse finds, `R` holds between the state it starts in and the state it ends in. -/
theorem fxOpen_runs (kind : KindOperand) : Runs R (fxOpen kind) :=
  h.bind (h.bytes 0 4) fun _ => Runs.ite (openDff_runs h) <| Runs.ite (openDsf_runs h) <|
    Runs.ite (openDisc_runs h) (h.throw _)

end parse

/-! ## A parse begins no frame -/

/-- The sector reader is within its bounds, with no frame in progress. -/
structure Sec.Idle (sec : Sec) : Prop where
  packets : sec.pktCount ≤ 7 ∧ sec.pktIdx ≤ sec.pktCount
  stopped : sec.asmStarted = false
  position : sec.curLsn ≤ sec.trackStartLsn + sec.trackLenLsn

theorem Sec.Idle.within {sec : Sec} (h : sec.Idle) (size : Nat) : sec.Within size :=
  ⟨h.packets, fun hstarted => (Bool.false_ne_true (h.stopped.symm.trans hstarted)).elim, h.position⟩

theorem Fx.reset_idle : Fx.reset.sec.Idle := ⟨⟨Nat.zero_le 7, Nat.le_refl 0⟩, rfl, Nat.le_refl 0⟩

/-- No write of a parse touches the packets, the frame or the track of the sector reader. -/
theorem Scan.admits_idle : Scan.Admits fun s t => s.fx.sec.Idle → t.fx.sec.Idle where
  refl _ := id
  trans _ _ _ h h' := h' ∘ h
  read s off n h := (s.mediumRead_fx off n).symm ▸ h
  layout _ _ h := ⟨h.packets, h.stopped, h.position⟩
  disc _ _ _ h := ⟨h.packets, h.stopped, h.position⟩
  dff _ _ _ _ _ _ h := h
  dsf _ _ h := h

theorem fxOpen_idle (kind : KindOperand) (s : State) (h : s.fx.sec.Idle) :
    (endState (fxOpen kind s)).fx.SectorInv :=
  (Fx.sectorInv_iff _).mpr ((fxOpen_runs Scan.admits_idle kind s h).within _)

end Sys2Proof.Machine
end

section
/-! PROOFS (O56, end). Every step keeps the cursors of the BitReaders in their buffers (40_bitreader.md R208) and the
disc reader within its bounds (47_fx_sector.md R526). `State.BoundsKept` says both of two states; a change of anything
but the slots and the extractor keeps both, and a change of a slot or of the extractor keeps the other. -/

namespace Sys2Proof.Machine

/-! ## Cursors of slots -/

/-- The slot's cursor is in its buffer (40_bitreader.md R208 (a)). -/
def Slot.InBounds (sl : Slot) : Prop := sl.br.pos ≤ sl.br.totalBits

theorem Slot.reset_inBounds : Slot.reset.InBounds := Nat.le_refl 0

theorem Slot.cleared_inBounds (sl : Slot) : sl.cleared.InBounds := Nat.le_refl 0

theorem Slot.brLoad_inBounds (sl : Slot) (bytes : List Byte) : (sl.brLoad bytes).InBounds := Nat.zero_le _

theorem Slot.loadDst_inBounds (sl : Slot) (seq : Word) (bytes : List Byte) : (sl.loadDst seq bytes).InBounds :=
  Nat.zero_le _

theorem Slot.withFirstByte_inBounds (sl : Slot) (b : Byte) (h : sl.InBounds) : (sl.withFirstByte b).InBounds :=
  Nat.le_trans h (Nat.le_max_right 8 _)

/-- A frame decode starts at bit 0 and moves the cursor by reads only (43_dst_residual.md R300). -/
theorem Slot.frameDecode_inBounds (sl : Slot) (ch fb : Nat) : (sl.frameDecode ch fb).InBounds := by
  have hmoved : (sl.startFrame ch fb).br.Moved (endState (frameBody ch fb (sl.startFrame ch fb))).br :=
    (frameBody_keeps ch fb (sl.startFrame ch fb)).br
  have hend := hmoved.pos_le (Nat.zero_le _)
  unfold Slot.frameDecode
  split <;> next hr => rw [hr] at hend; exact hend

theorem State.decodeOf_inBounds (s : State) (sl : Slot) : (s.decodeOf sl).InBounds := sl.frameDecode_inBounds _ _

theorem State.stepped_inBounds (s : State) (sl : Slot) (h : sl.InBounds) : (s.stepped sl).InBounds := by
  by_cases hbusy : sl.slotState = .busy
  · rw [s.stepped_busy sl hbusy]
    exact sl.frameDecode_inBounds _ _
  · rw [s.stepped_idle sl hbusy]
    exact h

/-! ## From one state to the next -/

/-- What is in bounds in `s` is in bounds in `t`. -/
structure State.BoundsKept (s t : State) : Prop where
  cursors : s.cursorInv → t.cursorInv
  sector : s.fx.SectorInv → t.fx.SectorInv

theorem State.BoundsKept.trans {s t u : State} (h : s.BoundsKept t) (h' : t.BoundsKept u) : s.BoundsKept u :=
  ⟨h'.cursors ∘ h.cursors, h'.sector ∘ h.sector⟩

/-- Both invariants speak of the slots and the extractor alone. -/
theorem State.BoundsKept.of_same {s t : State} (hslots : t.slots = s.slots) (hfx : t.fx = s.fx) : s.BoundsKept t :=
  ⟨fun h k => by rw [State.slot, hslots]; exact h k, fun h => hfx.symm ▸ h⟩

theorem State.BoundsKept.refl (s : State) : s.BoundsKept s := .of_same rfl rfl

theorem State.FxOnly.boundsKept {s t : State} (h : s.FxOnly t) (hsector : s.fx.SectorInv → t.fx.SectorInv) :
    s.BoundsKept t := by
  have hslots : t.slots = s.slots := by rw [h.frame]
  exact ⟨fun hs k => by rw [State.slot, hslots]; exact hs k, hsector⟩

section updates
variable (s : State)

theorem State.setSlot_boundsKept {k : Nat} {sl : Slot} (h : (s.slot k).InBounds → sl.InBounds) :
    s.BoundsKept (s.setSlot k sl) := by
  refine ⟨fun hs j => ?_, id⟩
  rw [State.slot_setSlot]
  split
  · exact h (hs k)
  · exact hs j

theorem State.slotStep_boundsKept (k : Nat) : s.BoundsKept (s.slotStep k) :=
  s.setSlot_boundsKept (s.stepped_inBounds _)

theorem State.retireFailed_boundsKept (k : Nat) : s.BoundsKept (s.retireFailed k) := by
  rw [State.retireFailed_eq]
  refine State.BoundsKept.trans (s.setSlot_boundsKept (k := k) ?_) (.of_same rfl rfl)
  exact id

theorem State.enqueue_boundsKept {sl : Slot} (h : (s.slot s.pool.head).InBounds → sl.InBounds) :
    s.BoundsKept (s.enqueue sl) := (s.setSlot_boundsKept h).trans (.of_same rfl rfl)

theorem State.submitBody_boundsKept (bytes : List Byte) : s.BoundsKept (s.submitBody bytes) :=
  s.enqueue_boundsKept fun _ => Slot.loadDst_inBounds _ _ _

theorem State.submitDsdBody_boundsKept (bytes : List Byte) : s.BoundsKept (s.submitDsdBody bytes) :=
  s.enqueue_boundsKept id

theorem State.submitFrame_boundsKept (f : Frame) : s.BoundsKept (s.submitFrame f) := by
  unfold State.submitFrame
  split
  · exact .refl s
  · split
    · exact s.submitBody_boundsKept _
    · exact s.submitDsdBody_boundsKept _
    · exact s.submitDsdBody_boundsKept _

theorem State.retire_boundsKept : s.BoundsKept s.retire := by
  have hstep := s.slotStep_boundsKept s.pool.tail
  obtain ⟨_, hr⟩ | ⟨_, hr⟩ := s.retire_cases <;> rw [hr]
  · exact hstep
  · exact hstep.trans (State.retireFailed_boundsKept _ _)

theorem State.dequeue_boundsKept : s.BoundsKept s.dequeue :=
  (s.setSlot_boundsKept (k := s.pool.tail) (sl := { s.slot s.pool.tail with slotState := .free }) id).trans
    (.of_same rfl rfl)

theorem State.collectBody_boundsKept : s.BoundsKept s.collectBody.2 :=
  s.retire_boundsKept.trans s.retire.dequeue_boundsKept

theorem State.drainBusy_boundsKept : s.BoundsKept s.drainBusy :=
  ⟨fun h j => by rw [State.slot_drainBusy]; exact s.stepped_inBounds _ (h j), id⟩

theorem State.clearRing_boundsKept (ch : Nat) : s.BoundsKept (s.clearRing ch) :=
  ⟨fun _ j => by rw [State.slot_clearRing]; exact Slot.cleared_inBounds _, id⟩

theorem State.runFrame_boundsKept (b : Byte) : s.BoundsKept (s.runFrame b) := by
  refine (s.setSlot_boundsKept fun h => ?_).trans (.of_same rfl rfl)
  split
  · exact s.stepped_inBounds _ (Slot.withFirstByte_inBounds _ b h)
  · exact s.decodeOf_inBounds _

theorem State.resetFx_boundsKept : s.BoundsKept s.resetFx :=
  (s.setFx_only _).boundsKept fun _ => (Fx.sectorInv_iff _).mpr (Fx.reset_idle.within _)

theorem State.toReset_boundsKept : s.BoundsKept s.toReset := by
  refine ⟨fun _ k => ?_, fun _ => (Fx.sectorInv_iff _).mpr (Fx.reset_idle.within _)⟩
  have hslot : s.toReset.slot k = Slot.reset := slotAt_nil k
  rw [hslot]
  exact Slot.reset_inBounds

end updates

/-! ## Outcomes that keep the bounds -/

/-- The next state of an outcome, if it has one, keeps what is in bounds in `s`. -/
def State.KeepsBounds (s : State) (o : Out) : Prop := ∀ t, o = .next t → s.BoundsKept t

section answers
variable {s t : State} (h : s.BoundsKept t)
include h

theorem State.BoundsKept.next : s.KeepsBounds (.next t) := by
  rintro _ ⟨⟩
  exact h

theorem State.BoundsKept.ok (v : Value) : s.KeepsBounds (t.ok v) :=
  (h.trans (.of_same rfl rfl) : s.BoundsKept (t.respond v)).next

theorem State.BoundsKept.fail (e : Exc) (v : Value) : s.KeepsBounds (t.fail e v) :=
  (h.trans (.of_same rfl rfl) : s.BoundsKept (t.raise e v)).next

theorem State.BoundsKept.emit (bytes : List Byte) : s.BoundsKept (t.emit bytes) := h.trans (.of_same rfl rfl)

theorem State.BoundsKept.finish (r : Reply) : s.KeepsBounds (t.finish r) := by
  unfold State.finish
  split
  · exact (h.emit _).ok _
  · exact (h.emit _).fail _ _

end answers

/-- What keeps the bounds of a state with the same slots and extractor. -/
theorem State.KeepsBounds.of_same {s t : State} {o : Out} (ho : t.KeepsBounds o) (hslots : t.slots = s.slots)
    (hfx : t.fx = s.fx) : s.KeepsBounds o := fun u hu => (State.BoundsKept.of_same hslots hfx).trans (ho u hu)

section gates
variable {s : State}

theorem State.keepsBounds_ok (v : Value) : s.KeepsBounds (s.ok v) := (State.BoundsKept.refl s).ok v

theorem State.keepsBounds_fail (e : Exc) (v : Value) : s.KeepsBounds (s.fail e v) :=
  (State.BoundsKept.refl s).fail e v

/-- A check that refuses the command, as `unlessOwned`, `withConverter`, `withTrack`, `withContainer` and every operand
check do. -/
theorem State.keepsBounds_check {c : Prop} [Decidable c] {e : Exc} {v : Value} {k : Out} (hk : s.KeepsBounds k) :
    s.KeepsBounds (if c then s.fail e v else k) := by
  split
  · exact State.keepsBounds_fail e v
  · exact hk

/-- The gates in front of a command on the selected slot (40_bitreader.md R200 (a), 48_session.md R542). -/
theorem State.keepsBounds_slotCommand {k : Slot → Out} (hk : s.KeepsBounds (k s.selected)) :
    s.KeepsBounds (s.unlessOwned (s.withFreeSlot k)) := by
  refine State.keepsBounds_check ?_
  unfold State.withFreeSlot
  split
  · exact hk
  · exact State.keepsBounds_fail _ _

/-- The gates in front of a converter command (48_session.md R542, 60_exceptions.md R602). -/
theorem State.keepsBounds_converterCommand {k : Pc → Out} (hk : s.KeepsBounds (k s.pc)) :
    s.KeepsBounds (s.unlessOwned (s.withConverter k)) := State.keepsBounds_check (State.keepsBounds_check hk)

/-- A command that answers a value of the open container (46_fx_files.md R458 to R461). -/
theorem State.keepsBounds_containerValue {v : Value} : s.KeepsBounds (s.withContainer (s.ok v)) :=
  State.keepsBounds_check (State.keepsBounds_ok v)

theorem State.keepsBounds_takeDin {n : Nat} {i : Instr} {k : List Byte → State → Out}
    (hk : ∀ (bytes : List Byte) (t : State), t.KeepsBounds (k bytes t)) : s.KeepsBounds (s.takeDin n i k) := by
  unfold State.takeDin
  split
  · exact State.BoundsKept.next (.of_same rfl rfl)
  · exact (hk _ _).of_same rfl rfl

/-- A read that only moves the cursor keeps it in the buffer (40_bitreader.md R208). -/
theorem State.keepsBounds_answerRead {r : Option Value × BitReader} (hr : s.selected.br.Moved r.2) :
    s.KeepsBounds (s.answerRead r) := by
  have hslot : s.BoundsKept (s.setSelected { s.selected with br := r.2 }) := s.setSlot_boundsKept hr.pos_le
  unfold State.answerRead
  split
  · exact hslot.ok _
  · exact hslot.fail _ _

end gates

/-! ## The BitReader and the arithmetic decoder -/

section units
variable (s : State)

theorem execBrLoad_keepsBounds (size : Nat) : s.KeepsBounds (execBrLoad size s) :=
  State.keepsBounds_slotCommand <| State.keepsBounds_check <| State.keepsBounds_takeDin fun bytes t =>
    (t.setSlot_boundsKept fun _ => s.selected.brLoad_inBounds bytes).ok _

theorem execBrReadBit_keepsBounds : s.KeepsBounds (execBrReadBit s) :=
  State.keepsBounds_slotCommand <| State.keepsBounds_answerRead (s.selected.br.readBits_moved 1)

theorem execBrReadBits_keepsBounds (n : Nat) : s.KeepsBounds (execBrReadBits n s) :=
  State.keepsBounds_slotCommand <| State.keepsBounds_check <|
    State.keepsBounds_answerRead (s.selected.br.readBits_moved n)

theorem execBrReadSigned_keepsBounds (n : Nat) : s.KeepsBounds (execBrReadSigned n s) :=
  State.keepsBounds_slotCommand <| State.keepsBounds_check <|
    State.keepsBounds_answerRead (s.selected.br.readSigned_moved n)

theorem execBrReadByteAligned_keepsBounds : s.KeepsBounds (execBrReadByteAligned s) :=
  State.keepsBounds_slotCommand <| State.keepsBounds_answerRead s.selected.br.readByteAligned_moved

theorem execBrRice_keepsBounds (m : Nat) : s.KeepsBounds (execBrRice m s) :=
  State.keepsBounds_slotCommand <| State.keepsBounds_check <|
    State.keepsBounds_answerRead (s.selected.br.rice_moved m)

/-- The arithmetic decoder has its own pointer and leaves the cursor alone (41_arith_decoder.md R221, R223). -/
theorem State.setAc_boundsKept (ac : ArithDec) : s.BoundsKept (s.setSelected { s.selected with ac := ac }) :=
  s.setSlot_boundsKept id

theorem execAcStart_keepsBounds : s.KeepsBounds (execAcStart s) :=
  State.keepsBounds_slotCommand <| (s.setAc_boundsKept _).ok _

theorem execAcDecode_keepsBounds (p flush : Nat) : s.KeepsBounds (execAcDecode p flush s) := by
  refine State.keepsBounds_slotCommand ?_
  split
  · exact State.keepsBounds_fail _ _
  · exact (s.setAc_boundsKept _).ok _
  · refine State.keepsBounds_check ?_
    dsimp only
    split
    · rintro t ⟨⟩
    · exact (s.setAc_boundsKept _).ok _

end units

/-! ## Frame decodes and the ring -/

section ring
variable (s : State)

theorem execDstDecode_keepsBounds : s.KeepsBounds (execDstDecode s) := by
  refine State.keepsBounds_slotCommand <| State.keepsBounds_check ?_
  have hdecode : s.BoundsKept (s.setSelected (s.decodeOf s.selected)) :=
    s.setSlot_boundsKept fun _ => s.decodeOf_inBounds _
  dsimp only
  split
  · exact hdecode.ok _
  · exact (hdecode.trans (State.retireFailed_boundsKept _ _)).fail _ _

theorem execPoolInit_keepsBounds (ch : Nat) : s.KeepsBounds (execPoolInit ch s) :=
  State.keepsBounds_check <| State.keepsBounds_check <| State.keepsBounds_check <| (s.clearRing_boundsKept ch).ok _

theorem State.sentinel_keepsBounds : s.KeepsBounds s.sentinel := by
  have hdrained : s.BoundsKept { s.drainBusy with pool := { s.pool with draining := true } } :=
    s.drainBusy_boundsKept.trans (.of_same rfl rfl)
  exact State.keepsBounds_check (hdrained.ok _)

theorem State.jam_boundsKept (i : Instr) : s.BoundsKept (s.jam i) := .of_same rfl rfl

theorem execSubmit_keepsBounds (size : Nat) : s.KeepsBounds (execSubmit size s) := by
  refine State.keepsBounds_check ?_
  split
  · exact s.sentinel_keepsBounds
  · refine State.keepsBounds_check <| State.keepsBounds_check ?_
    split
    · exact (s.jam_boundsKept _).next
    · exact State.keepsBounds_takeDin fun bytes t => (t.submitBody_boundsKept bytes).ok _

theorem execSubmitDsd_keepsBounds (size : Nat) : s.KeepsBounds (execSubmitDsd size s) := by
  refine State.keepsBounds_check <| State.keepsBounds_check <| State.keepsBounds_check ?_
  split
  · exact (s.jam_boundsKept _).next
  · exact State.keepsBounds_takeDin fun bytes t => (t.submitDsdBody_boundsKept bytes).ok _

theorem execCollect_keepsBounds (handle : Nat) : s.KeepsBounds (execCollect handle s) :=
  State.keepsBounds_check <| State.keepsBounds_check <| State.keepsBounds_check <| s.collectBody_boundsKept.finish _

end ring

/-! ## The converter -/

section converter
variable (s : State)

/-- The converter has no part in the bounds. -/
theorem State.setPc_boundsKept (pc : Pc) : s.BoundsKept { s with pc := pc } := .of_same rfl rfl

theorem execPcInit_keepsBounds (ch dsd pcm : Nat) : s.KeepsBounds (execPcInit ch dsd pcm s) := by
  refine State.keepsBounds_check <| State.keepsBounds_check ?_
  split
  · exact State.keepsBounds_fail _ _
  · exact State.keepsBounds_fail _ _
  · exact (s.setPc_boundsKept _).ok _

theorem execPcConvert_keepsBounds (size : Nat) : s.KeepsBounds (execPcConvert size s) :=
  State.keepsBounds_converterCommand <| State.keepsBounds_check <|
    State.keepsBounds_takeDin fun _ t => (t.setPc_boundsKept _).ok _

theorem execPcDegibbs_keepsBounds (side n : Nat) : s.KeepsBounds (execPcDegibbs side n s) := by
  refine State.keepsBounds_converterCommand ?_
  split
  · exact State.keepsBounds_fail _ _
  · exact State.keepsBounds_check ((s.setPc_boundsKept _).ok _)

theorem State.emit_keepsBounds (bytes : List Byte) (v : Value) : s.KeepsBounds ((s.emit bytes).ok v) :=
  ((State.BoundsKept.refl s).emit bytes).ok v

end converter

/-! ## The extractor and the session -/

section session
variable (s : State)

/-- A successful parse has begun no frame, and a failed one is undone (48_session.md R540). -/
theorem execOpen_keepsBounds (kind : Nat) : s.KeepsBounds (execOpen kind s) := by
  unfold execOpen
  split
  · exact State.keepsBounds_fail _ _
  · next k _ =>
    refine State.keepsBounds_check ?_
    have hparse : s.BoundsKept (endState (fxOpen k s.resetFx)) := s.resetFx_boundsKept.trans
      (State.FxOnly.boundsKept (fxOpen_only k s.resetFx) fun _ => fxOpen_idle k s.resetFx Fx.reset_idle)
    split
    · next t ht =>
      rw [ht] at hparse
      exact (hparse.trans (.of_same rfl rfl) : s.BoundsKept { t with sess := .opened }).ok _
    · next e t ht =>
      rw [ht] at hparse
      exact (hparse.trans t.resetFx_boundsKept).fail _ _

theorem State.readTrackList_boundsKept (track : Nat) (area : AreaOperand) :
    s.BoundsKept (s.readTrackList track area).2 :=
  (s.readTrackList_only track area).boundsKept fun h => (s.readTrackList_fx track area).symm ▸ h

theorem State.setTrackBody_boundsKept (track : Nat) (area : AreaOperand) (list : List Byte) :
    s.BoundsKept (s.setTrackBody track area list) := ⟨id, fun h => (h.select track area list).of_discReader rfl⟩

theorem execSetTrack_keepsBounds (track area : Nat) : s.KeepsBounds (execSetTrack track area s) := by
  refine State.keepsBounds_check <| State.keepsBounds_check ?_
  split
  · exact State.keepsBounds_fail _ _
  · next a _ =>
    refine State.keepsBounds_check ?_
    have hread := s.readTrackList_boundsKept track a
    split
    · next hr =>
      rw [hr] at hread
      exact hread.fail _ _
    · next list t hr =>
      rw [hr] at hread
      exact (hread.trans (t.setTrackBody_boundsKept track a list)).ok _

theorem State.startSession_boundsKept (pcm : Nat) : s.BoundsKept (s.startSession pcm) :=
  (s.clearRing_boundsKept s.fx.ch).trans (.of_same rfl rfl)

theorem State.initTrackBody_boundsKept (track : Nat) (area : AreaOperand) (pcm : Nat) (list : List Byte) :
    s.BoundsKept (s.initTrackBody track area pcm list) :=
  (s.drainBusy_boundsKept.trans (s.drainBusy.setTrackBody_boundsKept track area list)).trans
    (State.startSession_boundsKept _ pcm)

theorem execInitTrack_keepsBounds (track area pcm : Nat) : s.KeepsBounds (execInitTrack track area pcm s) := by
  refine State.keepsBounds_check ?_
  split
  · exact State.keepsBounds_fail _ _
  · exact State.keepsBounds_fail _ _
  · next a rate _ _ =>
    refine State.keepsBounds_check <| State.keepsBounds_check ?_
    have hread := s.readTrackList_boundsKept track a
    split
    · next hr =>
      rw [hr] at hread
      exact hread.fail _ _
    · next list t hr =>
      rw [hr] at hread
      exact (hread.trans (t.initTrackBody_boundsKept track a rate list)).ok _

theorem State.readFrameBody_boundsKept : s.BoundsKept s.readFrameBody.2 :=
  s.readFrameBody_only.boundsKept State.readFrameBody_sectorInv

theorem execReadFrame_keepsBounds : s.KeepsBounds (execReadFrame s) := by
  refine State.keepsBounds_check <| State.keepsBounds_check ?_
  have hread := s.readFrameBody_boundsKept
  split
  · next hr =>
    rw [hr] at hread
    exact hread.ok _
  · next hr =>
    rw [hr] at hread
    exact (hread.emit _).ok _

theorem execSeek_keepsBounds (frame : Nat) : s.KeepsBounds (execSeek frame s) := by
  refine State.keepsBounds_check <| State.keepsBounds_check ?_
  have hseek := (s.seekKind_only frame).boundsKept fun h => State.seekKind_sectorInv h frame
  split
  · next hr =>
    rw [hr] at hseek
    exact hseek.fail _ _
  · next t hr =>
    rw [hr] at hseek
    have hindex : t.BoundsKept (t.setFx { t.fx with frameIndex := frame, eot := false }) :=
      (t.setFx_only _).boundsKept fun h => h.of_discReader rfl
    exact (hseek.trans hindex).ok _

theorem State.closeBody_boundsKept : s.BoundsKept s.closeBody :=
  ((s.drainBusy_boundsKept.trans (State.clearRing_boundsKept _ 0)).trans (State.resetFx_boundsKept _)).trans
    (.of_same rfl rfl)

/-- The read-ahead reads frames and fills slots, one after the other (48_session.md R550). -/
theorem State.fillRing_boundsKept : ∀ (fuel : Nat) (s : State), s.BoundsKept (State.fillRing fuel s)
  | 0, s => .refl s
  | fuel + 1, s => by
    have hread := s.readFrameBody_boundsKept
    rw [State.fillRing]
    split
    · split
      · next hr =>
        rw [hr] at hread
        exact hread
      · next f t hr =>
        rw [hr] at hread
        exact (hread.trans (t.submitFrame_boundsKept f)).trans (State.fillRing_boundsKept fuel _)
    · exact .refl s

theorem State.retireFrame_boundsKept : s.BoundsKept s.retireFrame.2 :=
  s.collectBody_boundsKept.trans (.of_same rfl rfl)

theorem State.flushTrack_boundsKept : s.BoundsKept s.flushTrack.2 := by
  unfold State.flushTrack
  split
  · exact .of_same rfl rfl
  · exact .of_same rfl rfl

theorem State.decodeNextBody_boundsKept : s.BoundsKept s.decodeNextBody.2 := by
  unfold State.decodeNextBody
  have hfill := State.fillRing_boundsKept (2 ^ 70) s
  generalize State.fillRing (2 ^ 70) s = t at hfill
  dsimp only
  split
  · exact hfill.trans t.retireFrame_boundsKept
  · exact hfill.trans t.flushTrack_boundsKept

theorem execDecodeNext_keepsBounds : s.KeepsBounds (execDecodeNext s) :=
  State.keepsBounds_check (s.decodeNextBody_boundsKept.finish _)

theorem execRdreg_keepsBounds (idx : Nat) : s.KeepsBounds (execRdreg idx s) := by
  unfold execRdreg
  split
  · exact State.keepsBounds_ok _
  · exact State.keepsBounds_fail _ _

theorem State.writeReg_boundsKept (r : WritableReg) (v : Nat) : s.BoundsKept (s.writeReg r v) := by
  cases r <;> exact .of_same rfl rfl

theorem execWrreg_keepsBounds (idx imm16 : Nat) : s.KeepsBounds (execWrreg idx imm16 s) := by
  unfold execWrreg
  split
  · exact State.keepsBounds_fail _ _
  · next r _ =>
    exact State.keepsBounds_check <| State.keepsBounds_check <| State.keepsBounds_check <|
      (s.writeReg_boundsKept r imm16).ok _

end session

/-! ## The step -/

/-- Every instruction keeps the cursors and the disc reader in bounds. -/
theorem exec_keepsBounds (i : Instr) (s : State) : s.KeepsBounds (exec i s) := by
  cases i with
  | nop => exact State.keepsBounds_ok _
  | reset => exact s.toReset_boundsKept.ok _
  | openMedium kind => exact execOpen_keepsBounds s kind
  | initTrack track area pcm => exact execInitTrack_keepsBounds s track area pcm
  | decodeNext => exact execDecodeNext_keepsBounds s
  | close => exact s.closeBody_boundsKept.ok _
  | rdreg idx => exact execRdreg_keepsBounds s idx
  | wrreg idx imm16 => exact execWrreg_keepsBounds s idx imm16
  | setTrack track area => exact execSetTrack_keepsBounds s track area
  | readFrame => exact execReadFrame_keepsBounds s
  | seek frame => exact execSeek_keepsBounds s frame
  | getChannels => exact State.keepsBounds_containerValue
  | getSamplerate => exact State.keepsBounds_containerValue
  | getFramerate => exact State.keepsBounds_containerValue
  | getProgress => exact State.keepsBounds_containerValue
  | poolInit ch => exact execPoolInit_keepsBounds s ch
  | submit size => exact execSubmit_keepsBounds s size
  | submitDsd size => exact execSubmitDsd_keepsBounds s size
  | collect handle => exact execCollect_keepsBounds s handle
  | dstDecode => exact execDstDecode_keepsBounds s
  | slotRead => exact State.keepsBounds_slotCommand (s.emit_keepsBounds _ _)
  | brLoad size => exact execBrLoad_keepsBounds s size
  | brReadBit => exact execBrReadBit_keepsBounds s
  | brReadBits n => exact execBrReadBits_keepsBounds s n
  | brReadSigned n => exact execBrReadSigned_keepsBounds s n
  | brReadByteAligned => exact execBrReadByteAligned_keepsBounds s
  | brRice m => exact execBrRice_keepsBounds s m
  | acStart => exact execAcStart_keepsBounds s
  | acDecode p flush => exact execAcDecode_keepsBounds s p flush
  | acQuantize len pred => exact State.keepsBounds_check (State.keepsBounds_ok _)
  | pcInit ch dsd pcm => exact execPcInit_keepsBounds s ch dsd pcm
  | pcConvert size => exact execPcConvert_keepsBounds s size
  | pcGetDelay => exact State.keepsBounds_check (State.keepsBounds_ok _)
  | pcIsConvertCalled => exact State.keepsBounds_ok _
  | pcDegibbs side n => exact execPcDegibbs_keepsBounds s side n
  | pcPack skip count =>
    exact State.keepsBounds_converterCommand (State.keepsBounds_check (s.emit_keepsBounds _ _))
  | pcReadf => exact State.keepsBounds_converterCommand (s.emit_keepsBounds _ _)
  | dstfCoded x => exact (s.runFrame_boundsKept _).next
  | dstfPlain x => exact (s.runFrame_boundsKept _).next

theorem step_keepsBounds (s : State) : s.KeepsBounds (step s) := by
  have hcases := step_cases s
  generalize step s = o at hcases
  cases hcases with
  | reset _ => exact s.toReset_boundsKept.next
  | stay => exact (State.BoundsKept.refl s).next
  | noFrame k ks _ => exact State.BoundsKept.next (.of_same rfl rfl)
  | badFrame k ks _ _ => exact State.BoundsKept.next ((s.slotStep_boundsKept k).trans (.of_same rfl rfl))
  | frame i _ _ => exact exec_keepsBounds i s
  | held i _ _ => exact (exec_keepsBounds i { s with held := none }).of_same rfl rfl
  | command w ws i _ _ _ _ => exact (exec_keepsBounds i { s with cmd := ws }).of_same rfl rfl
  | illegal w ws _ => exact State.BoundsKept.next (.of_same rfl rfl)

/-- Settles O56: every step keeps what is in bounds, of the slots and of the disc reader. -/
theorem cursorsStayInBounds : Obligations.CursorsStayInBounds := by
  unfold Obligations.CursorsStayInBounds
  exact ⟨fun s t h hstep => (step_keepsBounds s t hstep).cursors h,
    fun s t h hstep => (step_keepsBounds s t hstep).sector h⟩

end Sys2Proof.Machine
end

section
/-! PROOFS (O28 to O30). The commands of the arithmetic decoder on a free slot (41_arith_decoder.md R222 to R228): the
code bits shifted into `C` are the sum that the statements write out, the two parts of an interval are numbers that do
not wrap, and the renormalisation of either part takes 8 turns at most. -/

open Sys2Proof.Claims

namespace Sys2Proof.Machine

/-! ## The number that code bits stand for -/

/-- A code bit as a number (41_arith_decoder.md R222). -/
theorem codeBit_toNat (sl : Slot) (i : Nat) : (codeBit sl.br.inbuf sl.ac i).toNat = codeAt sl i := by
  unfold codeBit codeAt
  split
  · exact streamBit_toNat _ _
  · rfl

theorem codeBits_succ (sl : Slot) (i n : Nat) :
    codeBits sl i (n + 1) = codeAt sl i * 2 ^ n + codeBits sl (i + 1) n := by
  unfold codeBits
  rw [List.range_succ_eq_map, List.map_cons, List.sum_cons, List.map_map]
  congr 2
  refine List.map_congr_left fun j _ => ?_
  simp only [Function.comp_apply]
  congr 2 <;> omega

/-- The number depends on the place of the code only. -/
theorem codeNat_congr (buf : List Byte) {ac ac' : ArithDec} (hbase : ac.acBase = ac'.acBase)
    (hlen : ac.acLen = ac'.acLen) : ∀ n i, codeNat buf ac n i = codeNat buf ac' n i
  | 0, _ => rfl
  | n + 1, i => by
    have hbit : codeBit buf ac i = codeBit buf ac' i := by rw [codeBit, codeBit, hbase, hlen]
    rw [codeNat, codeNat, hbit, codeNat_congr buf hbase hlen n (i + 1)]

/-- The code bits of the slot are the number that the statements write out. -/
theorem codeNat_eq_codeBits (sl : Slot) : ∀ n i, codeNat sl.br.inbuf sl.ac n i = codeBits sl i n
  | 0, _ => rfl
  | n + 1, i => by rw [codeNat, codeBit_toNat, codeNat_eq_codeBits sl n (i + 1), codeBits_succ]

/-- One code bit shifted into `C`, modulo 2^32 (41_arith_decoder.md R223). -/
theorem shiftIn_eq (c : Word) (bit : Bool) : shiftIn c bit = BitVec.ofNat 32 (2 * c.toNat + bit.toNat) := by
  have hbit : bit.toNat < 2 ^ 1 := by cases bit <;> decide
  have hshift : (c <<< 1).toNat = (c.toNat % 2 ^ 31) <<< 1 := by
    rw [BitVec.toNat_shiftLeft, Nat.shiftLeft_eq, Nat.shiftLeft_eq]
    omega
  have hor : (c <<< 1).toNat ||| bit.toNat = (c.toNat % 2 ^ 31) * 2 + bit.toNat := by
    rw [hshift, ← Nat.shiftLeft_add_eq_or_of_lt hbit, Nat.shiftLeft_eq, pow_one]
  apply BitVec.eq_of_toNat_eq
  rw [shiftIn, BitVec.toNat_or, BitVec.toNat_ofNat, BitVec.toNat_ofNat,
    Nat.mod_eq_of_lt (show bit.toNat < 2 ^ 32 by omega), hor]
  omega

/-- Code bits shifted in one after the other, modulo 2^32 (41_arith_decoder.md R223, R226). -/
theorem loadCode_eq (buf : List Byte) (ac : ArithDec) : ∀ (n i : Nat) (c : Word),
    loadCode buf ac n i c = BitVec.ofNat 32 (c.toNat * 2 ^ n + codeNat buf ac n i)
  | 0, _, c => by simp [loadCode, codeNat]
  | n + 1, i, c => by
    have hsum : c.toNat * 2 ^ (n + 1) + codeNat buf ac (n + 1) i =
        (2 * c.toNat + (codeBit buf ac i).toNat) * 2 ^ n + codeNat buf ac n (i + 1) := by
      rw [codeNat, pow_succ]
      ring
    rw [loadCode, loadCode_eq buf ac n (i + 1), shiftIn_eq, hsum, BitVec.ofNat_add, BitVec.ofNat_mul,
      BitVec.ofNat_toNat, BitVec.setWidth_eq, ← BitVec.ofNat_mul, ← BitVec.ofNat_add]

/-- The decoder at the start of a decode, as the statements write it (41_arith_decoder.md R224). -/
theorem acReady_eq (sl : Slot) : acReady sl =
    ((sl.ac.ready sl.br.inbuf).a.toNat, (sl.ac.ready sl.br.inbuf).c.toNat, (sl.ac.ready sl.br.inbuf).cbptr) := by
  unfold acReady
  obtain ⟨hinit, hready⟩ | ⟨hinit, hready⟩ := sl.ac.ready_cases sl.br.inbuf <;> rw [hinit, hready]
  · rfl
  · have hcode := loadCode_toNat sl.br.inbuf sl.ac 12 1 0 (by decide)
    rw [codeNat_eq_codeBits, show (0 : Word).toNat = 0 from rfl, Nat.zero_mul, Nat.zero_add] at hcode
    exact Prod.ext rfl (Prod.ext hcode.symm rfl)

/-- The decoder starts afresh or holds an interval `A` with `HALF ≤ A < ONE` (41_arith_decoder.md R220, R226). -/
def ArithDec.Steady (ac : ArithDec) : Prop := ac.acInit = true ∨ 2048 ≤ ac.a.toNat ∧ ac.a.toNat < 4096

/-- Then it is ready with such an interval: a decoder that starts afresh has `A = ONE − 1`. -/
theorem ArithDec.Steady.ready {ac : ArithDec} (h : ac.Steady) (buf : List Byte) :
    2048 ≤ (ac.ready buf).a.toNat ∧ (ac.ready buf).a.toNat < 4096 := by
  obtain ⟨hinit, hready⟩ | ⟨_, hready⟩ := ac.ready_cases buf <;> rw [hready]
  · exact h.resolve_left (by rw [hinit]; exact Bool.false_ne_true)
  · have hfirst : (4095 : Word).toNat = 4095 := rfl
    exact ⟨by rw [hfirst]; decide, by rw [hfirst]; decide⟩

/-- The code pointer of a decoder that is ready has room where that of the decoder has. -/
theorem ArithDec.ready_cbptr_room {ac : ArithDec} (h : ac.cbptr + 11 < 2 ^ 24) (buf : List Byte) :
    (ac.ready buf).cbptr + 11 < 2 ^ 24 := by
  obtain ⟨_, hready⟩ | ⟨_, hready⟩ := ac.ready_cases buf <;> rw [hready]
  · exact h
  · exact (by decide : 13 + 11 < 2 ^ 24)

/-! ## One decoded bit -/

/-- The lower part `A · p / 2^PBITS` of an interval, a number between 8 and 15 · 128 (41_arith_decoder.md R223). -/
theorem lowerPart_toNat {a : Word} {p : Nat} (hlo : 2048 ≤ a.toNat) (hhi : a.toNat < 4096) (hp : 1 ≤ p)
    (hp' : p ≤ 128) :
    (acStepUnit a * BitVec.ofNat 32 p).toNat = (a.toNat / 256 ||| a.toNat / 128 % 2) * p ∧
    8 ≤ (acStepUnit a * BitVec.ofNat 32 p).toNat ∧ (acStepUnit a * BitVec.ofNat 32 p).toNat ≤ 1920 := by
  obtain ⟨hk, hk', hunit⟩ := acStepUnit_range a hlo hhi
  have hmin : 8 * 1 ≤ (acStepUnit a).toNat * p := Nat.mul_le_mul hk hp
  have hmax : (acStepUnit a).toNat * p ≤ 15 * 128 := Nat.mul_le_mul hk' hp'
  rw [← hunit, BitVec.toNat_mul, BitVec.toNat_ofNat, Nat.mod_eq_of_lt (show p < 2 ^ 32 by omega),
    Nat.mod_eq_of_lt (by omega)]
  omega

/-- The upper part is what the lower one leaves of the interval, 128 or more (41_arith_decoder.md R223). -/
theorem upperPart_toNat {a : Word} {p : Nat} (hlo : 2048 ≤ a.toNat) (hhi : a.toNat < 4096) (hp : 1 ≤ p)
    (hp' : p ≤ 128) : (a - acStepUnit a * BitVec.ofNat 32 p).toNat =
      a.toNat - (acStepUnit a * BitVec.ofNat 32 p).toNat := by
  obtain ⟨_, _, hmax⟩ := lowerPart_toNat hlo hhi hp hp'
  exact BitVec.toNat_sub_of_le (BitVec.le_def.mpr (by omega))

/-- `n` is the number of turns that the renormalisation of the interval `a` takes: the fewest that reach `HALF`
(41_arith_decoder.md R223, R226). -/
structure RenormTurns (a n : Nat) : Prop where
  le : n ≤ 8
  half : 2048 ≤ a * 2 ^ n
  one : a * 2 ^ n < 4096
  least : n ≠ 0 → a * 2 ^ (n - 1) < 2048

/-- An interval after its renormalisation is not 0 (41_arith_decoder.md R223). -/
theorem RenormTurns.ofNat_ne_zero {a n : Nat} (h : RenormTurns a n) : BitVec.ofNat 32 (a * 2 ^ n) ≠ 0 := by
  intro hzero
  have hnat : (a * 2 ^ n) % 2 ^ 32 = 0 := by rw [← BitVec.toNat_ofNat, hzero]; rfl
  have hhalf := h.half
  have hone := h.one
  omega

theorem codeBits_lt (sl : Slot) (i n : Nat) : codeBits sl i n < 2 ^ n :=
  codeNat_eq_codeBits sl n i ▸ codeNat_lt sl.br.inbuf sl.ac n i

/-- Code bits shifted in below `A` keep `C` below it. -/
theorem shifted_lt (sl : Slot) (i : Nat) {a c n : Nat} (h : c < a) : c * 2 ^ n + codeBits sl i n < a * 2 ^ n := by
  have hbits := codeBits_lt sl i n
  have hmul : (c + 1) * 2 ^ n ≤ a * 2 ^ n := Nat.mul_le_mul_right _ h
  rw [Nat.add_mul, Nat.one_mul] at hmul
  omega

/-- The renormalisation of a part of an interval: a decoder that reads the slot's code shifts in the number of its next
code bits (41_arith_decoder.md R223, R226). -/
theorem renormalise_part (sl : Slot) (r : ArithDec) (hbase : r.acBase = sl.ac.acBase) (hlen : r.acLen = sl.ac.acLen)
    (hptr : r.cbptr + 11 < 2 ^ 24) {a c : Word} {a' c' : Nat} (ha : a.toNat = a') (hc : c.toNat = c') (hlo : 8 ≤ a')
    (hhi : a' < 4096) : ∃ n, RenormTurns a' n ∧ renormalise sl.br.inbuf 11 { r with a := a, c := c } =
      { r with
        a := BitVec.ofNat 32 (a' * 2 ^ n)
        c := BitVec.ofNat 32 (c' * 2 ^ n + codeBits sl r.cbptr n)
        cbptr := r.cbptr + n } := by
  subst ha hc
  obtain ⟨n, _, hhalf, hone, hleast, hrun⟩ :=
    renormalise_spec sl.br.inbuf 11 { r with a := a, c := c } hhi (by dsimp only; omega) hptr
  refine ⟨n, ⟨?_, hhalf, hone, hleast⟩, ?_⟩
  · by_contra hn
    have hlast : a.toNat * 2 ^ (n - 1) < 2048 := hleast (by omega)
    have hpow : 2 ^ 8 ≤ 2 ^ (n - 1) := Nat.pow_le_pow_right (by decide) (by omega)
    have hmul : 8 * 2 ^ 8 ≤ a.toNat * 2 ^ (n - 1) := Nat.mul_le_mul hlo hpow
    omega
  · rw [hrun, loadCode_eq, codeNat_congr (ac := { r with a := a, c := c }) (ac' := sl.ac) sl.br.inbuf hbase hlen,
      codeNat_eq_codeBits]

/-- The part of the interval `a` that a decode with lower part `ap` keeps, and `C` in it: the lower part for a decoded
0, when `C` is at least `a - ap`, else the upper one (41_arith_decoder.md R223). -/
def keptPart (a c ap : Nat) : Nat × Nat := if a - ap ≤ c then (ap, c - (a - ap)) else (a - ap, c)

/-- `C` stays below the interval. -/
theorem keptPart_lt {a c ap : Nat} (hap : ap ≤ a) (hc : c < a) : (keptPart a c ap).2 < (keptPart a c ap).1 := by
  unfold keptPart
  split <;> dsimp only <;> omega

/-- One decoded bit, in numbers (41_arith_decoder.md R223). -/
theorem ArithDec.decodeBit_spec (sl : Slot) {r : ArithDec} (hr : sl.ac.ready sl.br.inbuf = r) {p ap : Nat}
    (hlo : 2048 ≤ r.a.toNat) (hhi : r.a.toNat < 4096) (hptr : r.cbptr + 11 < 2 ^ 24) (hp : 1 ≤ p) (hp' : p ≤ 128)
    (hap : ap = (r.a.toNat / 256 ||| r.a.toNat / 128 % 2) * p) :
    ap ≤ r.a.toNat ∧ ∃ n, RenormTurns (keptPart r.a.toNat r.c.toNat ap).1 n ∧
      sl.ac.decodeBit sl.br.inbuf p = (decide (¬ r.a.toNat - ap ≤ r.c.toNat), { r with
        a := BitVec.ofNat 32 ((keptPart r.a.toNat r.c.toNat ap).1 * 2 ^ n)
        c := BitVec.ofNat 32 ((keptPart r.a.toNat r.c.toNat ap).2 * 2 ^ n + codeBits sl r.cbptr n)
        cbptr := r.cbptr + n }) := by
  obtain ⟨hlower, hmin, hmax⟩ := lowerPart_toNat hlo hhi hp hp'
  have hupper := upperPart_toNat hlo hhi hp hp'
  rw [← hap] at hlower
  rw [hlower] at hmin hmax hupper
  have hbase : r.acBase = sl.ac.acBase := hr ▸ sl.ac.ready_acBase _
  have hlen : r.acLen = sl.ac.acLen := hr ▸ sl.ac.ready_acLen _
  refine ⟨by omega, ?_⟩
  unfold ArithDec.decodeBit keptPart
  simp only [hr, BitVec.le_def, hupper]
  by_cases hle : r.a.toNat - ap ≤ r.c.toNat
  · have hdiff : (r.c - (r.a - acStepUnit r.a * BitVec.ofNat 32 p)).toNat = r.c.toNat - (r.a.toNat - ap) := by
      rw [BitVec.toNat_sub_of_le (BitVec.le_def.mpr (by rw [hupper]; exact hle)), hupper]
    obtain ⟨n, hn, hrun⟩ := renormalise_part sl r hbase hlen hptr hlower hdiff hmin (by omega)
    refine ⟨n, by rw [if_pos hle]; exact hn, ?_⟩
    simp only [hrun, hle, if_true, not_true_eq_false, decide_false]
  · obtain ⟨n, hn, hrun⟩ := renormalise_part sl r hbase hlen hptr hupper (rfl : r.c.toNat = _) (by omega) (by omega)
    refine ⟨n, by rw [if_neg hle]; exact hn, ?_⟩
    simp only [hrun, hle, if_false, not_false_eq_true, decide_true]

/-! ## The flush -/

/-- The scan of at most `n` unread code bits tells whether all of them are 0 (41_arith_decoder.md R225). -/
theorem flushScan_spec (buf : List Byte) : ∀ (n : Nat) (ac : ArithDec), ac.acLen ≤ ac.cbptr + n → ac.acLen < 2 ^ 24 →
    (flushScan buf n ac).1 = decide (codeNat buf ac (ac.acLen - ac.cbptr) ac.cbptr = 0) ∧
    ac.cbptr ≤ (flushScan buf n ac).2.cbptr
  | 0, ac, hn, _ => by
    rw [Nat.sub_eq_zero_of_le (by omega)]
    exact ⟨rfl, le_refl _⟩
  | n + 1, ac, hn, hlen => by
    by_cases hleft : ac.cbptr < ac.acLen
    · have hfit : fitWidth 24 (ac.cbptr + 1) = ac.cbptr + 1 := if_pos (by omega)
      have hcount : ac.acLen - ac.cbptr = ac.acLen - (ac.cbptr + 1) + 1 := by omega
      rw [flushScan, if_pos hleft, hcount, codeNat]
      dsimp only
      rw [hfit]
      cases hbit : codeBit buf ac ac.cbptr with
      | true => exact ⟨by simp, Nat.le_succ _⟩
      | false =>
        obtain ⟨hscan, hptr⟩ := flushScan_spec buf n { ac with cbptr := ac.cbptr + 1 } (by dsimp only; omega) hlen
        rw [if_neg Bool.false_ne_true, hscan,
          codeNat_congr (ac := { ac with cbptr := ac.cbptr + 1 }) (ac' := ac) buf rfl rfl]
        exact ⟨by simp, Nat.le_of_succ_le hptr⟩
    · rw [flushScan, if_neg hleft, Nat.sub_eq_zero_of_le (by omega)]
      exact ⟨rfl, le_refl _⟩

/-! ## The commands on a free slot -/

theorem flushOperand_flush : flushOperand 1 = some true := rfl

theorem flushOperand_illegal {b : Nat} (h : 2 ≤ b) : flushOperand b = none := by
  rw [flushOperand, if_neg (by omega), if_neg (by omega)]

section commands
variable {s : State} (h : s.unitFree)
include h

theorem execAcDecode_illegal (p : Nat) {flush : Nat} (hflush : 2 ≤ flush) :
    execAcDecode p flush s = .next (s.refusedWith 2 flush) := by
  refine (h.slotCommand _).trans ?_
  rw [flushOperand_illegal hflush]
  exact s.fail_eq .eOperand flush

theorem execAcDecode_refused {p : Nat} (hp : p = 0 ∨ 128 < p) : execAcDecode p 0 s = .next (s.refusedWith 2 p) :=
  (h.slotCommand _).trans ((if_pos hp).trans (s.fail_eq .eOperand p))

/-- A decode of the selected slot whose interval does not become 0 (41_arith_decoder.md R223). -/
theorem execAcDecode_decode {p : Nat} (hp : 1 ≤ p) (hp' : p ≤ 128) {bit : Bool} {ac : ArithDec}
    (hrun : s.selected.ac.decodeBit s.selected.br.inbuf p = (bit, ac)) (hac : ac.a ≠ 0) :
    execAcDecode p 0 s = .next ((s.setSlot s.slotSel { s.selected with ac := ac }).okWith (val bit.toNat)) := by
  refine (h.slotCommand _).trans ((if_neg (by omega)).trans ?_)
  rw [hrun]
  exact if_neg hac

theorem execAcDecode_flush (p : Nat) {bit : Bool} {ac : ArithDec}
    (hbit : ((s.selected.ac.ready s.selected.br.inbuf).flush s.selected.br.inbuf).1 = bit)
    (hac : ((s.selected.ac.ready s.selected.br.inbuf).flush s.selected.br.inbuf).2 = ac) :
    execAcDecode p 1 s = .next ((s.setSlot s.slotSel { s.selected with ac := ac }).okWith (val bit.toNat)) := by
  refine (h.slotCommand _).trans ?_
  rw [flushOperand_flush, ← hbit, ← hac]
  rfl

end commands

/-- The flush of a decoder that is ready: its answer, and a code pointer that did not move back (41_arith_decoder.md
R225). -/
theorem ArithDec.flush_spec (ac : ArithDec) (buf : List Byte) (hlen : ac.acLen < 2 ^ 24) :
    (ac.flush buf).1 =
      decide (ac.acLen ≤ ac.cbptr + 7 ∧ codeNat buf ac (ac.acLen - ac.cbptr) ac.cbptr = 0) ∧
    ac.cbptr ≤ (ac.flush buf).2.cbptr := by
  unfold ArithDec.flush
  split
  · next hmany => exact ⟨by simp [Nat.not_le.mpr hmany], le_refl _⟩
  · next hfew =>
    obtain ⟨hscan, hptr⟩ := flushScan_spec buf 7 { ac with acInit := true } (Nat.le_of_not_lt hfew) hlen
    rw [hscan, codeNat_congr (ac := { ac with acInit := true }) (ac' := ac) buf rfl rfl]
    exact ⟨by simp [Nat.le_of_not_lt hfew], hptr⟩

/-- A bit as a response value. -/
theorem val_decide (P : Prop) [Decidable P] : val (decide P).toNat = if P then 1 else 0 := by
  by_cases h : P <;> simp only [h, decide_true, decide_false, if_true, if_false] <;> rfl

/-- The operand of `AC_QUANTIZE` is its 16 bits as a two's-complement number (30_encoding.md R142). -/
theorem predOperand_eq (pred : Nat) : predOperand pred = (BitVec.ofNat 16 pred).toInt := by
  rw [predOperand, sext_eq_toInt 16 _ (by decide) (Nat.mod_lt _ (by decide))]
  exact congrArg BitVec.toInt (BitVec.eq_of_toNat_eq (by simp))

/-! ## The statements -/

/-- Settles O28: a decoded bit and its renormalisation, and the refusals of R223. -/
theorem acDecodeDecodesABit : Obligations.AcDecodeDecodesABit := by
  unfold Obligations.AcDecodeDecodesABit
  refine ⟨?_, fun s p flush h hflush => execAcDecode_illegal h p hflush, fun s p h hp => execAcDecode_refused h hp⟩
  intro s p a c ptr k ap h hfree hp hp' hinterval hroom hready hk hap hh
  have hsteady : s.selected.ac.Steady := hinterval.imp_right (And.imp_right Nat.lt_succ_of_le)
  obtain ⟨hlo, hhi⟩ := hsteady.ready s.selected.br.inbuf
  have hptr := ArithDec.ready_cbptr_room hroom s.selected.br.inbuf
  rw [acReady_eq] at hready
  obtain ⟨rfl, rfl, rfl⟩ : a = _ ∧ c = _ ∧ ptr = _ := by simpa only [Prod.mk.injEq] using hready
  subst hk
  obtain ⟨hle, n, hn, hrun⟩ := ArithDec.decodeBit_spec s.selected rfl hlo hhi hptr hp hp' hap
  rw [← hh] at hrun
  simp only [ArithDec.ready_acBase, ArithDec.ready_acLen, ArithDec.ready_acInit] at hrun
  refine ⟨_, _, n, (by rw [hh]; rfl), hn.le, hn.half, hn.one, hn.least,
    fun hc => shifted_lt _ _ (keptPart_lt hle hc), ?_⟩
  exact (execAcDecode_decode hfree hp hp' hrun hn.ofNat_ne_zero).trans (by rw [val_decide, ite_not])

/-- Settles O29: the answer of the flush, and the decoder that starts afresh. -/
theorem acFlushTestsTheRest : Obligations.AcFlushTestsTheRest := by
  unfold Obligations.AcFlushTestsTheRest
  intro s p a c ptr hfree hlen hready
  rw [acReady_eq] at hready
  obtain ⟨rfl, rfl, rfl⟩ : a = _ ∧ c = _ ∧ ptr = _ := by simpa only [Prod.mk.injEq] using hready
  have hframe := ArithDec.flush_frame (s.selected.ac.ready s.selected.br.inbuf) s.selected.br.inbuf
  obtain ⟨hanswer, hptr⟩ :=
    ArithDec.flush_spec (s.selected.ac.ready s.selected.br.inbuf) s.selected.br.inbuf (by simpa using hlen)
  rw [codeNat_congr (ac' := s.selected.ac) _ (ArithDec.ready_acBase _ _) (ArithDec.ready_acLen _ _),
    codeNat_eq_codeBits, ArithDec.ready_acLen] at hanswer
  rw [ArithDec.ready_acBase, ArithDec.ready_acLen] at hframe
  rw [BitVec.ofNat_toNat, BitVec.ofNat_toNat, BitVec.setWidth_eq, BitVec.setWidth_eq, ← val_decide]
  exact ⟨_, hptr, execAcDecode_flush hfree p hanswer hframe⟩

/-- Settles O30: the index of the quantizer, and the refused lengths. -/
theorem acQuantizeClamps : Obligations.AcQuantizeClamps := by
  unfold Obligations.AcQuantizeClamps
  refine ⟨fun s len pred hlo hhi => ?_, fun s len pred h => (if_pos h).trans (s.fail_eq .eOperand len)⟩
  rw [← predOperand_eq, ← quantize_eq _ _ hlo]
  exact if_neg (by omega)

end Sys2Proof.Machine
end

section
/-! PROOFS (O59). A decoded bit leaves the interval at `HALF` or more, whatever the code pointer does, because the
probability it is given is 1 to 128: a checked operand of `AC_DECODE`, the reversed bits of a coefficient, or a Ptable
entry. So the interval of a decode does not become 0 and no command faults (41_arith_decoder.md R223, R226). Inside a
frame decode the Ptables are part of what is kept: `Parse.Yields` says it of every part. -/

namespace Sys2Proof.Machine

/-! ## One decoded bit -/

/-- The renormalisation of a nonzero interval ends at `HALF` or more, below `ONE` (41_arith_decoder.md R226). -/
theorem renormalise_interval (buf : List Byte) : ∀ (fuel : Nat) (ac : ArithDec), ac.a.toNat < 4096 →
    2048 ≤ ac.a.toNat * 2 ^ fuel →
    2048 ≤ (renormalise buf fuel ac).a.toNat ∧ (renormalise buf fuel ac).a.toNat < 4096
  | 0, ac, hhi, hlo => ⟨by simpa [renormalise] using hlo, hhi⟩
  | fuel + 1, ac, hhi, hlo => by
    rw [renormalise]
    split
    · next hhalf =>
      rw [BitVec.lt_def, acHalf_toNat] at hhalf
      have hdouble := double_toNat ac.a (by omega)
      refine renormalise_interval buf fuel _ (by rw [hdouble]; omega) ?_
      rw [hdouble]
      rw [pow_succ] at hlo
      linarith
    · next hhalf =>
      rw [BitVec.lt_def, acHalf_toNat] at hhalf
      exact ⟨by omega, hhi⟩

section decode
variable {ac : ArithDec} (h : ac.Steady) (buf : List Byte) {p : Nat} (hp : 1 ≤ p) (hp' : p ≤ 128)
include h hp hp'

/-- A decode with a legal probability ends with `HALF ≤ A < ONE` (41_arith_decoder.md R223, R226). -/
theorem ArithDec.Steady.decodeBit_interval :
    2048 ≤ (ac.decodeBit buf p).2.a.toNat ∧ (ac.decodeBit buf p).2.a.toNat < 4096 := by
  obtain ⟨hlo, hhi⟩ := h.ready buf
  obtain ⟨_, hmin, hmax⟩ := lowerPart_toNat hlo hhi hp hp'
  have hupper := upperPart_toNat hlo hhi hp hp'
  unfold ArithDec.decodeBit
  dsimp only
  split
  · exact renormalise_interval buf 11 _ (by dsimp only; omega) (by dsimp only; omega)
  · exact renormalise_interval buf 11 _ (by dsimp only; omega) (by dsimp only; omega)

theorem ArithDec.Steady.decodeBit : (ac.decodeBit buf p).2.Steady := .inr (h.decodeBit_interval buf hp hp')

theorem ArithDec.Steady.decodeBit_ne_zero : (ac.decodeBit buf p).2.a ≠ 0 := by
  intro hzero
  have hlo := (h.decodeBit_interval buf hp hp').1
  rw [hzero] at hlo
  exact absurd hlo (by decide)

end decode

/-- After a flush the decoder starts afresh (41_arith_decoder.md R225). -/
theorem ArithDec.flush_steady (ac : ArithDec) (buf : List Byte) : (ac.flush buf).2.Steady := by
  rw [ac.flush_frame buf]
  exact .inl rfl

/-! ## The parts of a frame decode -/

/-- Every entry of every Ptable is a probability (42_dst_header.md R266, R267). -/
def FrameDec.PtablesLegal (fd : FrameDec) : Prop := ∀ table ∈ fd.pone, ∀ e ∈ table, 1 ≤ e ∧ e ≤ 128

/-- What every part of a frame decode keeps of the slot: a steady arithmetic decoder and legal Ptables. -/
structure Slot.Decodable (sl : Slot) : Prop where
  ac : sl.ac.Steady
  ptables : sl.fd.PtablesLegal

/-- `p` keeps a slot decodable, also when it fails, and a value it ends with meets `Q`. -/
def Parse.Yields {α : Type} (p : Parse α) (Q : α → Prop) : Prop :=
  ∀ sl, sl.Decodable → (endState (p sl)).Decodable ∧ ∀ a t, p sl = .ok a t → Q a

section rules
variable {α β : Type}

theorem Parse.yields_pure {Q : α → Prop} {a : α} (ha : Q a) : (pure a : Parse α).Yields Q := by
  refine fun sl h => ⟨h, ?_⟩
  rintro b t ⟨⟩
  exact ha

theorem Parse.yields_throw {Q : α → Prop} (e : Cause) : (throw e : Parse α).Yields Q := by
  refine fun sl h => ⟨h, ?_⟩
  rintro b t ⟨⟩

theorem Parse.Yields.bind {p : Parse α} {f : α → Parse β} {Q : α → Prop} {R : β → Prop} (hp : p.Yields Q)
    (hf : ∀ a, Q a → (f a).Yields R) : (p >>= f).Yields R := by
  intro sl h
  obtain ⟨hend, hvalue⟩ := hp sl h
  show (endState (EStateM.bind p f sl)).Decodable ∧ ∀ a t, EStateM.bind p f sl = .ok a t → R a
  unfold EStateM.bind
  rcases hsl : p sl with ⟨a, t⟩ | ⟨e, t⟩ <;> rw [hsl] at hend
  · exact hf a (hvalue a t hsl) t hend
  · refine ⟨hend, ?_⟩
    rintro b u ⟨⟩

theorem Parse.Yields.mono {p : Parse α} {Q R : α → Prop} (hp : p.Yields Q) (hQR : ∀ a, Q a → R a) : p.Yields R :=
  fun sl h => ⟨(hp sl h).1, fun a t hsl => hQR a ((hp sl h).2 a t hsl)⟩

theorem Parse.yields_read (f : BitReader → Option α × BitReader) {Q : α → Prop}
    (hf : ∀ b v, (f b).1 = some v → Q v) : (Parse.read f).Yields Q := by
  intro sl h
  unfold Parse.read
  rcases hread : f sl.br with ⟨_ | v, b⟩
  · refine ⟨⟨h.ac, h.ptables⟩, ?_⟩
    rintro b t ⟨⟩
  · refine ⟨⟨h.ac, h.ptables⟩, ?_⟩
    rintro b t ⟨⟩
    exact hf sl.br v (by rw [hread])

/-- A number of `n` bits (40_bitreader.md R202). -/
theorem Parse.yields_bits (n : Nat) : (Parse.bits n).Yields fun v => v < 2 ^ n := by
  refine Parse.yields_read _ fun b v hv => ?_
  obtain ⟨_, _, hread⟩ | ⟨_, hread⟩ := b.readBits_cases n <;> rw [hread] at hv
  · cases hv
    exact streamBits_lt _ _ _
  · cases hv

theorem Parse.yields_signed (n : Nat) : (Parse.signed n).Yields fun _ => True :=
  Parse.yields_read _ fun _ _ _ => trivial

theorem Parse.yields_rice (m : Nat) : (Parse.rice m).Yields fun _ => True :=
  Parse.yields_read _ fun _ _ _ => trivial

theorem Parse.yields_check (ok : Bool) (cause : Cause) : (Parse.check ok cause).Yields fun _ => ok = true := by
  unfold Parse.check
  split
  · next hok => exact Parse.yields_pure hok
  · exact Parse.yields_throw _

/-- A part that writes the slot and cannot fail. -/
theorem Parse.yields_write {p : Parse Unit} {f : Slot → Slot} (hp : ∀ sl, p sl = .ok () (f sl))
    (hf : ∀ sl : Slot, sl.Decodable → (f sl).Decodable) : p.Yields fun _ => True :=
  fun sl h => ⟨by rw [hp]; exact hf sl h, fun _ _ _ => trivial⟩

theorem Parse.yields_get : (get : Parse Slot).Yields Slot.Decodable := by
  refine fun sl h => ⟨h, ?_⟩
  rintro b t ⟨⟩
  exact h

theorem Parse.yields_set {sl : Slot} (h : sl.Decodable) : (set sl : Parse Unit).Yields fun _ => True :=
  Parse.yields_write (f := fun _ => sl) (fun _ => rfl) fun _ _ => h

theorem Parse.yields_setFd {f : FrameDec → FrameDec} (hf : ∀ fd : FrameDec, fd.PtablesLegal → (f fd).PtablesLegal) :
    (Parse.setFd f).Yields fun _ => True := Parse.yields_write (fun _ => rfl) fun _ h => ⟨h.ac, hf _ h.ptables⟩

theorem Parse.yields_times {p : Parse α} {Q : α → Prop} (hp : p.Yields Q) :
    ∀ n, (Parse.times p n).Yields fun vs => ∀ v ∈ vs, Q v
  | 0 => Parse.yields_pure fun _ h => absurd h List.not_mem_nil
  | n + 1 => hp.bind fun _ hv => (Parse.yields_times hp n).bind fun _ hvs =>
    Parse.yields_pure (List.forall_mem_cons.mpr ⟨hv, hvs⟩)

end rules

/-! ## Segmentation and mapping (42_dst_header.md R252, R256) -/

theorem segResolution_yields (m : Nat) (r : SegRun) : (segResolution m r).Yields fun _ => True := by
  unfold segResolution
  split
  · exact Parse.yields_pure trivial
  · exact (Parse.yields_bits _).bind fun _ _ => (Parse.yields_check _ _).bind fun _ _ => Parse.yields_pure trivial

theorem readOneSegment_yields (fb minbits : Nat) (r : SegRun) : (readOneSegment fb minbits r).Yields fun _ => True :=
  (Parse.yields_check _ _).bind fun _ _ => (segResolution_yields _ _).bind fun _ _ =>
    (Parse.yields_bits _).bind fun _ _ => (Parse.yields_check _ _).bind fun _ _ => Parse.yields_pure trivial

theorem readChannelSegments_yields (fb minbits : Nat) :
    ∀ fuel r, (readChannelSegments fb minbits fuel r).Yields fun _ => True
  | 0, _ => Parse.yields_throw _
  | fuel + 1, r => by
    refine (Parse.yields_bits 1).bind fun _ _ => ?_
    split
    · exact Parse.yields_pure trivial
    · exact (readOneSegment_yields fb minbits r).bind fun x _ =>
        (readChannelSegments_yields fb minbits fuel x.2).bind fun _ _ => Parse.yields_pure trivial

theorem readEachChannel_yields (fb minbits : Nat) : ∀ n res, (readEachChannel fb minbits n res).Yields fun _ => True
  | 0, _ => Parse.yields_pure trivial
  | n + 1, _ => (readChannelSegments_yields fb minbits _ _).bind fun x _ =>
    (readEachChannel_yields fb minbits n x.2.resolution).bind fun _ _ => Parse.yields_pure trivial

theorem readSegmentation_yields (ch fb minbits : Nat) : (readSegmentation ch fb minbits).Yields fun _ => True := by
  refine (Parse.yields_bits 1).bind fun _ _ => ?_
  split
  · exact (readChannelSegments_yields fb minbits _ _).bind fun _ _ => Parse.yields_pure trivial
  · exact (readEachChannel_yields fb minbits ch none).bind fun _ _ => Parse.yields_pure trivial

theorem readTableNumbers_yields : ∀ n count, (readTableNumbers n count).Yields fun _ => True
  | 0, _ => Parse.yields_pure trivial
  | n + 1, count => by
    have hnumber : (readTableNumber count).Yields fun _ => True :=
      (Parse.yields_bits _).bind fun _ _ => (Parse.yields_check _ _).bind fun _ _ => Parse.yields_pure trivial
    exact hnumber.bind fun x _ => (readTableNumbers_yields n x.2).bind fun _ _ => Parse.yields_pure trivial

theorem readMapRows_yields (sg : Segmentation) : ∀ n ch count, (readMapRows sg n ch count).Yields fun _ => True
  | 0, _, _ => Parse.yields_pure trivial
  | n + 1, ch, count => by
    have hrows : ∀ row : List Nat × Nat,
        (readMapRows sg n (ch + 1) row.2 >>= fun rows => pure (row.1 :: rows.1, rows.2) :
          Parse (List (List Nat) × Nat)).Yields fun _ => True := fun row =>
      (readMapRows_yields sg n (ch + 1) row.2).bind fun _ _ => Parse.yields_pure trivial
    rw [readMapRows]
    split
    · exact (readTableNumbers_yields _ _).bind fun x _ =>
        (Parse.yields_pure (Q := fun _ => True) (a := (0 :: x.1, x.2)) trivial).bind fun y _ => hrows y
    · exact (readTableNumbers_yields _ _).bind fun x _ => hrows x

theorem readMapping_yields (ch : Nat) (sg : Segmentation) : (readMapping ch sg).Yields fun _ => True := by
  refine (Parse.yields_bits 1).bind fun _ _ => ?_
  split
  · exact (readTableNumbers_yields _ _).bind fun x _ => (Parse.yields_check _ _).bind fun _ _ =>
      (Parse.yields_pure (Q := fun _ => True) (a := (List.replicate ch (0 :: x.1), x.2)) trivial).bind fun _ _ =>
        (Parse.yields_check _ _).bind fun _ _ => Parse.yields_pure trivial
  · exact (readMapRows_yields sg ch 0 1).bind fun _ _ => (Parse.yields_check _ _).bind fun _ _ =>
      Parse.yields_pure trivial

/-! ## Filters and Ptables (42_dst_header.md R260 to R267) -/

section tables
variable {Q : Int → Prop} {lo hi : Int} (hrange : ∀ e, lo ≤ e → e ≤ hi → Q e)
include hrange

theorem readRiceEntries_yields (pred : List Int) (m : Nat) (cause : Cause) : ∀ n newest, (∀ e ∈ newest, Q e) →
    (readRiceEntries pred m lo hi cause n newest).Yields fun entries => ∀ e ∈ entries, Q e
  | 0, _, hnewest => Parse.yields_pure hnewest
  | n + 1, newest, hnewest => (Parse.yields_rice m).bind fun _ _ => (Parse.yields_check _ _).bind fun _ hentry => by
    rw [Bool.and_eq_true, decide_eq_true_eq, decide_eq_true_eq] at hentry
    exact readRiceEntries_yields pred m cause n _ (List.forall_mem_cons.mpr ⟨hrange _ hentry.1 hentry.2, hnewest⟩)

/-- A Rice-coded table: the first entries are as they are read, the others are checked to be in range. -/
theorem readRiceTable_yields (preds : Nat → List Int) {first : Parse Int} (hfirst : first.Yields Q) (cause : Cause)
    (len : Nat) : (readRiceTable preds first lo hi cause len).Yields fun entries => ∀ e ∈ entries, Q e :=
  (Parse.yields_bits _).bind fun _ _ => (Parse.yields_check _ _).bind fun _ _ =>
    (Parse.yields_check _ _).bind fun _ _ => (Parse.yields_times hfirst _).bind fun _ hraw =>
      (Parse.yields_bits _).bind fun _ _ =>
        (readRiceEntries_yields hrange _ _ _ _ _ fun e he => hraw e (List.mem_reverse.mp he)).bind fun _ hentries =>
          Parse.yields_pure fun e he => hentries e (List.mem_reverse.mp he)

end tables

theorem readFilter_yields : readFilter.Yields fun _ => True := by
  refine (Parse.yields_bits _).bind fun _ _ => (Parse.yields_bits _).bind fun _ _ => ?_
  split
  · exact (Parse.yields_times (Parse.yields_signed _) _).mono fun _ _ => trivial
  · exact (readRiceTable_yields (fun _ _ _ => trivial) _ (Parse.yields_signed _) _ _).mono fun _ _ => trivial

theorem readPtableEntry_yields : readPtableEntry.Yields fun e => 1 ≤ e ∧ e ≤ 128 :=
  (Parse.yields_bits 7).bind fun v hv => Parse.yields_pure (by constructor <;> omega)

/-- A Ptable entry is a probability, raw or Rice coded (42_dst_header.md R266, R267). -/
theorem readPtable_yields : readPtable.Yields fun table => ∀ e ∈ table, 1 ≤ e ∧ e ≤ 128 := by
  refine (Parse.yields_bits _).bind fun _ _ => ?_
  split
  · refine Parse.yields_pure fun e he => ?_
    rw [List.mem_singleton.mp he]
    decide
  · refine (Parse.yields_bits _).bind fun _ _ => ?_
    split
    · exact Parse.yields_times readPtableEntry_yields _
    · exact readRiceTable_yields (fun _ hlo hhi => ⟨hlo, hhi⟩) _ readPtableEntry_yields _ _

theorem readPtableSegmentation_yields (same ch fb : Nat) (fseg : Segmentation) :
    (readPtableSegmentation same ch fb fseg).Yields fun _ => True := by
  unfold readPtableSegmentation
  split
  · exact Parse.yields_pure trivial
  · exact readSegmentation_yields _ _ _

theorem readPtableMapping_yields (same ch : Nat) (fseg pseg : Segmentation) (fmap : List (List Nat) × Nat) :
    (readPtableMapping same ch fseg pseg fmap).Yields fun _ => True := by
  unfold readPtableMapping
  split
  · exact (Parse.yields_check _ _).bind fun _ _ => Parse.yields_pure trivial
  · exact readMapping_yields _ _

/-- The header writes the Ptables once, with the tables it has read (42_dst_header.md R250). -/
theorem readHeader_yields (ch fb : Nat) : (readHeader ch fb).Yields fun _ => True := by
  have hset : ∀ {f : FrameDec → FrameDec}, (∀ fd, (f fd).pone = fd.pone) → (Parse.setFd f).Yields fun _ => True :=
    fun {f} hf => Parse.yields_setFd fun fd hfd => by rw [FrameDec.PtablesLegal, hf]; exact hfd
  refine (Parse.yields_bits 1).bind fun _ _ => (readSegmentation_yields _ _ _).bind fun _ _ => ?_
  refine (hset fun _ => by rfl).bind fun _ _ => (readPtableSegmentation_yields _ _ _ _).bind fun _ _ => ?_
  refine (hset fun _ => by rfl).bind fun _ _ => (Parse.yields_bits 1).bind fun _ _ => ?_
  refine (readMapping_yields _ _).bind fun _ _ => (hset fun _ => by rfl).bind fun _ _ => ?_
  refine (readPtableMapping_yields _ _ _ _ _).bind fun _ _ => (hset fun _ => by rfl).bind fun _ _ => ?_
  refine (Parse.yields_times (Parse.yields_bits 1) _).bind fun _ _ => (hset fun _ => by rfl).bind fun _ _ => ?_
  refine (Parse.yields_times readFilter_yields _).bind fun _ _ => (hset fun _ => by rfl).bind fun _ _ => ?_
  refine (Parse.yields_times readPtable_yields _).bind fun _ htables => ?_
  exact Parse.yields_setFd fun _ _ => htables

/-! ## Residuals (43_dst_residual.md R310) -/

/-- What holds of every entry of a list and of the default holds of an entry read with that default. -/
theorem forall_getD {α : Type} {P : α → Prop} {l : List α} {d : α} (hl : ∀ e ∈ l, P e) (hd : P d) (i : Nat) :
    P (l.getD i d) := by
  rw [List.getD_eq_getElem?_getD]
  cases hi : l[i]? with
  | none => exact hd
  | some e => exact hl e (List.mem_of_getElem? hi)

/-- An entry of a legal Ptable, or 128 past its end, is a probability. -/
theorem ptableEntry_range {table : List Int} (h : ∀ e ∈ table, 1 ≤ e ∧ e ≤ 128) (i : Nat) :
    1 ≤ (table.getD i 128).toNat ∧ (table.getD i 128).toNat ≤ 128 := by
  have hentry := forall_getD (d := 128) h (by decide) i
  omega

section residuals
variable {fd : FrameDec} (hfd : fd.PtablesLegal) (buf : List Byte)
include hfd

/-- The probability of a residual is 1 to 128. -/
theorem sampleProbability_range (bn ch order : Nat) (pred : Int) :
    1 ≤ sampleProbability fd ch bn order pred ∧ sampleProbability fd ch bn order pred ≤ 128 := by
  unfold sampleProbability
  split
  · decide
  · have htable := forall_getD (d := []) hfd (fun _ he => absurd he List.not_mem_nil)
      ((fd.ptab.getD ch []).getD (segOf fd.pseg ch bn) 0)
    exact ptableEntry_range htable _

theorem decodeSample_steady (bn ch : Nat) {ac : ArithDec} (h : ac.Steady) (hist : List Bool) :
    (decodeSample fd buf bn ch ac hist).2.1.Steady := by
  obtain ⟨hlo, hhi⟩ := sampleProbability_range hfd bn ch _ _
  exact h.decodeBit buf hlo hhi

theorem decodeRow_steady (bn : Nat) : ∀ (ch : Nat) (ac : ArithDec) (hs : List (List Bool)) (os : List Nat), ac.Steady →
    (decodeRow fd buf bn ch ac hs os).1.Steady
  | ch, _, hist :: hs, _ :: os, h => decodeRow_steady bn (ch + 1) _ hs os (decodeSample_steady hfd buf bn ch h hist)
  | _, _, [], _, h => h
  | _, _, _ :: _, [], h => h

theorem decodeRows_steady : ∀ (n bn : Nat) (ac : ArithDec) (hs : List (List Bool)) (os : List Nat), ac.Steady →
    (decodeRows fd buf n bn ac hs os).1.Steady
  | 0, _, _, _, _, h => h
  | n + 1, bn, ac, hs, os, h => decodeRows_steady n (bn + 1) _ _ _ (decodeRow_steady hfd buf bn 0 ac hs os h)

theorem decodeOctets_steady : ∀ (n bn : Nat) (ac : ArithDec) (hs : List (List Bool)) (out : List Byte), ac.Steady →
    (decodeOctets fd buf n bn ac hs out).1.Steady
  | 0, _, _, _, _, h => h
  | n + 1, bn, ac, hs, out, h => by
    have hrows := decodeRows_steady hfd buf 8 bn ac hs (hs.map fun _ => 0) h
    rw [decodeOctets]
    generalize decodeRows fd buf 8 bn ac hs (hs.map fun _ => 0) = rows at hrows ⊢
    exact decodeOctets_steady n (bn + 8) _ _ _ hrows

end residuals

/-! ## The frame (43_dst_residual.md R300) -/

theorem plainFrame_yields (ch fb : Nat) : (plainFrame ch fb).Yields fun _ => True :=
  (Parse.yields_bits 1).bind fun _ _ => (Parse.yields_bits 6).bind fun _ _ => (Parse.yields_check _ _).bind fun _ _ =>
    (Parse.yields_read (Q := fun _ => True) _ fun _ _ _ => trivial).bind fun _ _ =>
      Parse.yields_write (fun _ => rfl) fun _ h => ⟨h.ac, h.ptables⟩

theorem startCode_yields : startCode.Yields fun _ => True := by
  have hstart : (modify Slot.acStart : Parse Unit).Yields fun _ => True :=
    Parse.yields_write (f := Slot.acStart) (fun _ => rfl) fun _ h => ⟨.inl rfl, h.ptables⟩
  exact hstart.bind fun _ _ => Parse.yields_get.bind fun _ _ => (Parse.yields_check _ _).mono fun _ _ => trivial

theorem decodeXBit_yields : decodeXBit.Yields fun _ => True :=
  Parse.yields_write (fun _ => rfl) fun sl h =>
    ⟨h.ac.decodeBit sl.br.inbuf (rev7p1_range _).1 (rev7p1_range _).2, h.ptables⟩

theorem decodeAndReconstruct_yields (fb : Nat) : (decodeAndReconstruct fb).Yields fun _ => True :=
  Parse.yields_write (fun _ => rfl) fun sl h =>
    ⟨decodeOctets_steady h.ptables sl.br.inbuf fb 0 sl.ac sl.fd.hist [] h.ac, h.ptables⟩

theorem terminate_yields (ch fb : Nat) : (terminate ch fb).Yields fun _ => True := by
  refine Parse.yields_get.bind fun sl h => ?_
  have hflush : ({ sl with ac := (sl.ac.flush sl.br.inbuf).2 } : Slot).Decodable :=
    ⟨sl.ac.flush_steady sl.br.inbuf, h.ptables⟩
  exact (Parse.yields_set hflush).bind fun _ _ => (Parse.yields_check _ _).bind fun _ _ =>
    (Parse.yields_check _ _).mono fun _ _ => trivial

theorem codedFrame_yields (ch fb : Nat) : (codedFrame ch fb).Yields fun _ => True := by
  have hhistory : (initHistory ch).Yields fun _ => True := Parse.yields_setFd fun _ hfd => hfd
  exact (readHeader_yields ch fb).bind fun _ _ => startCode_yields.bind fun _ _ => hhistory.bind fun _ _ =>
    decodeXBit_yields.bind fun _ _ => (decodeAndReconstruct_yields fb).bind fun _ _ => terminate_yields ch fb

theorem frameBody_yields (ch fb : Nat) : (frameBody ch fb).Yields fun _ => True := by
  refine (Parse.yields_bits 1).bind fun _ _ => ?_
  split
  · exact plainFrame_yields ch fb
  · exact codedFrame_yields ch fb

/-- A frame decode starts afresh, without Ptables, so it ends steady whatever the slot held. -/
theorem Slot.frameDecode_steady (sl : Slot) (ch fb : Nat) : (sl.frameDecode ch fb).ac.Steady := by
  have hstart : (sl.startFrame ch fb).Decodable := ⟨.inl rfl, fun _ h => absurd h List.not_mem_nil⟩
  have hend := (frameBody_yields ch fb _ hstart).1.ac
  unfold Slot.frameDecode
  split <;> next hr => rw [hr] at hend; exact hend

theorem State.stepped_steady (s : State) {sl : Slot} (h : sl.ac.Steady) : (s.stepped sl).ac.Steady := by
  by_cases hbusy : sl.slotState = .busy
  · rw [s.stepped_busy sl hbusy]
    exact sl.frameDecode_steady _ _
  · rw [s.stepped_idle sl hbusy]
    exact h

end Sys2Proof.Machine
end

section
/-! PROOFS (O59, end). Every command completes as a next state, and keeps the arithmetic decoders steady: a slot is
changed by its own operations, which keep it steady or start it afresh, and the rest of the state has no part in it. -/

namespace Sys2Proof.Machine

/-! ## Changes of the slots -/

/-- The invariant speaks of the slots alone. -/
theorem State.intervalInv.of_slots {s t : State} (h : s.intervalInv) (ht : t.slots = s.slots) : t.intervalInv :=
  fun k => by
    rw [State.slot, ht]
    exact h k

theorem State.toReset_intervalInv (s : State) : s.toReset.intervalInv := by
  intro k
  have hslot : s.toReset.slot k = Slot.reset := slotAt_nil k
  rw [hslot]
  exact .inl rfl

theorem State.clearRing_intervalInv (s : State) (ch : Nat) : (s.clearRing ch).intervalInv := by
  intro k
  rw [State.slot_clearRing]
  exact .inl rfl

theorem State.startSession_intervalInv (s : State) (pcm : Nat) : (s.startSession pcm).intervalInv :=
  State.intervalInv.of_slots (s.clearRing_intervalInv s.fx.ch) rfl

section updates
variable {s : State} (h : s.intervalInv)
include h

theorem State.intervalInv.of_fxOnly {t : State} (ht : s.FxOnly t) : t.intervalInv := h.of_slots (by rw [ht.frame])

theorem State.intervalInv.setSlot (k : Nat) {sl : Slot} (hsl : sl.ac.Steady) : (s.setSlot k sl).intervalInv := by
  intro j
  rw [State.slot_setSlot]
  split
  · exact hsl
  · exact h j

theorem State.intervalInv.slotStep (k : Nat) : (s.slotStep k).intervalInv := h.setSlot k (s.stepped_steady (h k))

theorem State.intervalInv.retireFailed (k : Nat) : (s.retireFailed k).intervalInv := by
  intro j
  rw [State.slot_retireFailed]
  split
  · exact h k
  · exact h j

theorem State.intervalInv.enqueue {sl : Slot} (hsl : sl.ac.Steady) : (s.enqueue sl).intervalInv :=
  (h.setSlot s.pool.head hsl).of_slots rfl

/-- A load for the ring leaves the slot's arithmetic decoder as it is (44_dst_pool.md R342, R346). -/
theorem State.intervalInv.submitBody (bytes : List Byte) : (s.submitBody bytes).intervalInv :=
  h.enqueue (sl := (s.slot s.pool.head).loadDst _ bytes) (h s.pool.head)

theorem State.intervalInv.submitDsdBody (bytes : List Byte) : (s.submitDsdBody bytes).intervalInv :=
  h.enqueue (sl := (s.slot s.pool.head).loadDsd _ bytes) (h s.pool.head)

theorem State.intervalInv.submitFrame (f : Frame) : (s.submitFrame f).intervalInv := by
  unfold State.submitFrame
  split
  · exact h
  · split
    · exact h.submitBody _
    · exact h.submitDsdBody _
    · exact h.submitDsdBody _

theorem State.intervalInv.retire : s.retire.intervalInv := by
  obtain ⟨_, hr⟩ | ⟨_, hr⟩ := s.retire_cases <;> rw [hr]
  · exact h.slotStep _
  · exact (h.slotStep _).retireFailed _

theorem State.intervalInv.dequeue : s.dequeue.intervalInv :=
  (h.setSlot s.pool.tail (sl := { s.slot s.pool.tail with slotState := .free }) (h _)).of_slots rfl

theorem State.intervalInv.collectBody : s.collectBody.2.intervalInv := h.retire.dequeue

theorem State.intervalInv.drainBusy : s.drainBusy.intervalInv := fun k => by
  rw [State.slot_drainBusy]
  exact s.stepped_steady (h k)

theorem State.intervalInv.runFrame (b : Byte) : (s.runFrame b).intervalInv := by
  refine (h.setSlot s.frameSlot ?_).of_slots rfl
  split
  · exact s.stepped_steady (h s.frameSlot)
  · exact Slot.frameDecode_steady _ _ _

/-- The read-ahead reads frames and fills slots, one after the other (48_session.md R550). -/
theorem State.intervalInv.fillRing (fuel : Nat) : (State.fillRing fuel s).intervalInv := by
  induction fuel generalizing s with
  | zero => exact h
  | succ fuel ih =>
    have hread := h.of_fxOnly s.readFrameBody_only
    rw [State.fillRing]
    split
    · split
      · next hr =>
        rw [hr] at hread
        exact hread
      · next f t hr =>
        rw [hr] at hread
        exact ih (hread.submitFrame f)
    · exact h

theorem State.intervalInv.decodeNextBody : s.decodeNextBody.2.intervalInv := by
  unfold State.decodeNextBody
  have hfill := h.fillRing (2 ^ 70)
  generalize State.fillRing (2 ^ 70) s = t at hfill
  dsimp only
  split
  · exact hfill.collectBody.of_slots rfl
  · unfold State.flushTrack
    split <;> exact hfill.of_slots rfl

end updates

/-! ## Outcomes -/

/-- The command completes, as a next state whose arithmetic decoders are steady. -/
def Completes (o : Out) : Prop := ∃ t, o = .next t ∧ t.intervalInv

theorem State.intervalInv.next {s : State} (h : s.intervalInv) : Completes (.next s) := ⟨s, rfl, h⟩

section gates
variable {s : State} (h : s.intervalInv)
include h

theorem State.intervalInv.ok (v : Value) : Completes (s.ok v) := (h.of_slots rfl : (s.respond v).intervalInv).next

theorem State.intervalInv.fail (e : Exc) (v : Value) : Completes (s.fail e v) :=
  (h.of_slots rfl : (s.raise e v).intervalInv).next

theorem State.intervalInv.emit (bytes : List Byte) : (s.emit bytes).intervalInv := h.of_slots rfl

theorem State.intervalInv.finish (r : Reply) : Completes (s.finish r) := by
  unfold State.finish
  split
  · exact (h.emit _).ok _
  · exact (h.emit _).fail _ _

/-- A check that refuses the command, as `unlessOwned`, `withConverter`, `withTrack`, `withContainer` and every operand
check do. -/
theorem State.intervalInv.check {c : Prop} [Decidable c] {e : Exc} {v : Value} {k : Out} (hk : ¬ c → Completes k) :
    Completes (if c then s.fail e v else k) := by
  split
  · exact h.fail e v
  · next hc => exact hk hc

/-- The gates in front of a command on the selected slot (40_bitreader.md R200 (a), 48_session.md R542). -/
theorem State.intervalInv.slotCommand {k : Slot → Out} (hk : Completes (k s.selected)) :
    Completes (s.unlessOwned (s.withFreeSlot k)) := by
  refine h.check fun _ => ?_
  unfold State.withFreeSlot
  split
  · exact hk
  · exact h.fail _ _

/-- The gates in front of a converter command (48_session.md R542, 60_exceptions.md R602). -/
theorem State.intervalInv.converterCommand {k : Pc → Out} (hk : Completes (k s.pc)) :
    Completes (s.unlessOwned (s.withConverter k)) := h.check fun _ => h.check fun _ => hk

theorem State.intervalInv.containerValue (v : Value) : Completes (s.withContainer (s.ok v)) := h.check fun _ => h.ok v

theorem State.intervalInv.takeDin {n : Nat} {i : Instr} {k : List Byte → State → Out}
    (hk : ∀ (bytes : List Byte) (t : State), t.intervalInv → Completes (k bytes t)) : Completes (s.takeDin n i k) := by
  unfold State.takeDin
  split
  · exact (h.of_slots rfl : (s.hold i).intervalInv).next
  · exact hk _ _ (h.of_slots rfl)

theorem State.intervalInv.setSelected {sl : Slot} (hsl : sl.ac.Steady) : (s.setSelected sl).intervalInv :=
  h.setSlot s.slotSel hsl

/-- A read leaves the arithmetic decoder alone. -/
theorem State.intervalInv.answerRead (r : Option Value × BitReader) : Completes (s.answerRead r) := by
  have hslot : (s.setSelected { s.selected with br := r.2 }).intervalInv := h.setSelected (h s.slotSel)
  unfold State.answerRead
  split
  · exact hslot.ok _
  · exact hslot.fail _ _

end gates

/-! ## The commands -/

/-- `CLOSE` clears every slot, whatever it held (48_session.md R558). -/
theorem execClose_completes (s : State) : Completes (execClose s) :=
  have hbody : s.closeBody.intervalInv := (s.drainBusy.clearRing_intervalInv 0).of_slots rfl
  hbody.ok _

section commands
variable {s : State} (h : s.intervalInv)
include h

theorem execBrLoad_completes (size : Nat) : Completes (execBrLoad size s) :=
  h.slotCommand <| h.check fun _ => h.takeDin fun bytes _ ht =>
    (ht.setSelected (sl := s.selected.brLoad bytes) (.inl rfl)).ok _

theorem execAcStart_completes : Completes (execAcStart s) :=
  h.slotCommand <| (h.setSelected (sl := s.selected.acStart) (.inl rfl)).ok _

/-- The operand check leaves a legal probability, and then the interval does not become 0 (41_arith_decoder.md R223;
assumption log 20). -/
theorem execAcDecode_completes (p flush : Nat) : Completes (execAcDecode p flush s) := by
  have hselected : s.selected.ac.Steady := h s.slotSel
  refine h.slotCommand ?_
  split
  · exact h.fail _ _
  · exact (h.setSelected (ArithDec.flush_steady _ _)).ok _
  · refine h.check fun hp => ?_
    dsimp only
    rw [if_neg (hselected.decodeBit_ne_zero _ (by omega) (by omega))]
    exact (h.setSelected (hselected.decodeBit _ (by omega) (by omega))).ok _

theorem execDstDecode_completes : Completes (execDstDecode s) := by
  refine h.slotCommand <| h.check fun _ => ?_
  have hdecode : (s.setSelected (s.decodeOf s.selected)).intervalInv := h.setSelected (Slot.frameDecode_steady _ _ _)
  dsimp only
  split
  · exact hdecode.ok _
  · exact (hdecode.retireFailed _).fail _ _

theorem execPoolInit_completes (ch : Nat) : Completes (execPoolInit ch s) :=
  h.check fun _ => h.check fun _ => h.check fun _ => (s.clearRing_intervalInv ch).ok _

theorem State.intervalInv.sentinel : Completes s.sentinel :=
  have hdrained : ({ s.drainBusy with pool := { s.pool with draining := true } } : State).intervalInv :=
    h.drainBusy.of_slots rfl
  h.check fun _ => hdrained.ok _

theorem State.intervalInv.jam (i : Instr) : (s.jam i).intervalInv := h.of_slots rfl

theorem execSubmit_completes (size : Nat) : Completes (execSubmit size s) := by
  refine h.check fun _ => ?_
  split
  · exact h.sentinel
  · refine h.check fun _ => h.check fun _ => ?_
    split
    · exact (h.jam _).next
    · exact h.takeDin fun bytes _ ht => (ht.submitBody bytes).ok _

theorem execSubmitDsd_completes (size : Nat) : Completes (execSubmitDsd size s) := by
  refine h.check fun _ => h.check fun _ => h.check fun _ => ?_
  split
  · exact (h.jam _).next
  · exact h.takeDin fun bytes _ ht => (ht.submitDsdBody bytes).ok _

theorem execCollect_completes (handle : Nat) : Completes (execCollect handle s) :=
  h.check fun _ => h.check fun _ => h.check fun _ => h.collectBody.finish _

theorem State.intervalInv.setPc (pc : Pc) : ({ s with pc := pc } : State).intervalInv := h.of_slots rfl

theorem execPcInit_completes (ch dsd pcm : Nat) : Completes (execPcInit ch dsd pcm s) := by
  refine h.check fun _ => h.check fun _ => ?_
  split
  · exact h.fail _ _
  · exact h.fail _ _
  · exact (h.setPc _).ok _

theorem execPcConvert_completes (size : Nat) : Completes (execPcConvert size s) :=
  h.converterCommand <| h.check fun _ => h.takeDin fun _ _ ht => (ht.setPc _).ok _

theorem execPcDegibbs_completes (side n : Nat) : Completes (execPcDegibbs side n s) := by
  refine h.converterCommand ?_
  split
  · exact h.fail _ _
  · exact h.check fun _ => (h.setPc _).ok _

theorem execOpen_completes (kind : Nat) : Completes (execOpen kind s) := by
  unfold execOpen
  split
  · exact h.fail _ _
  · next k _ =>
    refine h.check fun _ => ?_
    have hparse := (h.of_fxOnly (s.setFx_only Fx.reset)).of_fxOnly (fxOpen_only k s.resetFx)
    split
    · next t ht =>
      rw [ht] at hparse
      exact (hparse.of_slots rfl : ({ t with sess := .opened } : State).intervalInv).ok _
    · next e t ht =>
      rw [ht] at hparse
      exact (hparse.of_fxOnly (t.setFx_only Fx.reset)).fail _ _

theorem execSetTrack_completes (track area : Nat) : Completes (execSetTrack track area s) := by
  refine h.check fun _ => h.check fun _ => ?_
  split
  · exact h.fail _ _
  · next a _ =>
    refine h.check fun _ => ?_
    have hread := h.of_fxOnly (s.readTrackList_only track a)
    split
    · next hr =>
      rw [hr] at hread
      exact hread.fail _ _
    · next list t hr =>
      rw [hr] at hread
      exact (hread.of_slots rfl : (t.setTrackBody track a list).intervalInv).ok _

/-- The session starts with every slot cleared (48_session.md R545). -/
theorem execInitTrack_completes (track area pcm : Nat) : Completes (execInitTrack track area pcm s) := by
  refine h.check fun _ => ?_
  split
  · exact h.fail _ _
  · exact h.fail _ _
  · next a rate _ _ =>
    refine h.check fun _ => h.check fun _ => ?_
    have hread := h.of_fxOnly (s.readTrackList_only track a)
    split
    · next hr =>
      rw [hr] at hread
      exact hread.fail _ _
    · next list t hr =>
      exact (State.startSession_intervalInv (t.drainBusy.setTrackBody track a list) rate).ok _

theorem execReadFrame_completes : Completes (execReadFrame s) := by
  refine h.check fun _ => h.check fun _ => ?_
  have hread := h.of_fxOnly s.readFrameBody_only
  split
  · next hr =>
    rw [hr] at hread
    exact hread.ok _
  · next hr =>
    rw [hr] at hread
    exact (hread.emit _).ok _

theorem execSeek_completes (frame : Nat) : Completes (execSeek frame s) := by
  refine h.check fun _ => h.check fun _ => ?_
  have hseek := h.of_fxOnly (s.seekKind_only frame)
  split
  · next hr =>
    rw [hr] at hseek
    exact hseek.fail _ _
  · next t hr =>
    rw [hr] at hseek
    exact (hseek.of_fxOnly (t.setFx_only _)).ok _

theorem execDecodeNext_completes : Completes (execDecodeNext s) := h.check fun _ => h.decodeNextBody.finish _

theorem execRdreg_completes (idx : Nat) : Completes (execRdreg idx s) := by
  unfold execRdreg
  split
  · exact h.ok _
  · exact h.fail _ _

theorem State.intervalInv.writeReg (r : WritableReg) (v : Nat) : (s.writeReg r v).intervalInv := by
  cases r <;> exact h.of_slots rfl

theorem execWrreg_completes (idx imm16 : Nat) : Completes (execWrreg idx imm16 s) := by
  unfold execWrreg
  split
  · exact h.fail _ _
  · next r _ => exact h.check fun _ => h.check fun _ => h.check fun _ => (h.writeReg r imm16).ok _

/-! ## The step -/

/-- Every instruction completes as a next state. -/
theorem exec_completes (i : Instr) : Completes (exec i s) := by
  cases i with
  | nop => exact h.ok _
  | reset => exact s.toReset_intervalInv.ok _
  | openMedium kind => exact execOpen_completes h kind
  | initTrack track area pcm => exact execInitTrack_completes h track area pcm
  | decodeNext => exact execDecodeNext_completes h
  | close => exact execClose_completes s
  | rdreg idx => exact execRdreg_completes h idx
  | wrreg idx imm16 => exact execWrreg_completes h idx imm16
  | setTrack track area => exact execSetTrack_completes h track area
  | readFrame => exact execReadFrame_completes h
  | seek frame => exact execSeek_completes h frame
  | getChannels => exact h.containerValue _
  | getSamplerate => exact h.containerValue _
  | getFramerate => exact h.containerValue _
  | getProgress => exact h.containerValue _
  | poolInit ch => exact execPoolInit_completes h ch
  | submit size => exact execSubmit_completes h size
  | submitDsd size => exact execSubmitDsd_completes h size
  | collect handle => exact execCollect_completes h handle
  | dstDecode => exact execDstDecode_completes h
  | slotRead => exact h.slotCommand ((h.emit _).ok _)
  | brLoad size => exact execBrLoad_completes h size
  | brReadBit => exact h.slotCommand (h.answerRead _)
  | brReadBits n => exact h.slotCommand (h.check fun _ => h.answerRead _)
  | brReadSigned n => exact h.slotCommand (h.check fun _ => h.answerRead _)
  | brReadByteAligned => exact h.slotCommand (h.answerRead _)
  | brRice m => exact h.slotCommand (h.check fun _ => h.answerRead _)
  | acStart => exact execAcStart_completes h
  | acDecode p flush => exact execAcDecode_completes h p flush
  | acQuantize len pred => exact h.check fun _ => h.ok _
  | pcInit ch dsd pcm => exact execPcInit_completes h ch dsd pcm
  | pcConvert size => exact execPcConvert_completes h size
  | pcGetDelay => exact h.check fun _ => h.ok _
  | pcIsConvertCalled => exact h.ok _
  | pcDegibbs side n => exact execPcDegibbs_completes h side n
  | pcPack skip count => exact h.converterCommand (h.check fun _ => (h.emit _).ok _)
  | pcReadf => exact h.converterCommand ((h.emit _).ok _)
  | dstfCoded x => exact (h.runFrame _).next
  | dstfPlain x => exact (h.runFrame _).next

theorem step_completes : Completes (step s) := by
  have hcases := step_cases s
  generalize step s = o at hcases
  cases hcases with
  | reset _ => exact s.toReset_intervalInv.next
  | stay => exact h.next
  | noFrame k ks _ => exact State.intervalInv.next (h.of_slots rfl)
  | badFrame k ks _ _ => exact State.intervalInv.next ((h.slotStep k).of_slots rfl)
  | frame i _ _ => exact exec_completes h i
  | held i _ _ => exact exec_completes (s := { s with held := none }) (h.of_slots rfl) i
  | command w ws i _ _ _ _ => exact exec_completes (s := { s with cmd := ws }) (h.of_slots rfl) i
  | illegal w ws _ => exact State.intervalInv.next (h.of_slots rfl)

end commands

/-- Settles O59: from steady arithmetic decoders every step gives a next state, with steady ones again. -/
theorem noRunEverStops : Obligations.NoRunEverStops := by
  unfold Obligations.NoRunEverStops
  exact fun s h => step_completes h

end Sys2Proof.Machine
end

section
/-! PROOFS (O26). The Rice code (30_encoding.md R152) and its reader (42_dst_header.md R270). A code is followed part by
part, the run of zeros, the low bits and the sign: where a part stands at the cursor (`BitReader.Holds`), its reader
answers it and the rest of the code stands at the new cursor. A reader that answers nothing has set the error flag. -/

open Sys2Proof.Claims

namespace Sys2Proof.Machine

/-! ## Bits that stand at the cursor -/

/-- The bits of `code` stand at the cursor and can be read: the buffer has them, and no read has failed. -/
structure BitReader.Holds (b : BitReader) (code : List Bool) : Prop where
  noError : b.brErr = false
  fits : b.pos + code.length ≤ b.totalBits
  bit : ∀ j, j < code.length → bitAt b.inbuf (b.pos + j) = (code.getD j false).toNat

/-- The BitReader `n` bits further on. -/
def BitReader.skip (b : BitReader) (n : Nat) : BitReader := { b with pos := b.pos + n }

@[simp] theorem BitReader.skip_zero (b : BitReader) : b.skip 0 = b := rfl

@[simp] theorem BitReader.skip_skip (b : BitReader) (n k : Nat) : (b.skip n).skip k = b.skip (n + k) := by
  rw [BitReader.skip, BitReader.skip, BitReader.skip, Nat.add_assoc]

section holds
variable {b : BitReader} {code rest : List Bool}

theorem BitReader.Holds.left (h : b.Holds (code ++ rest)) : b.Holds code where
  noError := h.noError
  fits := by
    have hfits := h.fits
    rw [List.length_append] at hfits
    omega
  bit j hj := by
    rw [h.bit j (by rw [List.length_append]; omega), List.getD_append _ _ _ _ hj]

theorem BitReader.Holds.right (h : b.Holds (code ++ rest)) : (b.skip code.length).Holds rest where
  noError := h.noError
  fits := by
    have hfits := h.fits
    rw [List.length_append] at hfits
    exact (Nat.add_assoc _ _ _).trans_le hfits
  bit j hj := by
    have hbit := h.bit (code.length + j) (by rw [List.length_append]; omega)
    rw [List.getD_append_right _ _ _ _ (Nat.le_add_right _ _), Nat.add_sub_cancel_left] at hbit
    rw [← hbit, BitReader.skip, Nat.add_assoc]

theorem BitReader.Holds.tail {x : Bool} (h : b.Holds (x :: rest)) : (b.skip 1).Holds rest :=
  BitReader.Holds.right (code := [x]) h

theorem BitReader.Holds.readBit {x : Bool} (h : b.Holds (x :: rest)) : b.readBits 1 = (some x.toNat, b.skip 1) := by
  have hfits := h.fits
  have hbit := h.bit 0 (Nat.succ_pos _)
  rw [List.length_cons] at hfits
  rw [b.readBits_ok 1 h.noError (by omega), streamBits_one, streamBit_toNat]
  exact congrArg (fun v => (some v, b.skip 1)) hbit

end holds

/-! ## The parts of a Rice code -/

/-- The `m` low bits of `n`, the most significant first (30_encoding.md R152). -/
def lowBits (m n : Nat) : List Bool := (List.range m).map fun j => n.testBit (m - 1 - j)

@[simp] theorem length_lowBits (m n : Nat) : (lowBits m n).length = m := by
  rw [lowBits, List.length_map, List.length_range]

theorem lowBits_succ (m n : Nat) : lowBits (m + 1) n = n.testBit m :: lowBits m n := by
  unfold lowBits
  rw [List.range_succ_eq_map, List.map_cons, List.map_map]
  refine congrArg₂ List.cons rfl (List.map_congr_left fun j _ => ?_)
  exact congrArg n.testBit (by omega)

/-- The sign bit of `v`, which 0 does not have (30_encoding.md R152). -/
def signBits (v : Int) : List Bool := if v = 0 then [] else [decide (v < 0)]

theorem signBits_of_ne {v : Int} (hv : v ≠ 0) : signBits v = [decide (v < 0)] := if_neg hv

theorem riceCode_eq (m : Nat) (v : Int) :
    riceCode m v = List.replicate (v.natAbs / 2 ^ m) false ++ [true] ++ lowBits m v.natAbs ++ signBits v := rfl

/-! ## Reading a Rice code -/

/-- The low bits at the cursor are the number they were taken from, modulo their count. -/
theorem bitsAt_of_holds : ∀ (m n : Nat) {b : BitReader}, b.Holds (lowBits m n) → bitsAt b.inbuf b.pos m = n % 2 ^ m
  | 0, n, _, _ => (Nat.mod_one n).symm
  | m + 1, n, b, h => by
    rw [lowBits_succ] at h
    have hhead : bitAt b.inbuf b.pos = (n.testBit m).toNat := h.bit 0 (Nat.succ_pos _)
    have htail : bitsAt b.inbuf (b.pos + 1) m = n % 2 ^ m := bitsAt_of_holds m n h.tail
    rw [bitsAt_succ, hhead, htail, Nat.toNat_testBit, Nat.mod_pow_succ]
    ring

theorem BitReader.Holds.readLowBits {b : BitReader} {m n : Nat} (h : b.Holds (lowBits m n)) :
    b.readBits m = (some (n % 2 ^ m), b.skip m) := by
  have hfits := h.fits
  rw [length_lowBits] at hfits
  rw [b.readBits_ok m h.noError hfits, streamBits_eq_bitsAt, bitsAt_of_holds m n h]
  rfl

/-- The run of zeros is counted, and the one that ends it is consumed; the fuel is never used up. -/
theorem riceRun_of_holds : ∀ (zeros fuel run : Nat) {b : BitReader}, zeros < fuel →
    b.Holds (List.replicate zeros false ++ [true]) → riceRun fuel run b = (some (run + zeros), b.skip (zeros + 1))
  | _, 0, _, _, hfuel, _ => absurd hfuel (Nat.not_lt_zero _)
  | 0, fuel + 1, run, b, _, h => by
    rw [riceRun, h.readBit]
    rfl
  | zeros + 1, fuel + 1, run, b, hfuel, h => by
    rw [riceRun, h.readBit]
    refine (riceRun_of_holds zeros fuel (run + 1) (Nat.lt_of_succ_lt_succ hfuel) h.tail).trans ?_
    rw [BitReader.skip_skip, Nat.add_right_comm run, Nat.add_comm 1]
    rfl

/-- The sign bit, where there is one, gives the magnitude its sign. -/
theorem riceSign_of_holds {b : BitReader} {v : Int} (h : b.Holds (signBits v)) :
    riceSign v.natAbs b = (some v, b.skip (signBits v).length) := by
  by_cases hv : v = 0
  · subst hv
    rfl
  · rw [signBits_of_ne hv] at h ⊢
    rw [riceSign, if_neg (Int.natAbs_ne_zero.mpr hv), h.readBit]
    refine congrArg (fun w => (some w, b.skip 1)) ?_
    by_cases hneg : v < 0
    · simp only [hneg, decide_true, Bool.toNat_true, if_true]
      omega
    · simp only [hneg, decide_false, Bool.toNat_false, Nat.zero_ne_one, if_false]
      omega

/-- `rice(m)` reads back the Rice code at the cursor and moves past it (42_dst_header.md R270). -/
theorem BitReader.rice_of_holds {b : BitReader} {m : Nat} {v : Int} (h : b.Holds (riceCode m v)) :
    b.rice m = (some v, b.skip (riceCode m v).length) := by
  have hlen : (riceCode m v).length = v.natAbs / 2 ^ m + 1 + m + (signBits v).length := by
    simp only [riceCode_eq, List.length_append, List.length_replicate, List.length_singleton, length_lowBits]
  have hfits := h.fits
  rw [hlen] at hfits ⊢
  rw [riceCode_eq] at h
  have hrun := riceRun_of_holds (v.natAbs / 2 ^ m) (b.remaining + 1) 0
    (by unfold BitReader.remaining; omega) h.left.left
  have hlow := h.left.right
  have hsign := h.right
  simp only [List.length_append, List.length_replicate, List.length_singleton, length_lowBits] at hlow hsign
  rw [BitReader.rice, hrun]
  dsimp only
  rw [hlow.readLowBits]
  dsimp only
  rw [Nat.zero_add, Nat.div_add_mod', BitReader.skip_skip, riceSign_of_holds hsign, BitReader.skip_skip]

/-! ## A read that fails -/

/-- A read that answers nothing has set the error flag (40_bitreader.md R200 (c)). -/
def FailsMarked {α : Type} (r : Option α × BitReader) : Prop := r.1 = none → r.2.brErr = true

theorem FailsMarked.some {α : Type} (v : α) (b : BitReader) : FailsMarked (some v, b) := fun h => nomatch h

theorem FailsMarked.none {α : Type} {b : BitReader} (h : b.brErr = true) : FailsMarked ((none : Option α), b) :=
  fun _ => h

theorem FailsMarked.map {α β : Type} (f : α → β) : ∀ {r : Option α × BitReader}, FailsMarked r →
    FailsMarked (r.map (Option.map f) id)
  | (.none, _), h => FailsMarked.none (h rfl)
  | (.some _, _), _ => FailsMarked.some _ _

theorem BitReader.readBits_failsMarked (b : BitReader) (n : Nat) : FailsMarked (b.readBits n) := by
  obtain ⟨_, _, h⟩ | ⟨_, h⟩ := b.readBits_cases n <;> rw [h]
  · exact .some _ _
  · exact .none rfl

theorem riceRun_failsMarked : ∀ (fuel run : Nat) (b : BitReader), FailsMarked (riceRun fuel run b)
  | 0, _, _ => .none rfl
  | fuel + 1, run, b => by
    have h := b.readBits_failsMarked 1
    rw [riceRun]
    rcases hr : b.readBits 1 with ⟨_ | v, b'⟩ <;> rw [hr] at h
    · exact .none (h rfl)
    · dsimp only
      split
      · exact riceRun_failsMarked fuel (run + 1) b'
      · exact .some _ _

theorem riceSign_failsMarked (n : Nat) (b : BitReader) : FailsMarked (riceSign n b) := by
  have h := b.readBits_failsMarked 1
  rw [riceSign]
  split
  · exact .some _ _
  · rcases hr : b.readBits 1 with ⟨_ | v, b'⟩ <;> rw [hr] at h
    · exact .none (h rfl)
    · exact .some _ _

theorem BitReader.rice_failsMarked (b : BitReader) (m : Nat) : FailsMarked (b.rice m) := by
  have hrun := riceRun_failsMarked (b.remaining + 1) 0 b
  rw [BitReader.rice]
  rcases hr : riceRun (b.remaining + 1) 0 b with ⟨_ | run, b'⟩ <;> rw [hr] at hrun
  · exact .none (hrun rfl)
  · have hlow := b'.readBits_failsMarked m
    dsimp only
    rcases hl : b'.readBits m with ⟨_ | lsb, b''⟩ <;> rw [hl] at hlow
    · exact .none (hlow rfl)
    · exact riceSign_failsMarked _ b''

/-- The two ends of a read command: OK, or `OutOfData` with the error flag set and the bits that remain
(40_bitreader.md R200 (c)). -/
theorem State.answerRead_ends (s : State) {r : Option Value × BitReader} (h : FailsMarked r) :
    ∃ t a, s.answerRead r = .next t ∧ t.rsp = s.rsp ++ [a] ∧
      (a.status = 0 ∨ a.status = 0x10 ∧ t.selected.br.brErr = true ∧
        a.value = BitVec.ofNat 64 (t.selected.br.totalBits - t.selected.br.pos)) := by
  obtain ⟨_ | v, b⟩ := r
  · have hslot : (s.setSelected { s.selected with br := b }).selected = { s.selected with br := b } :=
      s.selected_setSelected _
    refine ⟨_, _, s.answerRead_none b, rfl, .inr ⟨rfl, ?_, ?_⟩⟩
    · exact (congrArg (·.br.brErr) hslot).trans (h rfl)
    · exact congrArg (fun sl : Slot => BitVec.ofNat 64 (sl.br.totalBits - sl.br.pos)) hslot.symm
  · exact ⟨_, _, s.answerRead_some v b, rfl, .inl rfl⟩

/-! ## BR_RICE -/

section rice
variable {s : State} (h : s.unitFree)
include h

theorem execBrRice_free (m : Nat) (hm : m ≤ 7) :
    execBrRice m s = s.answerRead ((s.selected.br.rice m).map (Option.map valInt) id) :=
  (h.slotCommand _).trans (if_neg (Nat.not_lt.mpr hm))

theorem execBrRice_refused (m : Nat) (hm : 7 < m) : execBrRice m s = .next (s.refusedWith 2 m) :=
  (h.slotCommand _).trans ((if_pos hm).trans (s.fail_eq .eOperand m))

theorem execBrRice_of_holds (m : Nat) (hm : m ≤ 7) (v : Int) (hcode : s.selected.br.Holds (riceCode m v)) :
    execBrRice m s = .next ((withBr s (s.selected.br.skip (riceCode m v).length)).okWith (valInt v)) := by
  rw [execBrRice_free h m hm, BitReader.rice_of_holds hcode]
  exact s.answerRead_some _ _

end rice

/-- Settles O26: a Rice code at the cursor is read back, any other read ends OK or with `OutOfData`, and the operand is
checked. -/
theorem riceReadsRiceCodes : Obligations.RiceReadsRiceCodes := by
  unfold Obligations.RiceReadsRiceCodes
  refine ⟨fun s m v h hm herr hfits hbit => execBrRice_of_holds h m hm v ⟨herr, hfits, hbit⟩, fun s m h hm => ?_,
    fun s m h => execBrRice_refused h m⟩
  have hexec : exec (.brRice m) s = _ := execBrRice_free h m hm
  rw [hexec]
  exact s.answerRead_ends ((s.selected.br.rice_failsMarked m).map valInt)

end Sys2Proof.Machine
end

section
/-! PROOFS (O33, O31). `DST_DECODE` and `SLOT_READ` on a free slot (43_dst_residual.md R314, R320, R321): the answer is
the result of the decode, a failed frame is silence and one error. A plain frame (R301) decodes to the bytes after its
first, or fails at the stuffing bits or at the end of its buffer. -/

-- One thread: the check limits the memory of a compile, and each thread reserves its own.
set_option Elab.async false

open Sys2Proof.Claims

namespace Sys2Proof.Machine

/-! ## The commands on a free slot -/

/-- Retiring a failed decode of the selected slot: silence in the place of the frame and one error counted; the
response of the exception then writes `LAST_ERROR` once more (43_dst_residual.md R314). -/
theorem State.retireFailed_refusedWith (s : State) (d : Slot) (code v : Nat) :
    ((s.setSelected d).retireFailed s.slotSel).refusedWith code v = (frameFailed s d).refusedWith code v := by
  have hslot : (s.setSelected d).slot s.slotSel = d := s.slot_setSlot_same _ _
  have hcount : satInc s.errCount = errorCounted s := satInc_eq s.errCount
  have hsilenced : ({ d with
      outbuf := overwrite d.outbuf (List.replicate (s.pool.dstCh * s.pool.dstFb) s.silence)
      outSize := s.pool.dstCh * s.pool.dstFb } : Slot) = silenced s d := by
    rw [overwrite, List.length_replicate]
    rfl
  have hset : (s.setSelected d).setSlot s.slotSel (silenced s d) = s.setSlot s.slotSel (silenced s d) :=
    s.setSlot_setSlot _ _ _
  have hretired := (s.setSelected d).retireFailed_eq s.slotSel
  simp only [hslot, show (s.setSelected d).pool = s.pool from rfl, show (s.setSelected d).silence = s.silence from rfl,
    show (s.setSelected d).errCount = s.errCount from rfl, hsilenced, hset, hcount] at hretired
  rw [hretired]
  rfl

theorem frameFailed_selected (s : State) (d : Slot) : (frameFailed s d).selected = silenced s d :=
  s.slot_setSlot_same s.slotSel _

/-- The output of a slot whose failed frame was replaced is silence (43_dst_residual.md R314). -/
theorem bufBytes_silenced (s : State) (d : Slot) :
    bufBytes (silenced s d).outbuf 0 (poolFrame s) = List.replicate (poolFrame s) s.silence := by
  have h := bufBytes_overwrite d.outbuf (List.replicate (poolFrame s) s.silence)
  rw [List.length_replicate, overwrite, List.length_replicate] at h
  exact h

section commands
variable {s : State} (h : s.unitFree)
include h

theorem execDstDecode_noGeometry (hch : s.pool.dstCh = 0) : execDstDecode s = .next (s.refusedWith 3 0) :=
  (h.slotCommand _).trans ((if_pos hch).trans (s.fail_eq .eState 0))

variable (hch : s.pool.dstCh ≠ 0) {d : Slot} (hd : d = s.selected.frameDecode s.pool.dstCh s.pool.dstFb)
include hch hd

theorem execDstDecode_good (hok : d.slotStatus = .ok) :
    execDstDecode s = .next ((s.setSlot s.slotSel d).okWith (val d.outSize)) := by
  subst hd
  exact (h.slotCommand _).trans ((if_neg hch).trans (if_pos hok))

theorem execDstDecode_failed (hok : d.slotStatus ≠ .ok) :
    execDstDecode s = .next ((frameFailed s d).refusedWith 0x11 d.slotCause.code) := by
  subst hd
  refine (h.slotCommand _).trans ((if_neg hch).trans ((if_neg hok).trans ?_))
  rw [State.fail_eq]
  exact congrArg _ (s.retireFailed_refusedWith _ _ _)

end commands

theorem execSlotRead_free {s : State} (h : s.unitFree) : execSlotRead s = .next
    (({ s with dout := s.dout ++ bufBytes s.selected.outbuf 0 s.selected.outSize } : State).okWith
      (val s.selected.outSize)) := h.slotCommand _

/-- A good decode leaves a frame of `ch · fb` bytes in the slot (43_dst_residual.md R300). -/
theorem Slot.frameDecode_outSize {sl : Slot} {ch fb : Nat} (hok : (sl.frameDecode ch fb).slotStatus = .ok) :
    (sl.frameDecode ch fb).outSize = ch * fb := by
  unfold Slot.frameDecode at hok ⊢
  split at hok
  · rfl
  · cases hok

/-- Settles O33: the decode's result is the answer, a failed frame is silence, and `SLOT_READ` emits the output. -/
theorem dstDecodeAndSlotRead : Obligations.DstDecodeAndSlotRead := by
  unfold Obligations.DstDecodeAndSlotRead
  refine ⟨fun s d h hch hd => ⟨fun hok => ?_, fun hok => ⟨execDstDecode_failed h hch hd hok, ?_⟩⟩,
    fun s h hch => execDstDecode_noGeometry h hch, fun s h => execSlotRead_free h⟩
  · have hsize : d.outSize = poolFrame s := by
      subst hd
      exact Slot.frameDecode_outSize hok
    rw [← hsize]
    exact execDstDecode_good h hch hd hok
  · rw [frameFailed_selected]
    exact bufBytes_silenced s d

/-! ## Parts of a frame decode, run one after the other -/

section run
variable {α β : Type} {p : Parse α} {f : α → Parse β} {sl t : Slot}

theorem Parse.bind_of_ok {a : α} (h : p sl = .ok a t) : (p >>= f) sl = f a t := by
  show EStateM.bind p f sl = _
  rw [EStateM.bind, h]

theorem Parse.bind_of_error {e : Cause} (h : p sl = .error e t) : (p >>= f) sl = .error e t := by
  show EStateM.bind p f sl = _
  rw [EStateM.bind, h]

end run

theorem Parse.check_of_true {ok : Bool} (h : ok = true) (cause : Cause) (sl : Slot) :
    Parse.check ok cause sl = .ok () sl := by
  rw [Parse.check, if_pos h]
  rfl

theorem Parse.check_of_false {ok : Bool} (h : ok = false) (cause : Cause) (sl : Slot) :
    Parse.check ok cause sl = .error cause sl := by
  rw [Parse.check, if_neg (by rw [h]; exact Bool.false_ne_true)]
  rfl

section read
variable {α : Type} {f : BitReader → Option α × BitReader} {sl : Slot}

theorem Parse.read_of_some {v : α} {b : BitReader} (h : f sl.br = (some v, b)) :
    Parse.read f sl = .ok v { sl with br := b } := by
  simp only [Parse.read, h]

theorem Parse.read_of_none {b : BitReader} (h : f sl.br = (none, b)) :
    Parse.read f sl = .error .outOfData { sl with br := b } := by
  simp only [Parse.read, h]

end read

section bits
variable {sl : Slot} {n : Nat}

theorem Parse.bits_enough (he : sl.br.brErr = false) (h : sl.br.pos + n ≤ sl.br.totalBits) :
    Parse.bits n sl = .ok (bitsAt sl.br.inbuf sl.br.pos n) { sl with br := sl.br.skip n } := by
  rw [Parse.bits, Parse.read_of_some (sl.br.readBits_ok n he h), streamBits_eq_bitsAt]
  rfl

theorem Parse.bits_tooFew (h : sl.br.totalBits < sl.br.pos + n) :
    Parse.bits n sl = .error .outOfData { sl with br := sl.br.markError } :=
  Parse.read_of_none (sl.br.readBits_fail n (.inr h))

end bits

/-! ## Plain frames (43_dst_residual.md R301) -/

/-- The six bits after the dummy bit are the low six of the first byte. -/
theorem bitsAt_stuffing (buf : List Byte) : bitsAt buf 2 6 = (bufByte buf 0).toNat % 64 := by
  simp only [bitsAt, bitAt, List.range_succ_eq_map, List.range_zero, List.map_cons, List.map_nil, List.sum_cons,
    List.sum_nil, Nat.reduceAdd, Nat.reduceDiv, Nat.reduceMod, Nat.reduceSub, Nat.reducePow, Nat.succ_eq_add_one]
  omega

/-- The first bit of a byte below 128 is 0. -/
theorem bitsAt_first {buf : List Byte} (h : (bufByte buf 0).toNat < 128) : bitsAt buf 0 1 = 0 := by
  rw [bitsAt_one]
  show (bufByte buf 0).toNat / 2 ^ 7 % 2 = 0
  omega

section aligned
variable {b : BitReader} {n : Nat} (he : b.brErr = false) (hpos : b.pos = 8)
include he hpos

theorem BitReader.readBytesAligned_enough (h : 8 * (1 + n) ≤ b.totalBits) :
    ∃ b', b.readBytesAligned n = (some (bufBytes b.inbuf 1 n), b') := by
  have halign : b.alignedPos = 8 := by rw [BitReader.alignedPos, hpos]
  unfold BitReader.readBytesAligned
  rw [halign, if_neg (show ¬ b.brErr = true by rw [he]; exact Bool.false_ne_true)]
  split
  · next hn => exact ⟨b, by rw [hn]; rfl⟩
  · exact ⟨_, if_pos (by omega)⟩

theorem BitReader.readBytesAligned_tooFew (hn : 0 < n) (h : b.totalBits < 8 * (1 + n)) :
    ∃ b', b.readBytesAligned n = (none, b') := by
  have halign : b.alignedPos = 8 := by rw [BitReader.alignedPos, hpos]
  unfold BitReader.readBytesAligned
  rw [halign, if_neg (show ¬ n = 0 by omega), if_neg (show ¬ b.brErr = true by rw [he]; exact Bool.false_ne_true),
    if_neg (by omega)]
  split <;> exact ⟨_, rfl⟩

end aligned

/-- A frame whose first bit is missing runs out of data (43_dst_residual.md R320). -/
theorem frameBody_empty (sl : Slot) (ch fb : Nat) (h : sl.br.totalBits = 0) :
    ∃ t, frameBody ch fb (sl.startFrame ch fb) = .error .outOfData t := by
  have hbits : (sl.startFrame ch fb).br.totalBits < (sl.startFrame ch fb).br.pos + 1 := by
    show sl.br.totalBits < 0 + 1
    omega
  exact ⟨_, Parse.bind_of_error (Parse.bits_tooFew hbits)⟩

/-- The slot with the bytes of a plain frame as its output (43_dst_residual.md R301). -/
def Slot.withPlain (sl : Slot) (ch fb : Nat) (bytes : List Byte) : Slot :=
  { sl with
    outbuf := overwrite sl.outbuf bytes
    fd := { sl.fd with nbitsDecoded := ch * Config.frameBits fb } }

/-- What is left of a plain frame behind its header byte (43_dst_residual.md R301). -/
def plainBytes (ch fb : Nat) : Parse Unit := do
  let bytes ← Parse.read (fun b => b.readBytesAligned (ch * fb))
  fun sl => .ok () (sl.withPlain ch fb bytes)

theorem plainFrame_eq (ch fb : Nat) : plainFrame ch fb = (do
    let _ ← Parse.bits 1
    let stuffing ← Parse.bits 6
    Parse.check (stuffing = 0) .stuffing
    plainBytes ch fb) := rfl

/-- A slot whose decode has read the header byte of its frame. -/
def Slot.pastByte (sl : Slot) (ch fb : Nat) : Slot :=
  { sl.startFrame ch fb with br := (sl.startFrame ch fb).br.skip 8 }

section plain
variable {sl : Slot} (ch fb : Nat) (hfirst : (bufByte sl.br.inbuf 0).toNat < 128) (hbits : 8 ≤ sl.br.totalBits)
include hfirst hbits

/-- After its header byte a plain frame turns on the stuffing bits and on the bytes that follow. -/
theorem frameBody_plain : frameBody ch fb (sl.startFrame ch fb) =
    (Parse.check ((bufByte sl.br.inbuf 0).toNat % 64 = 0) .stuffing >>= fun _ => plainBytes ch fb)
      (sl.pastByte ch fb) := by
  have hcoded := Parse.bits_enough (sl := sl.startFrame ch fb) (n := 1) rfl (show 0 + 1 ≤ sl.br.totalBits by omega)
  rw [show bitsAt (sl.startFrame ch fb).br.inbuf (sl.startFrame ch fb).br.pos 1 = 0 from bitsAt_first hfirst] at hcoded
  rw [frameBody, Parse.bind_of_ok hcoded, if_pos rfl, plainFrame_eq,
    Parse.bind_of_ok (Parse.bits_enough rfl (show 0 + 1 + 1 ≤ sl.br.totalBits by omega)),
    Parse.bind_of_ok (Parse.bits_enough rfl (show 0 + 1 + 1 + 6 ≤ sl.br.totalBits by omega)), ← bitsAt_stuffing]
  rfl

theorem frameBody_plain_stuffed (hstuffing : (bufByte sl.br.inbuf 0).toNat % 64 ≠ 0) :
    ∃ t, frameBody ch fb (sl.startFrame ch fb) = .error .stuffing t := by
  rw [frameBody_plain ch fb hfirst hbits]
  exact ⟨_, Parse.bind_of_error (Parse.check_of_false (decide_eq_false hstuffing) _ _)⟩

variable (hstuffing : (bufByte sl.br.inbuf 0).toNat % 64 = 0)
include hstuffing

theorem frameBody_plain_short (hshort : sl.br.totalBits < 8 * (1 + ch * fb)) :
    ∃ t, frameBody ch fb (sl.startFrame ch fb) = .error .outOfData t := by
  rw [frameBody_plain ch fb hfirst hbits, Parse.bind_of_ok (Parse.check_of_true (decide_eq_true hstuffing) _ _)]
  obtain ⟨b, hbytes⟩ := BitReader.readBytesAligned_tooFew (b := (sl.pastByte ch fb).br) (n := ch * fb) rfl rfl (by omega) hshort
  exact ⟨_, Parse.bind_of_error (Parse.read_of_none hbytes)⟩

theorem frameBody_plain_full (hfull : 8 * (1 + ch * fb) ≤ sl.br.totalBits) :
    ∃ b, frameBody ch fb (sl.startFrame ch fb) =
      .ok () (({ sl.pastByte ch fb with br := b } : Slot).withPlain ch fb (bufBytes sl.br.inbuf 1 (ch * fb))) := by
  rw [frameBody_plain ch fb hfirst hbits, Parse.bind_of_ok (Parse.check_of_true (decide_eq_true hstuffing) _ _)]
  obtain ⟨b, hbytes⟩ := BitReader.readBytesAligned_enough (b := (sl.pastByte ch fb).br) (n := ch * fb) rfl rfl hfull
  exact ⟨_, Parse.bind_of_ok (Parse.read_of_some hbytes)⟩

end plain

/-! ## The result in the slot (43_dst_residual.md R300, R314) -/

section result
variable {sl t : Slot} {ch fb : Nat}

theorem Slot.frameDecode_of_ok (h : frameBody ch fb (sl.startFrame ch fb) = .ok () t) :
    sl.frameDecode ch fb = { t with outSize := ch * fb, fd := { t.fd with dstate := .done } } := by
  rw [Slot.frameDecode, h]

theorem Slot.frameDecode_of_error {e : Cause} (h : frameBody ch fb (sl.startFrame ch fb) = .error e t) :
    sl.frameDecode ch fb =
      { t with slotStatus := .frameDecodeError, slotCause := e, fd := { t.fd with dstate := .failed } } := by
  rw [Slot.frameDecode, h]

end result

/-- A plain frame with all its bytes decodes to them (43_dst_residual.md R301). -/
theorem Slot.frameDecode_plain {sl : Slot} (ch fb : Nat) (hfirst : (bufByte sl.br.inbuf 0).toNat < 128)
    (hbits : 8 ≤ sl.br.totalBits) (hstuffing : (bufByte sl.br.inbuf 0).toNat % 64 = 0)
    (hfull : 8 * (1 + ch * fb) ≤ sl.br.totalBits) :
    (sl.frameDecode ch fb).slotStatus = .ok ∧ (sl.frameDecode ch fb).outSize = ch * fb ∧
    (sl.frameDecode ch fb).fd.nbitsDecoded = 8 * (ch * fb) ∧ (sl.frameDecode ch fb).slotState = sl.slotState ∧
    bufBytes (sl.frameDecode ch fb).outbuf 0 (ch * fb) = bufBytes sl.br.inbuf 1 (ch * fb) := by
  obtain ⟨b, hbody⟩ := frameBody_plain_full ch fb hfirst hbits hstuffing hfull
  rw [Slot.frameDecode_of_ok hbody]
  refine ⟨rfl, rfl, Nat.mul_left_comm ch 8 fb, rfl, ?_⟩
  have hbytes := bufBytes_overwrite (sl.pastByte ch fb).outbuf (bufBytes sl.br.inbuf 1 (ch * fb))
  rw [length_bufBytes] at hbytes
  exact hbytes

section commands
variable {s : State} (h : s.unitFree) (hch : s.pool.dstCh ≠ 0)
include h hch

/-- A decode that fails with cause `e` is refused with its number and leaves silence. -/
theorem execDstDecode_of_error {e : Cause}
    (hbody : ∃ t, frameBody s.pool.dstCh s.pool.dstFb (s.selected.startFrame s.pool.dstCh s.pool.dstFb) = .error e t) :
    ∃ t : State, execDstDecode s = .next (t.refusedWith 0x11 e.code) ∧
      t = { s with slots := t.slots, errCount := errorCounted s } ∧ t.selected.outSize = poolFrame s ∧
      bufBytes t.selected.outbuf 0 (poolFrame s) = List.replicate (poolFrame s) s.silence := by
  obtain ⟨t, hbody⟩ := hbody
  have hd := Slot.frameDecode_of_error hbody
  have hfailed := execDstDecode_failed h hch hd.symm (by rintro ⟨⟩)
  refine ⟨_, hfailed, rfl, ?_, ?_⟩ <;> rw [frameFailed_selected]
  · rfl
  · exact bufBytes_silenced s _

/-- A plain frame with all its bytes. -/
theorem execDstDecode_plain (hfirst : (bufByte s.selected.br.inbuf 0).toNat < 128)
    (hstuffing : (bufByte s.selected.br.inbuf 0).toNat % 64 = 0)
    (hfull : 8 * (1 + poolFrame s) ≤ s.selected.br.totalBits) :
    ∃ t : State, execDstDecode s = .next (t.okWith (val (poolFrame s))) ∧ t = { s with slots := t.slots } ∧
      t.selected.outSize = poolFrame s ∧ t.selected.fd.nbitsDecoded = 8 * poolFrame s ∧ t.selected.slotState = .free ∧
      bufBytes t.selected.outbuf 0 (poolFrame s) = bufBytes s.selected.br.inbuf 1 (poolFrame s) := by
  obtain ⟨hok, hsize, hcount, hstate, hbytes⟩ := Slot.frameDecode_plain _ _ hfirst (by omega) hstuffing hfull
  refine ⟨s.setSlot s.slotSel (s.selected.frameDecode s.pool.dstCh s.pool.dstFb), ?_, rfl, ?_⟩
  · rw [poolFrame, ← hsize]
    exact execDstDecode_good h hch rfl hok
  · rw [State.selected, State.setSlot_slotSel, State.slot_setSlot_same]
    exact ⟨hsize, hcount, hstate.trans h.2, hbytes⟩

end commands

/-- Settles O31. -/
theorem plainFrameDecodes : Obligations.PlainFrameDecodes := by
  unfold Obligations.PlainFrameDecodes
  rintro s b0 h hch rfl hfirst
  refine ⟨execDstDecode_plain h hch hfirst, fun c hc => ?_⟩
  obtain ⟨rfl, hstuffing, hbits⟩ | ⟨rfl, hstuffing, hbits, hshort⟩ | ⟨rfl, hempty⟩ := hc
  · exact execDstDecode_of_error (e := .stuffing) h hch (frameBody_plain_stuffed _ _ hfirst hbits hstuffing)
  · exact execDstDecode_of_error (e := .outOfData) h hch (frameBody_plain_short _ _ hfirst hbits hstuffing hshort)
  · exact execDstDecode_of_error (e := .outOfData) h hch (frameBody_empty _ _ _ hempty)

end Sys2Proof.Machine
end

section
/-! PROOFS (O32, O34). What the parts of a header are made of: values, checks with a cause of their own, reads of the
frame's bits, and writes of the frame decoder's tables (42_dst_header.md R250, R275). What holds of these and carries
over from two parts to their sequence holds of every part: it fails with a cause below the arithmetic code's, it leaves
the arithmetic decoder and the output alone, and it depends on the bytes of the frame only (43_dst_residual.md R300). -/

-- One thread: the check limits the memory of a compile, and each thread reserves its own.
set_option Elab.async false

open Sys2Proof.Claims

namespace Sys2Proof.Machine

/-! ## Two BitReaders with the same frame -/

/-- Two BitReaders at the same place of the same frame; bytes past the frame are arbitrary. -/
structure BitReader.Alike (b b' : BitReader) : Prop where
  totalBits : b.totalBits = b'.totalBits
  pos : b.pos = b'.pos
  brErr : b.brErr = b'.brErr
  within : b.pos ≤ b.totalBits
  bytes : ∀ j, 8 * j < b.totalBits → bufByte b.inbuf j = bufByte b'.inbuf j

/-- A read finds the same in two BitReaders with the same frame, and leaves them alike. -/
def FrameRead {α : Type} (f : BitReader → Option α × BitReader) : Prop :=
  ∀ b b', b.Alike b' → (f b).1 = (f b').1 ∧ (f b).2.Alike (f b').2

section alike
variable {b b' : BitReader} (h : b.Alike b')
include h

theorem BitReader.Alike.markError : b.markError.Alike b'.markError := ⟨h.totalBits, h.pos, rfl, h.within, h.bytes⟩

theorem BitReader.Alike.moveTo {p p' : Nat} (hp : p = p') (hin : p ≤ b.totalBits) :
    ({ b with pos := p } : BitReader).Alike { b' with pos := p' } := ⟨h.totalBits, hp, h.brErr, hin, h.bytes⟩

theorem BitReader.Alike.streamBit {i : Nat} (hi : i < b.totalBits) : streamBit b.inbuf i = streamBit b'.inbuf i := by
  rw [Machine.streamBit, Machine.streamBit, h.bytes _ (by omega)]

theorem BitReader.Alike.streamBits : ∀ (n i v : Nat), i + n ≤ b.totalBits →
    streamBits b.inbuf n i v = streamBits b'.inbuf n i v
  | 0, _, _, _ => rfl
  | n + 1, i, v, hi => by
    rw [Machine.streamBits, Machine.streamBits, h.streamBit (by omega), BitReader.Alike.streamBits n (i + 1) _ (by omega)]

theorem BitReader.Alike.bufBytes {i n : Nat} (hi : 8 * (i + n) ≤ b.totalBits) :
    bufBytes b.inbuf i n = bufBytes b'.inbuf i n := by
  induction n generalizing i with
  | zero => rfl
  | succ n ih => rw [bufBytes_succ, bufBytes_succ, h.bytes i (by omega), ih (by omega)]

theorem BitReader.Alike.remaining : b.remaining = b'.remaining := by
  rw [BitReader.remaining, BitReader.remaining, h.totalBits, h.pos]

theorem BitReader.Alike.alignedPos : b.alignedPos = b'.alignedPos := by
  rw [BitReader.alignedPos, BitReader.alignedPos, h.pos]

end alike

theorem FrameRead.mapped {α β : Type} {f : BitReader → Option α × BitReader} (hf : FrameRead f) (g : α → β) :
    FrameRead fun b => (f b).map (Option.map g) id := fun b b' h =>
  ⟨congrArg (Option.map g) (hf b b' h).1, (hf b b' h).2⟩

theorem FrameRead.readBits (n : Nat) : FrameRead fun b => b.readBits n := by
  intro b b' h
  obtain ⟨he, hin, hread⟩ | ⟨hfail, hread⟩ := b.readBits_cases n
  · have hread' := b'.readBits_ok n (h.brErr ▸ he) (h.pos ▸ h.totalBits ▸ hin)
    simp only [hread, hread', ← h.pos]
    exact ⟨congrArg some (h.streamBits n b.pos 0 hin), h.moveTo rfl hin⟩
  · have hread' := b'.readBits_fail n (h.brErr ▸ h.pos ▸ h.totalBits ▸ hfail)
    simp only [hread, hread']
    exact ⟨trivial, h.markError⟩

theorem FrameRead.readSigned (n : Nat) : FrameRead fun b => b.readSigned n := by
  have h := (FrameRead.readBits n).mapped (sext n)
  simpa only [← BitReader.readSigned_eq] using h

/-- The two ends of a read in two BitReaders with the same frame. -/
theorem FrameRead.ends {α : Type} {f : BitReader → Option α × BitReader} (hf : FrameRead f) {b b' : BitReader}
    (h : b.Alike b') :
    (∃ v c c', f b = (some v, c) ∧ f b' = (some v, c') ∧ c.Alike c') ∨
    ∃ c c', f b = (none, c) ∧ f b' = (none, c') ∧ c.Alike c' := by
  obtain ⟨hv, hb⟩ := hf b b' h
  rcases hr : f b with ⟨v, c⟩
  rcases hr' : f b' with ⟨v', c'⟩
  rw [hr, hr'] at hv hb
  obtain rfl : v = v' := hv
  cases v with
  | none => exact .inr ⟨c, c', rfl, rfl, hb⟩
  | some v => exact .inl ⟨v, c, c', rfl, rfl, hb⟩

theorem FrameRead.riceRun : ∀ fuel run, FrameRead fun b => riceRun fuel run b
  | 0, _ => fun _ _ h => ⟨rfl, h.markError⟩
  | fuel + 1, run => by
    intro b b' h
    simp only [Machine.riceRun]
    obtain ⟨v, c, c', hr, hr', hc⟩ | ⟨c, c', hr, hr', hc⟩ := (FrameRead.readBits 1).ends h <;> simp only [hr, hr']
    · split
      · exact FrameRead.riceRun fuel (run + 1) c c' hc
      · exact ⟨rfl, hc⟩
    · exact ⟨trivial, hc⟩

theorem FrameRead.riceSign (n : Nat) : FrameRead fun b => riceSign n b := by
  intro b b' h
  simp only [Machine.riceSign]
  split
  · exact ⟨rfl, h⟩
  · obtain ⟨v, c, c', hr, hr', hc⟩ | ⟨c, c', hr, hr', hc⟩ := (FrameRead.readBits 1).ends h <;> simp only [hr, hr']
    · exact ⟨trivial, hc⟩
    · exact ⟨trivial, hc⟩

theorem FrameRead.rice (m : Nat) : FrameRead fun b => b.rice m := by
  intro b b' h
  simp only [BitReader.rice, ← h.remaining]
  obtain ⟨run, c, c', hr, hr', hc⟩ | ⟨c, c', hr, hr', hc⟩ := (FrameRead.riceRun (b.remaining + 1) 0).ends h <;>
    simp only [hr, hr']
  · obtain ⟨lsb, e, e', hl, hl', he⟩ | ⟨e, e', hl, hl', he⟩ := (FrameRead.readBits m).ends hc <;> simp only [hl, hl']
    · exact FrameRead.riceSign _ e e' he
    · exact ⟨trivial, he⟩
  · exact ⟨trivial, hc⟩

theorem FrameRead.readBytesAligned (n : Nat) : FrameRead fun b => b.readBytesAligned n := by
  intro b b' h
  simp only [BitReader.readBytesAligned, ← h.alignedPos, ← h.totalBits, ← h.brErr]
  split
  · exact ⟨rfl, h⟩
  split
  · exact ⟨rfl, h⟩
  split
  · next hin => exact ⟨congrArg some (h.bufBytes (by unfold BitReader.alignedPos at hin ⊢; omega)), ⟨rfl, rfl, rfl, hin, h.bytes⟩⟩
  split
  · exact ⟨rfl, rfl, rfl, rfl, by dsimp only; omega, h.bytes⟩
  · exact ⟨rfl, h.markError⟩

/-! ## The parts of a header -/

/-- A cause that a check before the arithmetic code has, or the end of the data (42_dst_header.md R275;
43_dst_residual.md R301). -/
abbrev Cause.BeforeCode (e : Cause) : Prop := 1 ≤ e.code ∧ e.code ≤ 14 ∧ e ≠ .acTermination

/-- The parts of a header and their sequences; `writes` tells whether they may write the frame decoder's tables. -/
inductive Parse.Built (writes : Bool) : {α : Type} → Parse α → Prop where
  | pure {α : Type} (a : α) : Parse.Built writes (pure a : Parse α)
  | throw {α : Type} (e : Cause) : e.BeforeCode → Parse.Built writes (throw e : Parse α)
  | read {α : Type} (f : BitReader → Option α × BitReader) : FrameRead f → Parse.Built writes (Parse.read f)
  | setFd (f : FrameDec → FrameDec) : writes = true → Parse.Built writes (Parse.setFd f)
  | bind {α β : Type} {p : Parse α} {f : α → Parse β} : Parse.Built writes p → (∀ a, Parse.Built writes (f a)) →
      Parse.Built writes (p >>= f)

section built
variable {w : Bool} {α : Type}

theorem Parse.built_bits (n : Nat) : (Parse.bits n).Built w := .read _ (FrameRead.readBits n)

theorem Parse.built_signed (n : Nat) : (Parse.signed n).Built w := .read _ (FrameRead.readSigned n)

theorem Parse.built_rice (m : Nat) : (Parse.rice m).Built w := .read _ (FrameRead.rice m)

theorem Parse.built_check (ok : Bool) (cause : Cause) (h : cause.BeforeCode := by decide) :
    (Parse.check ok cause).Built w := by
  unfold Parse.check
  split
  · exact .pure _
  · exact .throw _ h

theorem Parse.built_times {p : Parse α} (hp : p.Built w) : ∀ n, (Parse.times p n).Built w
  | 0 => .pure _
  | n + 1 => .bind hp fun _ => .bind (Parse.built_times hp n) fun _ => .pure _

theorem Parse.Built.ite {c : Prop} [Decidable c] {p q : Parse α} (hp : p.Built w) (hq : q.Built w) :
    (if c then p else q).Built w := by split <;> assumption

end built

/-! ### What holds of every part -/

/-- A reflexive and transitive relation that a move of the cursor and the writes allowed respect holds between the ends
of a part. -/
theorem Parse.Built.runs {w : Bool} {R : Slot → Slot → Prop} (hr : ∀ s, R s s) (ht : ∀ s t u, R s t → R t u → R s u)
    (hread : ∀ (s : Slot) b, R s { s with br := b }) (hset : w = true → ∀ (s : Slot) fd, R s { s with fd := fd })
    {α : Type} {p : Parse α} (h : p.Built w) : Runs R p := by
  induction h with
  | pure a => exact Runs.pure hr a
  | throw e _ => exact Runs.throw hr e
  | read f _ =>
    intro s
    rcases hf : f s.br with ⟨_ | v, b⟩
    · rw [Parse.read_of_none hf]
      exact hread s b
    · rw [Parse.read_of_some hf]
      exact hread s b
  | setFd f hw => exact fun s => hset hw s _
  | bind _ _ hp hf => exact Runs.bind ht hp hf

/-- A header leaves the arithmetic decoder and the output alone. -/
theorem Parse.Built.keeps_ac {w : Bool} {α : Type} {p : Parse α} (h : p.Built w) (sl : Slot) :
    (endState (p sl)).ac = sl.ac ∧ (endState (p sl)).outbuf = sl.outbuf :=
  h.runs (R := fun s t => t.ac = s.ac ∧ t.outbuf = s.outbuf) (fun _ => ⟨rfl, rfl⟩)
    (fun _ _ _ h h' => ⟨h'.1.trans h.1, h'.2.trans h.2⟩) (fun _ _ => ⟨rfl, rfl⟩) (fun _ _ _ => ⟨rfl, rfl⟩) sl

/-- A part that does not write the tables leaves them alone. -/
theorem Parse.Built.keeps_fd {α : Type} {p : Parse α} (h : p.Built false) (sl : Slot) :
    (endState (p sl)).fd = sl.fd :=
  h.runs (R := fun s t => t.fd = s.fd) (fun _ => rfl) (fun _ _ _ h h' => h'.trans h) (fun _ _ => rfl)
    (fun hw => absurd hw Bool.false_ne_true) sl

theorem Parse.Built.cause {w : Bool} {α : Type} {p : Parse α} (h : p.Built w) {sl t : Slot} {e : Cause}
    (he : p sl = .error e t) : e.BeforeCode := by
  induction h generalizing sl with
  | pure a => cases he
  | throw e hcause => cases he; exact hcause
  | read f _ =>
    rcases hf : f sl.br with ⟨_ | v, b⟩
    · rw [Parse.read_of_none hf] at he
      cases he
      decide
    · rw [Parse.read_of_some hf] at he
      cases he
  | setFd f _ => cases he
  | bind _ _ hp hf =>
    obtain he | ⟨a, u, _, he⟩ := (bind_eq_error _ _ _ _ _).mp he
    · exact hp he
    · exact hf a he

/-! ### Two slots with the same frame -/

/-- Two slots whose decodes are at the same place of the same frame: the buffers and the frame decoders agree. -/
structure Slot.Alike (sl sl' : Slot) : Prop where
  br : sl.br.Alike sl'.br
  fd : sl.fd = sl'.fd

/-- Two runs end alike: with the same value in slots that `R` relates, or with the same cause. -/
inductive AlikeEnds {α : Type} (R : Slot → Slot → Prop) :
    EStateM.Result Cause Slot α → EStateM.Result Cause Slot α → Prop where
  | ok (a : α) {t t' : Slot} : R t t' → AlikeEnds R (.ok a t) (.ok a t')
  | error (e : Cause) {t t' : Slot} : t.Alike t' → AlikeEnds R (.error e t) (.error e t')

theorem AlikeEnds.bind {α β : Type} {R R' : Slot → Slot → Prop} {p : Parse α} {f : α → Parse β} {sl sl' : Slot}
    (hp : AlikeEnds R (p sl) (p sl')) (hf : ∀ a t t', R t t' → AlikeEnds R' (f a t) (f a t')) :
    AlikeEnds R' ((p >>= f) sl) ((p >>= f) sl') := by
  show AlikeEnds R' (EStateM.bind p f sl) (EStateM.bind p f sl')
  unfold EStateM.bind
  generalize p sl = r, p sl' = r' at hp
  cases hp with
  | ok a ht => exact hf a _ _ ht
  | error e ht => exact .error e ht

theorem Parse.Built.alike {w : Bool} {α : Type} {p : Parse α} (h : p.Built w) {sl sl' : Slot} (hs : sl.Alike sl') :
    AlikeEnds Slot.Alike (p sl) (p sl') := by
  induction h generalizing sl sl' with
  | pure a => exact .ok a hs
  | throw e _ => exact .error e hs
  | read f hf =>
    obtain ⟨v, c, c', hr, hr', hc⟩ | ⟨c, c', hr, hr', hc⟩ := hf.ends hs.br
    · rw [Parse.read_of_some hr, Parse.read_of_some hr']
      exact .ok v ⟨hc, hs.fd⟩
    · rw [Parse.read_of_none hr, Parse.read_of_none hr']
      exact .error _ ⟨hc, hs.fd⟩
  | setFd f _ => exact .ok () ⟨hs.br, congrArg f hs.fd⟩
  | bind _ _ hp hf => exact (hp hs).bind fun a _ _ ht => hf a ht

/-! ## The header is built of such parts (42_dst_header.md R250 to R267) -/

section parts
variable {w : Bool}

theorem segResolution_built (m : Nat) (r : SegRun) : (segResolution m r).Built w := by
  unfold segResolution
  split
  · exact .pure _
  · exact .bind (Parse.built_bits _) fun _ => .bind (Parse.built_check _ _) fun _ => .pure _

theorem readOneSegment_built (fb minbits : Nat) (r : SegRun) : (readOneSegment fb minbits r).Built w :=
  .bind (Parse.built_check _ _) fun _ => .bind (segResolution_built _ _) fun _ => .bind (Parse.built_bits _) fun _ =>
    .bind (Parse.built_check _ _) fun _ => .pure _

theorem readChannelSegments_built (fb minbits : Nat) : ∀ fuel r, (readChannelSegments fb minbits fuel r).Built w
  | 0, _ => .throw _ (by decide)
  | fuel + 1, r => .bind (Parse.built_bits 1) fun _ => .ite (.pure _) <| .bind (readOneSegment_built fb minbits r)
      fun x => .bind (readChannelSegments_built fb minbits fuel x.2) fun _ => .pure _

theorem readEachChannel_built (fb minbits : Nat) : ∀ n res, (readEachChannel fb minbits n res).Built w
  | 0, _ => .pure _
  | n + 1, _ => .bind (readChannelSegments_built fb minbits _ _) fun x =>
    .bind (readEachChannel_built fb minbits n x.2.resolution) fun _ => .pure _

theorem readSegmentation_built (ch fb minbits : Nat) : (readSegmentation ch fb minbits).Built w :=
  .bind (Parse.built_bits 1) fun _ => .ite (.bind (readChannelSegments_built fb minbits _ _) fun _ => .pure _) <|
    .bind (readEachChannel_built fb minbits ch none) fun _ => .pure _

theorem readTableNumber_built (count : Nat) : (readTableNumber count).Built w :=
  .bind (Parse.built_bits _) fun _ => .bind (Parse.built_check _ _) fun _ => .pure _

theorem readTableNumbers_built : ∀ n count, (readTableNumbers n count).Built w
  | 0, _ => .pure _
  | n + 1, count => .bind (readTableNumber_built count) fun x => .bind (readTableNumbers_built n x.2) fun _ => .pure _

theorem readMapRows_built (sg : Segmentation) : ∀ n ch count, (readMapRows sg n ch count).Built w
  | 0, _, _ => .pure _
  | n + 1, ch, _ =>
    have hrows : ∀ row : List Nat × Nat, (readMapRows sg n (ch + 1) row.2 >>= fun rows =>
        pure (row.1 :: rows.1, rows.2) : Parse (List (List Nat) × Nat)).Built w :=
      fun row => .bind (readMapRows_built sg n (ch + 1) row.2) fun _ => .pure _
    .ite (.bind (readTableNumbers_built _ _) fun _ => .bind (.pure (_, _)) fun row => hrows row) <|
      .bind (readTableNumbers_built _ _) fun row => hrows row

theorem readMapping_built (ch : Nat) (sg : Segmentation) : (readMapping ch sg).Built w :=
  have hcount : ∀ m : List (List Nat) × Nat, (Parse.check (m.2 ≤ Config.maxTables ch) .tableCount >>= fun _ =>
      pure m : Parse (List (List Nat) × Nat)).Built w := fun m => .bind (Parse.built_check _ _) fun _ => .pure _
  .bind (Parse.built_bits 1) fun _ => .ite
    (.bind (readTableNumbers_built _ _) fun _ => .bind (Parse.built_check _ _) fun _ =>
      .bind (.pure (_, _)) fun m => hcount m)
    (.bind (readMapRows_built sg ch 0 1) fun m => hcount m)

theorem readRiceEntries_built (pred : List Int) (m : Nat) (lo hi : Int) {cause : Cause} (hcause : cause.BeforeCode) :
    ∀ n newest, (readRiceEntries pred m lo hi cause n newest).Built w
  | 0, _ => .pure _
  | n + 1, _ => .bind (Parse.built_rice m) fun _ => .bind (Parse.built_check _ _ hcause) fun _ =>
    readRiceEntries_built pred m lo hi hcause n _

theorem readRiceTable_built (preds : Nat → List Int) {first : Parse Int} (hfirst : first.Built w) (lo hi : Int)
    {cause : Cause} (hcause : cause.BeforeCode) (len : Nat) : (readRiceTable preds first lo hi cause len).Built w :=
  .bind (Parse.built_bits _) fun _ => .bind (Parse.built_check _ _) fun _ => .bind (Parse.built_check _ _) fun _ =>
    .bind (Parse.built_times hfirst _) fun _ => .bind (Parse.built_bits _) fun _ =>
      .bind (readRiceEntries_built _ _ _ _ hcause _ _) fun _ => .pure _

theorem readFilter_built : readFilter.Built w :=
  .bind (Parse.built_bits _) fun _ => .bind (Parse.built_bits _) fun _ => .ite
    (Parse.built_times (Parse.built_signed _) _)
    (readRiceTable_built _ (Parse.built_signed _) _ _ (by decide) _)

theorem readPtableEntry_built : readPtableEntry.Built w := .bind (Parse.built_bits 7) fun _ => .pure _

theorem readPtable_built : readPtable.Built w :=
  .bind (Parse.built_bits _) fun _ => .ite (.pure _) <| .bind (Parse.built_bits _) fun _ => .ite
    (Parse.built_times readPtableEntry_built _) (readRiceTable_built _ readPtableEntry_built _ _ (by decide) _)

theorem readPtableSegmentation_built (same ch fb : Nat) (fseg : Segmentation) :
    (readPtableSegmentation same ch fb fseg).Built w := .ite (.pure _) (readSegmentation_built _ _ _)

theorem readPtableMapping_built (same ch : Nat) (fseg pseg : Segmentation) (fmap : List (List Nat) × Nat) :
    (readPtableMapping same ch fseg pseg fmap).Built w :=
  .ite (.bind (Parse.built_check _ _) fun _ => .pure _) (readMapping_built _ _)

end parts

/-- The header as a whole writes the tables it reads (42_dst_header.md R250). -/
theorem readHeader_built (ch fb : Nat) : (readHeader ch fb).Built true :=
  .bind (Parse.built_bits 1) fun _ => .bind (readSegmentation_built _ _ _) fun _ => .bind (.setFd _ rfl) fun _ =>
    .bind (readPtableSegmentation_built _ _ _ _) fun _ => .bind (.setFd _ rfl) fun _ => .bind (Parse.built_bits 1)
      fun _ => .bind (readMapping_built _ _) fun _ => .bind (.setFd _ rfl) fun _ =>
        .bind (readPtableMapping_built _ _ _ _ _) fun _ => .bind (.setFd _ rfl) fun _ =>
          .bind (Parse.built_times (Parse.built_bits 1) _) fun _ => .bind (.setFd _ rfl) fun _ =>
            .bind (Parse.built_times readFilter_built _) fun _ => .bind (.setFd _ rfl) fun _ =>
              .bind (Parse.built_times readPtable_built _) fun _ => .setFd _ rfl

end Sys2Proof.Machine
end

section
/-! PROOFS (O32, O34). The residual part of a frame as one sequence of samples (43_dst_residual.md R310): sample `k` is
bit `k / C` of channel `k % C`, decoded from what the samples before it have left. The loops over octets, bits and
channels run along that sequence, and the bytes they put out are its bits, eight of a channel to a byte. -/

-- One thread: the check limits the memory of a compile, and each thread reserves its own.
set_option Elab.async false

open Sys2Proof.Claims

namespace Sys2Proof.Machine

/-! ## Numbers and bytes of bits -/

/-- The number that the `n` bits of `f` from bit `i` on stand for, the first most significant (20_memory.md R101). -/
def bitSum (f : Nat → Bool) (n i : Nat) : Nat := ((List.range n).map fun b => (f (i + b)).toNat * 2 ^ (n - 1 - b)).sum

theorem bitSum_succ (f : Nat → Bool) (n i : Nat) : bitSum f (n + 1) i = (f i).toNat * 2 ^ n + bitSum f n (i + 1) := by
  unfold bitSum
  rw [List.range_succ_eq_map, List.map_cons, List.sum_cons, List.map_map]
  congr 2
  refine List.map_congr_left fun b _ => ?_
  rw [Function.comp_apply, show i + b.succ = i + 1 + b by omega, show n + 1 - 1 - b.succ = n - 1 - b by omega]

/-- The bytes of `n` octets of `ch` channels from bit `bn` on, interleaved: `f c` are the bits of channel `c`
(20_memory.md R103). -/
def frameBytes (f : Nat → Nat → Bool) (ch : Nat) : Nat → Nat → List Byte
  | 0, _ => []
  | n + 1, bn => ((List.range ch).map fun c => BitVec.ofNat 8 (bitSum (f c) 8 bn)) ++ frameBytes f ch n (bn + 8)

theorem length_frameBytes (f : Nat → Nat → Bool) (ch : Nat) : ∀ n bn, (frameBytes f ch n bn).length = ch * n
  | 0, _ => rfl
  | n + 1, bn => by
    rw [frameBytes, List.length_append, List.length_map, List.length_range, length_frameBytes f ch n, Nat.mul_succ,
      Nat.add_comm]

theorem getElem?_frameBytes (f : Nat → Nat → Bool) {ch c : Nat} (hc : c < ch) : ∀ (n bn j : Nat), j < n →
    (frameBytes f ch n bn)[j * ch + c]? = some (BitVec.ofNat 8 (bitSum (f c) 8 (bn + 8 * j)))
  | 0, _, j, hj => absurd hj (Nat.not_lt_zero j)
  | n + 1, bn, 0, _ => by
    rw [frameBytes, List.getElem?_append_left (by simpa using hc)]
    simp [hc]
  | n + 1, bn, j + 1, hj => by
    have hindex : (j + 1) * ch + c = ch + (j * ch + c) := by ring
    have hbit : bn + 8 * (j + 1) = bn + 8 + 8 * j := by ring
    rw [frameBytes, List.getElem?_append_right (by simp [hindex]), List.length_map, List.length_range, hindex, hbit,
      Nat.add_sub_cancel_left, getElem?_frameBytes f hc n (bn + 8) j (by omega)]

/-! ## The sequence of samples -/

/-- How far the residual part of a frame has come: the arithmetic decoder and the history of each channel. -/
structure Progress where
  ac : ArithDec
  hists : List (List Bool)

/-- Sample `k`: the bit, and what it leaves. -/
def Progress.sample (fd : FrameDec) (buf : List Byte) (ch k : Nat) (x : Progress) : Bool × Progress :=
  let r := decodeSample fd buf (k / ch) (k % ch) x.ac (x.hists.getD (k % ch) [])
  (r.1, { ac := r.2.1, hists := x.hists.set (k % ch) r.2.2 })

/-- What `k` samples leave. -/
def Progress.after (fd : FrameDec) (buf : List Byte) (ch : Nat) (x : Progress) : Nat → Progress
  | 0 => x
  | k + 1 => ((Progress.after fd buf ch x k).sample fd buf ch k).2

/-- Bit `bn` of channel `c`. -/
def Progress.bit (fd : FrameDec) (buf : List Byte) (ch : Nat) (x : Progress) (c bn : Nat) : Bool :=
  ((x.after fd buf ch (bn * ch + c)).sample fd buf ch (bn * ch + c)).1

section sequence
variable (fd : FrameDec) (buf : List Byte) {ch : Nat} (x : Progress)

theorem Progress.length_hists : ∀ k, (x.after fd buf ch k).hists.length = x.hists.length
  | 0 => rfl
  | k + 1 => List.length_set.trans (Progress.length_hists k)

/-- The sample of bit `bn` of channel `c`. -/
theorem Progress.sample_at {c : Nat} (hc : c < ch) (bn : Nat) (y : Progress) :
    y.sample fd buf ch (bn * ch + c) =
      ((decodeSample fd buf bn c y.ac (y.hists.getD c [])).1,
        { ac := (decodeSample fd buf bn c y.ac (y.hists.getD c [])).2.1
          hists := y.hists.set c (decodeSample fd buf bn c y.ac (y.hists.getD c [])).2.2 }) := by
  have hdiv : (bn * ch + c) / ch = bn := by
    rw [Nat.mul_comm, Nat.mul_add_div (by omega), Nat.div_eq_of_lt hc, Nat.add_zero]
  have hmod : (bn * ch + c) % ch = c := by rw [Nat.mul_comm, Nat.mul_add_mod, Nat.mod_eq_of_lt hc]
  simp only [Progress.sample, hdiv, hmod]

/-- The first channel of a row and the others. -/
theorem decodeRow_cons (bn c : Nat) (ac : ArithDec) (h : List Bool) (hs : List (List Bool)) (o : Nat) (os : List Nat) :
    decodeRow fd buf bn c ac (h :: hs) (o :: os) =
      ((decodeRow fd buf bn (c + 1) (decodeSample fd buf bn c ac h).2.1 hs os).1,
        (decodeSample fd buf bn c ac h).2.2 :: (decodeRow fd buf bn (c + 1) (decodeSample fd buf bn c ac h).2.1 hs os).2.1,
        (2 * o + (decodeSample fd buf bn c ac h).1.toNat) ::
          (decodeRow fd buf bn (c + 1) (decodeSample fd buf bn c ac h).2.1 hs os).2.2) := rfl

/-- A row of channels, from channel `c` on: the channels before it are done, those from it on are still to come. -/
theorem decodeRow_eq (bn : Nat) (g : Nat → Nat) : ∀ (todo past : List (List Bool)) (ac : ArithDec),
    past.length + todo.length = ch → x.after fd buf ch (bn * ch + past.length) = ⟨ac, past ++ todo⟩ →
    ∃ hists, (x.after fd buf ch ((bn + 1) * ch)).hists = past ++ hists ∧
      decodeRow fd buf bn past.length ac todo ((List.range' past.length todo.length).map g) =
        ((x.after fd buf ch ((bn + 1) * ch)).ac, hists,
          (List.range' past.length todo.length).map fun c => 2 * g c + (x.bit fd buf ch c bn).toNat)
  | [], past, ac, hch, hx => by
    have hend : (bn + 1) * ch = bn * ch + past.length := by
      rw [Nat.succ_mul, ← hch]
      rfl
    rw [hend, hx]
    exact ⟨[], rfl, rfl⟩
  | h :: todo, past, ac, hch, hx => by
    have hc : past.length < ch := by rw [← hch, List.length_cons]; omega
    have hhist : (past ++ h :: todo).getD past.length [] = h := by simp
    have hsample := Progress.sample_at fd buf hc bn ⟨ac, past ++ h :: todo⟩
    simp only [hhist, List.set_append_right _ _ (Nat.le_refl past.length), Nat.sub_self, List.set_cons_zero] at hsample
    have hbit : x.bit fd buf ch past.length bn = (decodeSample fd buf bn past.length ac h).1 := by
      rw [Progress.bit, hx, hsample]
    have hnext : x.after fd buf ch (bn * ch + (past ++ [(decodeSample fd buf bn past.length ac h).2.2]).length) =
        ⟨(decodeSample fd buf bn past.length ac h).2.1, past ++ [(decodeSample fd buf bn past.length ac h).2.2] ++ todo⟩ := by
      rw [List.length_append, List.length_singleton, ← Nat.add_assoc, Progress.after, hx, hsample, List.append_assoc]
      rfl
    obtain ⟨hists, hdone, hrow⟩ := decodeRow_eq bn g todo _ _ 
      (by rw [List.length_append, List.length_singleton, Nat.add_assoc, Nat.add_comm 1]; exact hch) hnext
    refine ⟨(decodeSample fd buf bn past.length ac h).2.2 :: hists, by simpa using hdone, ?_⟩
    rw [List.length_append, List.length_singleton] at hrow
    rw [List.length_cons, List.range'_succ, List.map_cons, List.map_cons, hbit, decodeRow_cons, hrow]

theorem decodeRows_eq (hch : x.hists.length = ch) : ∀ (n bn : Nat) (g : Nat → Nat),
    decodeRows fd buf n bn (x.after fd buf ch (bn * ch)).ac (x.after fd buf ch (bn * ch)).hists
        ((List.range ch).map g) =
      ((x.after fd buf ch ((bn + n) * ch)).ac, (x.after fd buf ch ((bn + n) * ch)).hists,
        (List.range ch).map fun c => g c * 2 ^ n + bitSum (x.bit fd buf ch c) n bn)
  | 0, bn, g => by simp [decodeRows, bitSum]
  | n + 1, bn, g => by
    have hlen : (x.after fd buf ch (bn * ch)).hists.length = ch := (x.length_hists fd buf _).trans hch
    obtain ⟨hists, hdone, hrow⟩ := decodeRow_eq fd buf x bn g (x.after fd buf ch (bn * ch)).hists []
      (x.after fd buf ch (bn * ch)).ac (by simpa using hlen) rfl
    rw [List.nil_append] at hdone
    rw [List.length_nil, hlen, ← List.range_eq_range', ← hdone] at hrow
    rw [decodeRows, hrow]
    dsimp only
    rw [decodeRows_eq hch n (bn + 1)]
    have hvalue : ∀ c, (2 * g c + (x.bit fd buf ch c bn).toNat) * 2 ^ n + bitSum (x.bit fd buf ch c) n (bn + 1) =
        g c * 2 ^ (n + 1) + bitSum (x.bit fd buf ch c) (n + 1) bn := fun c => by rw [bitSum_succ]; ring
    simp only [hvalue, Nat.add_assoc, Nat.add_comm 1 n]

/-- The octets of a frame run along the sequence and put out the bytes of its bits (43_dst_residual.md R310). -/
theorem decodeOctets_eq (hch : x.hists.length = ch) : ∀ (n bn : Nat) (out : List Byte),
    decodeOctets fd buf n bn (x.after fd buf ch (bn * ch)).ac (x.after fd buf ch (bn * ch)).hists out =
      ((x.after fd buf ch ((bn + 8 * n) * ch)).ac, (x.after fd buf ch ((bn + 8 * n) * ch)).hists,
        (frameBytes (x.bit fd buf ch) ch n bn).reverse ++ out)
  | 0, _, _ => rfl
  | n + 1, bn, out => by
    have hzero : (x.after fd buf ch (bn * ch)).hists.map (fun _ => 0) = (List.range ch).map fun _ => 0 := by
      simp [List.map_const', x.length_hists fd buf, hch]
    have hbits : bn + 8 * (n + 1) = bn + 8 + 8 * n := by ring
    rw [decodeOctets, hzero, decodeRows_eq fd buf x hch]
    dsimp only
    rw [decodeOctets_eq hch n (bn + 8), hbits, frameBytes, List.reverse_append, List.append_assoc, List.map_map]
    simp only [Function.comp_def, Nat.zero_mul, Nat.zero_add]

end sequence

end Sys2Proof.Machine
end

section
/-! PROOFS (O34). A frame decode is a function of the bytes of the frame (43_dst_residual.md R300): the parts of the
header depend on nothing else, the arithmetic decoder starts afresh behind it, and the residual part is one sequence of
samples that reads the code bits and the tables only. -/

-- One thread: the check limits the memory of a compile, and each thread reserves its own.
set_option Elab.async false

open Sys2Proof.Claims

namespace Sys2Proof.Machine

/-! ## The residual part, run -/

/-- The part of a coded frame behind its header (43_dst_residual.md R302 to R312). -/
def residual (ch fb : Nat) : Parse Unit := do
  startCode
  initHistory ch
  decodeXBit
  decodeAndReconstruct fb
  terminate ch fb

theorem codedFrame_eq (ch fb : Nat) : codedFrame ch fb = readHeader ch fb >>= fun _ => residual ch fb := rfl

section run
variable (sl : Slot) (ch fb : Nat)

/-- The tables of the header and the start histories (43_dst_residual.md R304). -/
def Slot.tables : FrameDec := { sl.fd with hist := List.replicate ch startHistory }

theorem Slot.tables_coef : (sl.tables ch).coef = sl.fd.coef := rfl

theorem Slot.acStart_br : sl.acStart.br = sl.br := rfl

theorem Slot.acStart_acBase : sl.acStart.ac.acBase = sl.br.pos := rfl

theorem Slot.acStart_acLen : sl.acStart.ac.acLen = sl.br.remaining := rfl

/-- Where the samples start: one bit has been decoded and thrown away (43_dst_residual.md R305). -/
def Slot.firstSample : Progress where
  ac := (sl.acStart.ac.decodeBit sl.br.inbuf (rev7p1 ((sl.fd.coef.getD 0 []).getD 0 0))).2
  hists := List.replicate ch startHistory

/-- What the samples of the frame leave. -/
def Slot.lastSample : Progress := (sl.firstSample ch).after (sl.tables ch) sl.br.inbuf ch (8 * fb * ch)

/-- The bytes that the samples put out. -/
def Slot.reconstruction : List Byte :=
  frameBytes ((sl.firstSample ch).bit (sl.tables ch) sl.br.inbuf ch) ch fb 0

/-- The slot at the end of the code (43_dst_residual.md R312). -/
def Slot.terminated : Slot :=
  { sl with
    ac := ((sl.lastSample ch fb).ac.flush sl.br.inbuf).2
    fd := (sl.tables ch).afterLoop fb (sl.lastSample ch fb).hists (8 * (ch * fb))
    outbuf := overwrite sl.outbuf (sl.reconstruction ch fb) }

theorem Slot.length_reconstruction : (sl.reconstruction ch fb).length = ch * fb := length_frameBytes _ _ _ _

/-- The output at the end of the code (43_dst_residual.md R310). -/
theorem Slot.output_terminated : bufBytes (sl.terminated ch fb).outbuf 0 (ch * fb) = sl.reconstruction ch fb := by
  rw [← sl.length_reconstruction ch fb]
  exact bufBytes_overwrite _ _

theorem startCode_refused {sl : Slot} (h : codeBit sl.br.inbuf sl.acStart.ac 0 = true) :
    startCode sl = .error .acFirstBit sl.acStart :=
  Parse.check_of_false (show (!codeBit sl.br.inbuf sl.acStart.ac 0) = false by rw [h]; rfl) _ sl.acStart

theorem startCode_runs {sl : Slot} (h : codeBit sl.br.inbuf sl.acStart.ac 0 = false) :
    startCode sl = .ok () sl.acStart :=
  Parse.check_of_true (show (!codeBit sl.br.inbuf sl.acStart.ac 0) = true by rw [h]; rfl) _ sl.acStart

theorem residual_refused {sl : Slot} (h : codeBit sl.br.inbuf sl.acStart.ac 0 = true) :
    residual ch fb sl = .error .acFirstBit sl.acStart := Parse.bind_of_error (startCode_refused h)

/-- The end of the code: the flush decides, for the bit budget is always met (43_dst_residual.md R312). -/
theorem terminate_eq {sl : Slot} (hcount : sl.fd.nbitsDecoded = ch * (8 * fb)) :
    terminate ch fb sl = if (sl.ac.flush sl.br.inbuf).1 = true
      then .ok () { sl with ac := (sl.ac.flush sl.br.inbuf).2 }
      else .error .acTermination { sl with ac := (sl.ac.flush sl.br.inbuf).2 } := by
  have hrun : terminate ch fb sl = (Parse.check (sl.ac.flush sl.br.inbuf).1 .acTermination >>= fun _ =>
      Parse.check (sl.fd.nbitsDecoded = ch * (8 * fb)) .bitBudget : Parse Unit)
        { sl with ac := (sl.ac.flush sl.br.inbuf).2 } := rfl
  rw [hrun]
  split
  · next hok =>
    rw [Parse.bind_of_ok (Parse.check_of_true hok _ _)]
    exact Parse.check_of_true (decide_eq_true hcount) _ _
  · next hbad => exact Parse.bind_of_error (Parse.check_of_false (Bool.eq_false_of_not_eq_true hbad) _ _)

theorem decodeAndReconstruct_eq {sl : Slot} {fd : FrameDec} {ac ac' : ArithDec} {hists : List (List Bool)}
    {out : List Byte} (h : decodeOctets fd sl.br.inbuf fb 0 ac fd.hist [] = (ac', hists, out)) :
    decodeAndReconstruct fb { sl with ac := ac, fd := fd } = .ok () { sl with
      ac := ac', fd := fd.afterLoop fb hists (8 * out.length), outbuf := overwrite sl.outbuf out.reverse } := by
  rw [decodeAndReconstruct, h]

theorem decodeXBit_eq (sl : Slot) : decodeXBit sl = .ok () { sl with
    ac := (sl.ac.decodeBit sl.br.inbuf (rev7p1 ((sl.fd.coef.getD 0 []).getD 0 0))).2 } := rfl

/-- The start of the code, the start histories and the bit thrown away (43_dst_residual.md R302 to R305). -/
theorem residual_start {sl : Slot} (h : codeBit sl.br.inbuf sl.acStart.ac 0 = false) :
    residual ch fb sl = (decodeAndReconstruct fb >>= fun _ => terminate ch fb : Parse Unit)
      { sl with ac := (sl.firstSample ch).ac, fd := sl.tables ch } := by
  have hhistory : initHistory ch sl.acStart = .ok () { sl.acStart with fd := sl.tables ch } := rfl
  have hxbit : decodeXBit { sl.acStart with fd := sl.tables ch } =
      .ok () { sl with ac := (sl.firstSample ch).ac, fd := sl.tables ch } := by
    rw [decodeXBit_eq, Slot.firstSample]
    simp only [Slot.tables_coef, Slot.acStart_br]
    rfl
  rw [residual, Parse.bind_of_ok (startCode_runs h), Parse.bind_of_ok hhistory, Parse.bind_of_ok hxbit]

theorem residual_runs {sl : Slot} (h : codeBit sl.br.inbuf sl.acStart.ac 0 = false) :
    residual ch fb sl = if ((sl.lastSample ch fb).ac.flush sl.br.inbuf).1 = true
      then .ok () (sl.terminated ch fb) else .error .acTermination (sl.terminated ch fb) := by
  have hoctets := decodeOctets_eq (sl.tables ch) sl.br.inbuf (sl.firstSample ch) (ch := ch) List.length_replicate fb 0 []
  rw [Nat.zero_mul, Nat.zero_add, List.append_nil] at hoctets
  have hsamples := decodeAndReconstruct_eq fb (sl := sl) (fd := sl.tables ch) hoctets
  rw [List.length_reverse, List.reverse_reverse, length_frameBytes] at hsamples
  exact (residual_start ch fb h).trans ((Parse.bind_of_ok hsamples).trans
    (terminate_eq ch fb (Nat.mul_left_comm 8 ch fb)))

end run

/-! ## The code bits of two slots with the same frame -/

/-- The decoder reads the same code from two buffers. -/
def ArithDec.SameCode (ac : ArithDec) (buf buf' : List Byte) : Prop := ∀ i, codeBit buf ac i = codeBit buf' ac i

section code
variable {buf buf' : List Byte}

/-- Which bits are the code is a matter of its place. -/
theorem ArithDec.SameCode.of_place {ac ac' : ArithDec} (h : ac.SameCode buf buf') (hbase : ac'.acBase = ac.acBase)
    (hlen : ac'.acLen = ac.acLen) : ac'.SameCode buf buf' := by
  intro i
  have hbit := h i
  unfold codeBit at hbit ⊢
  rw [hbase, hlen]
  exact hbit

theorem ArithDec.ready_fresh {ac : ArithDec} (h : ac.acInit = true) (buf : List Byte) : ac.ready buf =
    { ac with acInit := false, a := 4095, c := loadCode buf ac 12 1 0, cbptr := 13 } := by
  obtain ⟨hinit, _⟩ | ⟨_, hready⟩ := ac.ready_cases buf
  · rw [h] at hinit
    cases hinit
  · exact hready

theorem loadCode_congr {ac ac' : ArithDec} (h : ∀ i, codeBit buf ac i = codeBit buf' ac' i) :
    ∀ (n i : Nat) (c : Word), loadCode buf ac n i c = loadCode buf' ac' n i c
  | 0, _, _ => rfl
  | n + 1, i, c => by rw [loadCode, loadCode, h i, loadCode_congr h n (i + 1)]

theorem renormalise_congr : ∀ (n : Nat) {ac : ArithDec}, ac.SameCode buf buf' →
    renormalise buf n ac = renormalise buf' n ac
  | 0, _, _ => rfl
  | n + 1, ac, h => by
    rw [renormalise, renormalise, h ac.cbptr]
    split
    · exact renormalise_congr n (h.of_place rfl rfl)
    · rfl

theorem ArithDec.SameCode.decodeBit {ac ac' : ArithDec} (h : (ac.ready buf).SameCode buf buf')
    (hready : ac.ready buf = ac'.ready buf') (p : Nat) : ac.decodeBit buf p = ac'.decodeBit buf' p := by
  unfold ArithDec.decodeBit
  dsimp only
  rw [← hready]
  split
  · exact congrArg (Prod.mk false) (renormalise_congr 11 (h.of_place rfl rfl))
  · exact congrArg (Prod.mk true) (renormalise_congr 11 (h.of_place rfl rfl))

theorem flushScan_congr : ∀ (n : Nat) {ac : ArithDec}, ac.SameCode buf buf' → flushScan buf n ac = flushScan buf' n ac
  | 0, _, _ => rfl
  | n + 1, ac, h => by
    rw [flushScan, flushScan, h ac.cbptr]
    split
    · dsimp only
      split
      · rfl
      · exact flushScan_congr n (h.of_place rfl rfl)
    · rfl

theorem ArithDec.SameCode.flush {ac : ArithDec} (h : ac.SameCode buf buf') : ac.flush buf = ac.flush buf' := by
  unfold ArithDec.flush
  split
  · rfl
  · exact flushScan_congr 7 (h.of_place rfl rfl)

/-- A sample reads the code and leaves its place. -/
theorem ArithDec.SameCode.decodeSample {ac : ArithDec} (h : ac.SameCode buf buf') (hrun : ac.acInit = false)
    (fd : FrameDec) (bn c : Nat) (hist : List Bool) :
    decodeSample fd buf bn c ac hist = decodeSample fd buf' bn c ac hist := by
  have hready : ∀ buf, ac.ready buf = ac := fun buf => by
    obtain ⟨_, hr⟩ | ⟨hinit, _⟩ := ac.ready_cases buf
    · exact hr
    · rw [hrun] at hinit
      cases hinit
  have hdecode := ArithDec.SameCode.decodeBit (ac := ac) (ac' := ac) (by rw [hready]; exact h)
    ((hready buf).trans (hready buf').symm)
  unfold Machine.decodeSample
  dsimp only
  rw [hdecode]

/-- The sequence of samples depends on the code and the tables only. -/
theorem Progress.after_congr (fd : FrameDec) (ch : Nat) {x : Progress} (h : x.ac.SameCode buf buf')
    (hrun : x.ac.acInit = false) : ∀ k, x.after fd buf ch k = x.after fd buf' ch k ∧
      (x.after fd buf ch k).ac.SameCode buf buf' ∧ (x.after fd buf ch k).ac.acInit = false
  | 0 => ⟨rfl, h, hrun⟩
  | k + 1 => by
    obtain ⟨hsame, hcode, hinit⟩ := Progress.after_congr fd ch h hrun k
    obtain ⟨hbase, hlen, hinit'⟩ := ArithDec.decodeBit_frame (x.after fd buf ch k).ac buf (sampleProbability fd (k % ch) (k / ch) _ _)
    have hsample := hcode.decodeSample hinit fd (k / ch) (k % ch) ((x.after fd buf ch k).hists.getD (k % ch) [])
    refine ⟨?_, hcode.of_place hbase hlen, hinit'⟩
    rw [Progress.after, Progress.after, ← hsame, Progress.sample, Progress.sample, hsample]

end code


/-! ## The residual part of two slots with the same frame -/

/-- Two slots with the same frame and the same output (43_dst_residual.md R300). -/
structure Slot.SameOutput (n : Nat) (sl sl' : Slot) : Prop where
  alike : sl.Alike sl'
  output : bufBytes sl.outbuf 0 n = bufBytes sl'.outbuf 0 n

section alike
variable {sl sl' : Slot} (h : sl.Alike sl')
include h

/-- The code lies within the frame (43_dst_residual.md R302). -/
theorem Slot.Alike.codeBit (i : Nat) :
    codeBit sl.br.inbuf sl.acStart.ac i = codeBit sl'.br.inbuf sl'.acStart.ac i := by
  have hrem : sl.br.remaining = sl.br.totalBits - sl.br.pos := rfl
  have hbit : i < sl.br.remaining → streamBit sl.br.inbuf (sl.br.pos + i) = streamBit sl'.br.inbuf (sl.br.pos + i) :=
    fun hi => h.br.streamBit (by omega)
  rw [Machine.codeBit, Machine.codeBit, sl.acStart_acBase, sl.acStart_acLen, sl'.acStart_acBase, sl'.acStart_acLen,
    ← h.br.remaining, ← h.br.pos]
  split
  · next hi => exact hbit hi
  · rfl

/-- A decoder that starts afresh behind the header is the same in both. -/
theorem Slot.Alike.ready : sl.acStart.ac.ready sl.br.inbuf = sl'.acStart.ac.ready sl'.br.inbuf := by
  rw [ArithDec.ready_fresh rfl, ArithDec.ready_fresh rfl, loadCode_congr h.codeBit]
  simp only [Slot.acStart, h.br.pos, h.br.remaining]

theorem Slot.Alike.sameCode : sl.acStart.ac.SameCode sl.br.inbuf sl'.br.inbuf := fun i => by
  rw [h.codeBit i, Machine.codeBit, Machine.codeBit, sl.acStart_acBase, sl.acStart_acLen, sl'.acStart_acBase,
    sl'.acStart_acLen, h.br.remaining, h.br.pos]

theorem Slot.Alike.tables (ch : Nat) : sl.tables ch = sl'.tables ch := by rw [Slot.tables, Slot.tables, h.fd]

theorem Slot.Alike.firstSample (ch : Nat) : sl.firstSample ch = sl'.firstSample ch ∧
    (sl.firstSample ch).ac.SameCode sl.br.inbuf sl'.br.inbuf ∧ (sl.firstSample ch).ac.acInit = false := by
  obtain ⟨hbase, hlen, hinit⟩ := sl.acStart.ac.decodeBit_frame sl.br.inbuf (rev7p1 ((sl.fd.coef.getD 0 []).getD 0 0))
  have hdecode := ArithDec.SameCode.decodeBit (h.sameCode.of_place (ArithDec.ready_acBase _ _) (ArithDec.ready_acLen _ _))
    h.ready (rev7p1 ((sl.fd.coef.getD 0 []).getD 0 0))
  rw [Slot.firstSample, Slot.firstSample, ← h.fd, ← hdecode]
  refine ⟨rfl, ?_, ?_⟩ <;> dsimp only
  · exact h.sameCode.of_place hbase hlen
  · exact hinit

/-- The residual part of two slots with the same frame and tables. -/
theorem residual_alike (ch fb : Nat) : AlikeEnds (Slot.SameOutput (ch * fb)) (residual ch fb sl) (residual ch fb sl') := by
  cases hbit : Machine.codeBit sl.br.inbuf sl.acStart.ac 0 with
  | true =>
    rw [residual_refused ch fb hbit, residual_refused ch fb (h.codeBit 0 ▸ hbit)]
    exact .error _ ⟨h.br, h.fd⟩
  | false =>
    obtain ⟨hfirst, hcode, hinit⟩ := h.firstSample ch
    have hafter := Progress.after_congr (sl.tables ch) ch hcode hinit
    have hlast : sl.lastSample ch fb = sl'.lastSample ch fb := by
      rw [Slot.lastSample, Slot.lastSample, (hafter _).1, hfirst, h.tables]
    have hflush : (sl.lastSample ch fb).ac.flush sl.br.inbuf = (sl'.lastSample ch fb).ac.flush sl'.br.inbuf := by
      rw [← hlast]
      exact ArithDec.SameCode.flush (hafter _).2.1
    have hbits : (sl.firstSample ch).bit (sl.tables ch) sl.br.inbuf ch =
        (sl'.firstSample ch).bit (sl'.tables ch) sl'.br.inbuf ch := by
      funext c bn
      obtain ⟨hsame, hcode, hinit⟩ := hafter (bn * ch + c)
      rw [← hfirst, ← h.tables, Progress.bit, Progress.bit, Progress.sample, Progress.sample, ← hsame,
        hcode.decodeSample hinit]
    have hbytes : sl.reconstruction ch fb = sl'.reconstruction ch fb := by
      rw [Slot.reconstruction, Slot.reconstruction, hbits]
    have hend : (sl.terminated ch fb).SameOutput (ch * fb) (sl'.terminated ch fb) := by
      refine ⟨⟨h.br, ?_⟩, ?_⟩
      · rw [Slot.terminated, Slot.terminated, h.tables, hlast]
      · rw [sl.output_terminated, sl'.output_terminated, hbytes]
    rw [residual_runs ch fb hbit, residual_runs ch fb (h.codeBit 0 ▸ hbit), hflush]
    split
    · exact .ok () hend
    · exact .error _ hend.alike

end alike

/-! ## The whole frame -/

/-- A run of aligned bytes that is read has the length asked for. -/
theorem BitReader.readBytesAligned_length {b b' : BitReader} {n : Nat} {bytes : List Byte}
    (h : b.readBytesAligned n = (some bytes, b')) : bytes.length = n := by
  unfold BitReader.readBytesAligned at h
  split at h
  · next hn => cases h; exact hn.symm
  split at h
  · cases h
  split at h
  · cases h; exact length_bufBytes _ _ _
  split at h <;> cases h

section frame
variable {sl sl' : Slot} (h : sl.Alike sl') (ch fb : Nat)
include h

/-- The bytes of a plain frame are those of the frame (43_dst_residual.md R301). -/
theorem plainBytes_alike : AlikeEnds (Slot.SameOutput (ch * fb)) (plainBytes ch fb sl) (plainBytes ch fb sl') := by
  obtain ⟨bytes, b, b', hr, hr', hb⟩ | ⟨b, b', hr, hr', hb⟩ := (FrameRead.readBytesAligned (ch * fb)).ends h.br
  · have hlen : bytes.length = ch * fb := BitReader.readBytesAligned_length hr
    have hrun : plainBytes ch fb sl = .ok () _ := Parse.bind_of_ok (Parse.read_of_some hr)
    have hrun' : plainBytes ch fb sl' = .ok () _ := Parse.bind_of_ok (Parse.read_of_some hr')
    rw [hrun, hrun']
    refine .ok () ⟨⟨hb, ?_⟩, ?_⟩
    · simp only [Slot.withPlain, h.fd]
    · rw [← hlen]
      exact (bufBytes_overwrite _ _).trans (bufBytes_overwrite _ _).symm
  · have hrun : plainBytes ch fb sl = _ := Parse.bind_of_error (Parse.read_of_none hr)
    have hrun' : plainBytes ch fb sl' = _ := Parse.bind_of_error (Parse.read_of_none hr')
    rw [hrun, hrun']
    exact .error _ ⟨hb, h.fd⟩

theorem plainFrame_alike : AlikeEnds (Slot.SameOutput (ch * fb)) (plainFrame ch fb sl) (plainFrame ch fb sl') := by
  rw [plainFrame_eq]
  exact ((Parse.built_bits (w := true) 1).alike h).bind fun _ _ _ h => ((Parse.built_bits (w := true) 6).alike h).bind
    fun _ _ _ h => ((Parse.built_check (w := true) _ _).alike h).bind fun _ _ _ h => plainBytes_alike h ch fb

theorem codedFrame_alike : AlikeEnds (Slot.SameOutput (ch * fb)) (codedFrame ch fb sl) (codedFrame ch fb sl') := by
  rw [codedFrame_eq]
  exact ((readHeader_built ch fb).alike h).bind fun _ _ _ h => residual_alike h ch fb

theorem frameBody_alike : AlikeEnds (Slot.SameOutput (ch * fb)) (frameBody ch fb sl) (frameBody ch fb sl') := by
  refine ((Parse.built_bits (w := true) 1).alike h).bind fun coded t t' ht => ?_
  split
  · exact plainFrame_alike ht ch fb
  · exact codedFrame_alike ht ch fb

end frame

/-- A frame decode starts from the frame alone (43_dst_residual.md R300). -/
theorem Slot.startFrame_alike {sl sl' : Slot} (hbits : sl.br.totalBits = sl'.br.totalBits)
    (hbytes : ∀ j, 8 * j < sl.br.totalBits → bufByte sl.br.inbuf j = bufByte sl'.br.inbuf j) (ch fb : Nat) :
    (sl.startFrame ch fb).Alike (sl'.startFrame ch fb) :=
  ⟨⟨hbits, rfl, rfl, Nat.zero_le _, hbytes⟩, rfl⟩

/-- A decode that gets to its end keeps the status OK it starts with. -/
theorem Slot.frameDecode_status {sl t : Slot} {ch fb : Nat} (h : frameBody ch fb (sl.startFrame ch fb) = .ok () t) :
    t.slotStatus = .ok := by
  have hkeeps := frameBody_keeps ch fb (sl.startFrame ch fb)
  rw [h] at hkeeps
  exact hkeeps.slotStatus

/-- Settles O34: the two decodes end alike, and the result is written alike. -/
theorem decodeDependsOnlyOnTheFrame : Obligations.DecodeDependsOnlyOnTheFrame := by
  unfold Obligations.DecodeDependsOnlyOnTheFrame
  rintro sl sl' d d' ch fb hbits hbytes rfl rfl
  have hends := frameBody_alike (Slot.startFrame_alike hbits hbytes ch fb) ch fb
  generalize hr : frameBody ch fb (sl.startFrame ch fb) = r, hr' : frameBody ch fb (sl'.startFrame ch fb) = r' at hends
  cases hends with
  | ok a ht =>
    have hok := Slot.frameDecode_status hr
    have hok' := Slot.frameDecode_status hr'
    rw [Slot.frameDecode_of_ok hr, Slot.frameDecode_of_ok hr']
    refine ⟨hok.trans hok'.symm, ?_, ht.alike.br.pos, fun hbad => absurd hok hbad, fun _ => ⟨rfl, ht.output⟩⟩
    simp only [ht.alike.fd]
  | error e ht =>
    rw [Slot.frameDecode_of_error hr, Slot.frameDecode_of_error hr']
    refine ⟨rfl, ?_, ht.br.pos, fun _ => rfl, fun hok => by cases hok⟩
    simp only [ht.fd]

end Sys2Proof.Machine
end

section
/-! PROOFS (O32). What the header leaves for the residual part: filters of at most 128 coefficients, Ptables that are
not empty, and for each segment the number of a Ptable that was read (42_dst_header.md R256, R260, R265). -/

-- One thread: the check limits the memory of a compile, and each thread reserves its own.
set_option Elab.async false

open Sys2Proof.Claims

namespace Sys2Proof.Machine

/-- The tables that the residual part reads are there. -/
structure FrameDec.Sound (fd : FrameDec) : Prop where
  filters : ∀ f ∈ fd.coef, f.length ≤ 128
  ptables : ∀ table ∈ fd.pone, table ≠ []
  some : 0 < fd.pone.length
  numbers : ∀ row ∈ fd.ptab, ∀ v ∈ row, v < fd.pone.length

/-- The Ptable of any segment of any channel has an entry. -/
theorem FrameDec.Sound.ptable_ne_nil {fd : FrameDec} (h : fd.Sound) (c seg : Nat) :
    fd.pone.getD ((fd.ptab.getD c []).getD seg 0) [] ≠ [] := by
  have hrow : ∀ v ∈ fd.ptab.getD c [], v < fd.pone.length :=
    forall_getD (P := fun row => ∀ v ∈ row, v < fd.pone.length) h.numbers (fun _ hv => absurd hv List.not_mem_nil) c
  have hnumber := forall_getD (P := fun v => v < fd.pone.length) hrow h.some seg
  rw [List.getD_eq_getElem _ _ hnumber]
  exact h.ptables _ (List.getElem_mem hnumber)

/-- A filter of any segment has at most 128 coefficients. -/
theorem FrameDec.Sound.filter_length {fd : FrameDec} (h : fd.Sound) (i : Nat) : (fd.coef.getD i []).length ≤ 128 :=
  forall_getD (P := fun f : List Int => f.length ≤ 128) h.filters (Nat.zero_le _) i

/-! ## Table numbers (42_dst_header.md R256) -/

/-- Table numbers that `count` tables cover. -/
def Covered (row : List Nat) (count : Nat) : Prop := ∀ v ∈ row, v < count

theorem Covered.mono {row : List Nat} {m n : Nat} (h : Covered row m) (hmn : m ≤ n) : Covered row n :=
  fun v hv => (h v hv).trans_le hmn

/-- A mapping whose numbers are those of its tables, of which there is one at least. -/
def MapCovered (m : List (List Nat) × Nat) : Prop := 0 < m.2 ∧ ∀ row ∈ m.1, Covered row m.2

theorem readTableNumber_covered (count : Nat) : (readTableNumber count).Yields fun r => count ≤ r.2 ∧ r.1 < r.2 :=
  (Parse.yields_bits _).bind fun v _ => (Parse.yields_check _ _).bind fun _ hle => by
    rw [decide_eq_true_eq] at hle
    refine Parse.yields_pure ?_
    dsimp only
    split <;> omega

theorem readTableNumbers_covered : ∀ n count, (readTableNumbers n count).Yields fun r => count ≤ r.2 ∧ Covered r.1 r.2
  | 0, _ => Parse.yields_pure ⟨Nat.le_refl _, fun _ hv => absurd hv List.not_mem_nil⟩
  | n + 1, count => (readTableNumber_covered count).bind fun x hx => (readTableNumbers_covered n x.2).bind fun _ hy =>
    Parse.yields_pure ⟨hx.1.trans hy.1, List.forall_mem_cons.mpr ⟨hx.2.trans_le hy.1, hy.2⟩⟩

theorem readMapRows_covered (sg : Segmentation) : ∀ n ch count, 0 < count →
    (readMapRows sg n ch count).Yields fun m => count ≤ m.2 ∧ MapCovered m
  | 0, _, _, hcount => Parse.yields_pure ⟨Nat.le_refl _, hcount, fun _ hrow => absurd hrow List.not_mem_nil⟩
  | n + 1, ch, count, hcount => by
    have hrows : ∀ row : List Nat × Nat, count ≤ row.2 ∧ Covered row.1 row.2 →
        (readMapRows sg n (ch + 1) row.2 >>= fun rows => pure (row.1 :: rows.1, rows.2) :
          Parse (List (List Nat) × Nat)).Yields fun m => count ≤ m.2 ∧ MapCovered m :=
      fun row hrow => (readMapRows_covered sg n (ch + 1) row.2 (hcount.trans_le hrow.1)).bind fun rows hr =>
        Parse.yields_pure ⟨hrow.1.trans hr.1, hr.2.1, List.forall_mem_cons.mpr ⟨hrow.2.mono hr.1, hr.2.2⟩⟩
    have hfirst : ∀ x : List Nat × Nat, count ≤ x.2 ∧ Covered x.1 x.2 → count ≤ x.2 ∧ Covered (0 :: x.1) x.2 :=
      fun x hx => ⟨hx.1, List.forall_mem_cons.mpr ⟨hcount.trans_le hx.1, hx.2⟩⟩
    rw [readMapRows]
    split
    · exact (readTableNumbers_covered _ _).bind fun x hx =>
        (Parse.yields_pure (a := (0 :: x.1, x.2)) (hfirst x hx)).bind fun y hy => hrows y hy
    · exact (readTableNumbers_covered _ _).bind fun x hx => hrows x hx

theorem readMapping_covered (ch : Nat) (sg : Segmentation) : (readMapping ch sg).Yields MapCovered := by
  refine (Parse.yields_bits 1).bind fun same _ => ?_
  split
  · refine (readTableNumbers_covered _ _).bind fun x hx => (Parse.yields_check _ _).bind fun _ _ => ?_
    have hcovered : MapCovered (List.replicate ch (0 :: x.1), x.2) := by
      refine ⟨hx.1, fun row hrow => ?_⟩
      rw [List.eq_of_mem_replicate hrow]
      exact List.forall_mem_cons.mpr ⟨hx.1, hx.2⟩
    exact (Parse.yields_pure hcovered).bind fun m hm => (Parse.yields_check _ _).bind fun _ _ => Parse.yields_pure hm
  · exact (readMapRows_covered sg ch 0 1 Nat.one_pos).bind fun m hm => (Parse.yields_check _ _).bind fun _ _ =>
      Parse.yields_pure hm.2

theorem readPtableMapping_covered (same ch : Nat) (fseg pseg : Segmentation) {fmap : List (List Nat) × Nat}
    (h : MapCovered fmap) : (readPtableMapping same ch fseg pseg fmap).Yields MapCovered := by
  unfold readPtableMapping
  split
  · exact (Parse.yields_check _ _).bind fun _ _ => Parse.yields_pure h
  · exact readMapping_covered _ _

/-! ## The sizes of the tables (42_dst_header.md R260 to R267) -/

theorem Parse.yields_times_length {α : Type} {p : Parse α} {Q : α → Prop} (hp : p.Yields Q) :
    ∀ n, (Parse.times p n).Yields fun vs => vs.length = n ∧ ∀ v ∈ vs, Q v
  | 0 => Parse.yields_pure ⟨rfl, fun _ h => absurd h List.not_mem_nil⟩
  | n + 1 => hp.bind fun _ hv => (Parse.yields_times_length hp n).bind fun _ hvs =>
    Parse.yields_pure ⟨congrArg (· + 1) hvs.1, List.forall_mem_cons.mpr ⟨hv, hvs.2⟩⟩

theorem readRiceEntries_length (pred : List Int) (m : Nat) (lo hi : Int) (cause : Cause) : ∀ n newest,
    (readRiceEntries pred m lo hi cause n newest).Yields fun entries => entries.length = newest.length + n
  | 0, _ => Parse.yields_pure rfl
  | n + 1, newest => (Parse.yields_rice m).bind fun _ _ => (Parse.yields_check _ _).bind fun _ _ =>
    (readRiceEntries_length pred m lo hi cause n _).mono fun entries h => by
      rw [h, List.length_cons, Nat.add_assoc, Nat.add_comm 1]

theorem readRiceTable_length (preds : Nat → List Int) {first : Parse Int} (hfirst : first.Yields fun _ => True)
    (lo hi : Int) (cause : Cause) (len : Nat) :
    (readRiceTable preds first lo hi cause len).Yields fun entries => entries.length = len :=
  (Parse.yields_bits _).bind fun method _ => (Parse.yields_check _ _).bind fun _ _ =>
    (Parse.yields_check _ _).bind fun _ horder => (Parse.yields_times_length hfirst _).bind fun raw hraw =>
      (Parse.yields_bits _).bind fun _ _ =>
        (readRiceEntries_length _ _ _ _ _ _ _).bind fun entries hentries => Parse.yields_pure <| by
          rw [decide_eq_true_eq] at horder
          rw [List.length_reverse] at hentries ⊢
          omega

theorem readFilter_length : readFilter.Yields fun f => f.length ≤ 128 := by
  refine (Parse.yields_bits _).bind fun order horder => (Parse.yields_bits _).bind fun _ _ => ?_
  rw [Config.sizeCodedPredOrder_eq] at horder
  split
  · exact (Parse.yields_times_length (Parse.yields_signed _) _).mono fun f hf => by omega
  · exact (readRiceTable_length _ (Parse.yields_signed _) _ _ _ _).mono fun f hf => by omega

theorem readPtable_ne_nil : readPtable.Yields fun table => table ≠ [] := by
  have hentry : readPtableEntry.Yields fun _ => True := readPtableEntry_yields.mono fun _ _ => trivial
  refine (Parse.yields_bits _).bind fun len _ => ?_
  split
  · exact Parse.yields_pure (List.cons_ne_nil _ _)
  · refine (Parse.yields_bits _).bind fun _ _ => ?_
    split
    · exact (Parse.yields_times_length hentry _).mono fun table htable => List.ne_nil_of_length_eq_add_one htable.1
    · exact (readRiceTable_length _ hentry _ _ _ _).mono fun table htable => List.ne_nil_of_length_eq_add_one htable

/-! ## The header -/

/-- `p`, run to its end in a slot whose tables meet `P`, leaves tables that meet `Q`. -/
def Parse.Ensures (P : FrameDec → Prop) (p : Parse Unit) (Q : FrameDec → Prop) : Prop :=
  ∀ sl t, sl.Decodable → P sl.fd → p sl = .ok () t → Q t.fd

section ensures
variable {P P' Q : FrameDec → Prop}

/-- A part that reads gives its value to what follows and leaves the tables alone. -/
theorem Parse.Ensures.afterRead {α : Type} {V : α → Prop} {p : Parse α} {f : α → Parse Unit} (hbuilt : p.Built false)
    (hp : p.Yields V) (hf : ∀ a, V a → (f a).Ensures P Q) : (p >>= f).Ensures P Q := by
  intro sl t hsl hP hrun
  obtain ⟨a, u, hr, hrun⟩ := (bind_eq_ok _ _ _ _ _).mp hrun
  obtain ⟨hend, hvalue⟩ := hp sl hsl
  have hfd := hbuilt.keeps_fd sl
  rw [hr] at hend hfd
  exact hf a (hvalue a u hr) u t hend (hfd ▸ hP) hrun

/-- A write of the tables, the Ptables excepted. -/
theorem Parse.Ensures.afterWrite {g : FrameDec → FrameDec} {f : Unit → Parse Unit}
    (hlegal : ∀ fd, (g fd).pone = fd.pone) (hg : ∀ fd, P fd → P' (g fd)) (hf : (f ()).Ensures P' Q) :
    (Parse.setFd g >>= f).Ensures P Q := by
  intro sl t hsl hP hrun
  refine hf { sl with fd := g sl.fd } t ⟨hsl.ac, ?_⟩ (hg _ hP) hrun
  rw [FrameDec.PtablesLegal, hlegal]
  exact hsl.ptables

end ensures

/-- The filters and the numbers of `n` Ptables, as the header has them before it reads the Ptables. -/
structure FrameDec.Numbered (n : Nat) (fd : FrameDec) : Prop where
  some : 0 < n
  numbers : ∀ row ∈ fd.ptab, Covered row n
  filters : ∀ f ∈ fd.coef, f.length ≤ 128

/-- A header that is read to its end leaves sound tables (42_dst_header.md R250). -/
theorem readHeader_sound (ch fb : Nat) : (readHeader ch fb).Ensures (fun _ => True) FrameDec.Sound := by
  have htrue : ∀ {α : Type} {p : Parse α} {Q : α → Prop}, p.Yields Q → p.Yields fun _ => True :=
    fun h => h.mono fun _ _ => trivial
  refine .afterRead (Parse.built_bits 1) (htrue (Parse.yields_bits 1)) fun _ _ => ?_
  refine .afterRead (readSegmentation_built _ _ _) (readSegmentation_yields _ _ _) fun fseg _ => ?_
  refine .afterWrite (fun _ => rfl) (P' := fun _ => True) (fun _ _ => trivial) ?_
  refine .afterRead (readPtableSegmentation_built _ _ _ _) (readPtableSegmentation_yields _ _ _ _) fun pseg _ => ?_
  refine .afterWrite (fun _ => rfl) (P' := fun _ => True) (fun _ _ => trivial) ?_
  refine .afterRead (Parse.built_bits 1) (htrue (Parse.yields_bits 1)) fun _ _ => ?_
  refine .afterRead (readMapping_built _ _) (readMapping_covered _ _) fun fmap hfmap => ?_
  refine .afterWrite (fun _ => rfl) (P' := fun _ => True) (fun _ _ => trivial) ?_
  refine .afterRead (readPtableMapping_built _ _ _ _ _) (readPtableMapping_covered _ _ _ _ hfmap) fun pmap hpmap => ?_
  refine .afterWrite (fun _ => rfl) (P' := fun fd => fd.ptab = pmap.1) (fun _ _ => rfl) ?_
  refine .afterRead (Parse.built_times (Parse.built_bits 1) _) (htrue (Parse.yields_times (Parse.yields_bits 1) _))
    fun _ _ => ?_
  refine .afterWrite (fun _ => rfl) (P' := fun fd => fd.ptab = pmap.1) (fun _ h => h) ?_
  refine .afterRead (Parse.built_times readFilter_built _) (Parse.yields_times readFilter_length _)
    fun filters hfilters => ?_
  refine .afterWrite (fun _ => rfl) (P' := FrameDec.Numbered pmap.2)
    (fun _ h => ⟨hpmap.1, fun row hrow => hpmap.2 row (h ▸ hrow), hfilters⟩) ?_
  refine .afterRead (Parse.built_times readPtable_built _) (Parse.yields_times_length readPtable_ne_nil _)
    fun tables htables => ?_
  rintro sl t - hfd hrun
  cases hrun
  exact ⟨hfd.filters, htables.2, htables.1.symm ▸ hfd.some, fun row hrow => htables.1.symm ▸ hfd.numbers row hrow⟩

end Sys2Proof.Machine
end

section
/-! PROOFS (O32). What one sample reads, as the statement writes it: the segment of a bit, the prediction over the bits
before it, the probability, and one step of the arithmetic decoder in numbers (41_arith_decoder.md R223, R228, R230;
42_dst_header.md R254; 43_dst_residual.md R304, R310, R311). -/

-- One thread: the check limits the memory of a compile, and each thread reserves its own.
set_option Elab.async false

open Sys2Proof.Claims

namespace Sys2Proof.Machine

/-! ## Segments (42_dst_header.md R254) -/

/-- The walk over the segments stops at the first that ends behind the bit, so it has passed those that end before. -/
theorem segFrom_eq (unit bn : Nat) : ∀ (lens : List Nat) (s start : Nat), segFrom unit bn lens s start =
    s + ((List.range lens.length).filter fun j => start + unit * (lens.take (j + 1)).sum ≤ bn).length
  | [], _, _ => rfl
  | len :: lens, s, start => by
    have hsum : ∀ j, start + unit * ((len :: lens).take (j + 1)).sum =
        start + unit * len + unit * (lens.take j).sum := fun j => by
      rw [List.take_succ_cons, List.sum_cons]
      ring
    rw [segFrom]
    split
    · next hin =>
      have hnone : ((List.range (len :: lens).length).filter
          fun j => start + unit * ((len :: lens).take (j + 1)).sum ≤ bn) = [] := by
        rw [List.filter_eq_nil_iff]
        intro j _
        rw [hsum, decide_eq_true_eq]
        omega
      rw [hnone]
      rfl
    · next hout =>
      have hrest : ((List.range lens.length).map Nat.succ).filter
            (fun j => start + unit * ((len :: lens).take (j + 1)).sum ≤ bn) =
          ((List.range lens.length).filter
            fun j => start + unit * len + unit * (lens.take (j + 1)).sum ≤ bn).map Nat.succ := by
        rw [List.filter_map]
        congr 2
        funext j
        simp only [Function.comp_apply, hsum]
      rw [segFrom_eq unit bn lens, List.length_cons, List.range_succ_eq_map, List.filter_cons_of_pos, hrest,
        List.length_cons, List.length_map]
      · omega
      · rw [hsum, decide_eq_true_eq, List.take_zero, List.sum_nil]
        omega

theorem segOf_eq_segmentAt (sg : Segmentation) (c bn : Nat) : segOf sg c bn = segmentAt sg c bn := by
  rw [segOf, segmentAt, segFrom_eq, Nat.zero_add, Nat.mul_comm sg.resolution]
  simp only [Nat.zero_add]

/-! ## Predictions (43_dst_residual.md R304, R310, R311) -/

/-- Tap `i` of a channel before bit `bn`, from the bits `out` of the channel so far; before the frame the taps
alternate. -/
def tapBit (out : Nat → Bool) (bn i : Nat) : Bool := if i < bn then out (bn - 1 - i) else (i - bn) % 2 = 1

/-- The history of a channel before bit `bn`: 128 taps, the most recent first. -/
def historyAt (out : Nat → Bool) (bn : Nat) : List Bool := (List.range 128).map (tapBit out bn)

theorem tapBit_first (out : Nat → Bool) (bn : Nat) : tapBit out (bn + 1) 0 = out bn := by
  rw [tapBit, if_pos (Nat.succ_pos bn)]
  rfl

theorem tapBit_shifted (out : Nat → Bool) (bn i : Nat) : tapBit out (bn + 1) (i + 1) = tapBit out bn i := by
  have hindex : bn + 1 - 1 - (i + 1) = bn - 1 - i := by omega
  simp only [tapBit, hindex, Nat.add_lt_add_iff_right, Nat.add_sub_add_right]

/-- The next bit is shifted in. -/
theorem historyAt_succ (out : Nat → Bool) (bn : Nat) :
    historyAt out (bn + 1) = (out bn :: historyAt out bn).take 128 := by
  have htaps : List.range 128 = 0 :: (List.range 127).map Nat.succ := List.range_succ_eq_map
  rw [historyAt, historyAt, List.take_succ_cons, ← List.map_take, List.take_range, htaps, List.map_cons, List.map_map]
  exact congrArg₂ List.cons (tapBit_first out bn) (List.map_congr_left fun i _ => tapBit_shifted out bn i)

theorem historyAt_getD (out : Nat → Bool) (bn : Nat) {i : Nat} (hi : i < 128) :
    (historyAt out bn).getD i false = tapBit out bn i := by
  rw [historyAt, List.getD_eq_getElem?_getD, List.getElem?_map, List.getElem?_range hi]
  rfl

/-- The value that a tap stands for. -/
theorem tapAt_eq (out : Nat → Bool) (bn i : Nat) : tapAt out bn i = if tapBit out bn i = true then 1 else -1 := by
  unfold tapAt tapBit
  split
  · rfl
  · simp only [decide_eq_true_eq]

/-- A prediction over taps of which there are enough. -/
theorem prediction_eq : ∀ (cs : List Int) (bs : List Bool), cs.length ≤ bs.length → prediction cs bs =
    ((List.range cs.length).map fun i => cs.getD i 0 * if bs.getD i false = true then 1 else -1).sum
  | [], _, _ => rfl
  | c :: cs, [], h => absurd h (Nat.not_succ_le_zero _)
  | c :: cs, b :: bs, h => by
    have hhead : (if b = true then c else -c) = c * if b = true then 1 else -1 := by split <;> ring
    rw [prediction, prediction_eq cs bs (Nat.le_of_succ_le_succ h), List.length_cons, List.range_succ_eq_map,
      List.map_cons, List.sum_cons, List.map_map, hhead]
    rfl

theorem prediction_historyAt (out : Nat → Bool) (bn : Nat) {filter : List Int} (h : filter.length ≤ 128) :
    prediction filter (historyAt out bn) =
      ((List.range filter.length).map fun i => filter.getD i 0 * tapAt out bn i).sum := by
  rw [prediction_eq _ _ (by rw [historyAt, List.length_map, List.length_range]; exact h)]
  refine congrArg List.sum (List.map_congr_left fun i hi => ?_)
  have hlt : i < 128 := (List.mem_range.mp hi).trans_le h
  rw [tapAt_eq, historyAt_getD out bn hlt]

/-- The predicted bit is the sign of the sum (43_dst_residual.md R311; assumption log 4). -/
theorem predictedBit_eq (pred : Int) : predictedBit pred = decide (pred < 0) := by
  rw [predictedBit, Config.signFromBit15_eq, Bool.false_and, Bool.or_false]

section sample
variable {fd : FrameDec} (h : fd.Sound) (out : Nat → Bool) (c bn : Nat)

/-- The filter that the model takes for a bit. -/
theorem filterAt_eq : fd.coef.getD ((fd.ftab.getD c []).getD (segOf fd.fseg c bn) 0) [] = filterAt fd c bn := by
  rw [segOf_eq_segmentAt, filterAt]

include h

theorem prediction_eq_predictedSum : prediction (filterAt fd c bn) (historyAt out bn) = predictedSum fd out c bn :=
  prediction_historyAt out bn (h.filter_length _)

theorem sampleProbability_eq : sampleProbability fd c bn (filterAt fd c bn).length (predictedSum fd out c bn) =
    probabilityAt fd out c bn := by
  rw [sampleProbability, probabilityAt, segOf_eq_segmentAt]
  split
  · rfl
  · have hlen := List.length_pos_of_ne_nil (h.ptable_ne_nil c (segmentAt fd.pseg c bn))
    dsimp only
    generalize fd.pone.getD ((fd.ptab.getD c []).getD (segmentAt fd.pseg c bn) 0) [] = table at hlen ⊢
    rw [← quantize_eq _ _ hlen, List.getD_eq_getElem _ _ (quantize_lt _ _ hlen),
      List.getD_eq_getElem _ _ (quantize_lt _ _ hlen)]

end sample

/-! ## The first probability (41_arith_decoder.md R230) -/

theorem rev7_eq : ∀ n, n < 128 → rev7 n = ((List.range 7).map fun j => (n.testBit j).toNat * 2 ^ (6 - j)).sum := by
  decide +kernel

theorem firstProbability_eq (fd : FrameDec) : rev7p1 ((fd.coef.getD 0 []).getD 0 0) = firstProbability fd := by
  rw [rev7p1, firstProbability, rev7_eq _ (by omega), Nat.add_comm]

/-! ## One decode in numbers (41_arith_decoder.md R223) -/

/-- What the statement speaks of: `A`, `C` and `cbptr`. -/
def ArithDec.numbers (ac : ArithDec) : Nat × Nat × Nat := (ac.a.toNat, ac.c.toNat, ac.cbptr)

/-- The turns of the renormalisation, from the size of the interval. -/
theorem RenormTurns.eq_size {a n : Nat} (h : RenormTurns a n) : n = 12 - Nat.size a := by
  have hne : a ≠ 0 := by
    rintro rfl
    exact absurd h.half (by rw [Nat.zero_mul]; decide)
  have hsize : Nat.size (a * 2 ^ n) = Nat.size a + n := by rw [← Nat.shiftLeft_eq, Nat.size_shiftLeft hne]
  have hlo : 11 < Nat.size (a * 2 ^ n) := Nat.lt_size.mpr h.half
  have hhi : Nat.size (a * 2 ^ n) ≤ 12 := Nat.size_le.mpr h.one
  omega

/-- The number that code bits stand for depends on the place of the code only. -/
theorem codeBits_congr {d : Slot} {ac : ArithDec} (hbase : ac.acBase = d.ac.acBase) (hlen : ac.acLen = d.ac.acLen)
    (i n : Nat) : codeBits { d with ac := ac } i n = codeBits d i n := by
  rw [← codeNat_eq_codeBits, ← codeNat_eq_codeBits]
  exact codeNat_congr d.br.inbuf hbase hlen n i

/-- One decode of the statement, by the part of the interval that it keeps. -/
theorem acNext_eq (d : Slot) (p a c ptr : Nat) : acNext d p (a, c, ptr) =
    (if a - (a / 256 ||| a / 128 % 2) * p ≤ c then 0 else 1,
      (keptPart a c ((a / 256 ||| a / 128 % 2) * p)).1 *
        2 ^ (12 - Nat.size (keptPart a c ((a / 256 ||| a / 128 % 2) * p)).1),
      ((keptPart a c ((a / 256 ||| a / 128 % 2) * p)).2 *
          2 ^ (12 - Nat.size (keptPart a c ((a / 256 ||| a / 128 % 2) * p)).1) +
        codeBits d ptr (12 - Nat.size (keptPart a c ((a / 256 ||| a / 128 % 2) * p)).1)) % 2 ^ 32,
      ptr + (12 - Nat.size (keptPart a c ((a / 256 ||| a / 128 % 2) * p)).1)) := by
  unfold acNext keptPart
  dsimp only
  split <;> rfl

/-- One decode, as the statement writes it, of a decoder on the code of the slot `d`. -/
theorem decodeBit_numbers (d : Slot) {ac r : ArithDec} (hready : ac.ready d.br.inbuf = r)
    (hbase : ac.acBase = d.ac.acBase) (hlen : ac.acLen = d.ac.acLen) {p : Nat} (hlo : 2048 ≤ r.a.toNat)
    (hhi : r.a.toNat < 4096) (hptr : r.cbptr + 11 < 2 ^ 24) (hp : 1 ≤ p) (hp' : p ≤ 128) :
    (ac.decodeBit d.br.inbuf p).1 = decide ((acNext d p r.numbers).1 = 1) ∧
    (ac.decodeBit d.br.inbuf p).2.numbers = (acNext d p r.numbers).2 ∧
    (ac.decodeBit d.br.inbuf p).2.cbptr ≤ r.cbptr + 8 := by
  obtain ⟨_, n, hturns, hrun⟩ := ArithDec.decodeBit_spec { d with ac := ac } hready hlo hhi hptr hp hp' rfl
  dsimp only at hrun
  rw [codeBits_congr hbase hlen] at hrun
  have hone := hturns.one
  rw [hrun, ArithDec.numbers, acNext_eq, ← hturns.eq_size]
  refine ⟨?_, ?_, Nat.add_le_add_left hturns.le _⟩
  · by_cases hle : r.a.toNat - (r.a.toNat / 256 ||| r.a.toNat / 128 % 2) * p ≤ r.c.toNat <;> simp [hle]
  · rw [ArithDec.numbers, BitVec.toNat_ofNat, BitVec.toNat_ofNat, Nat.mod_eq_of_lt (a := _ * _) (by omega)]

end Sys2Proof.Machine
end

section
/-! PROOFS (O32, samples). The samples of a coded frame are those of the recurrence that the statement writes out
(41_arith_decoder.md R223, 43_dst_residual.md R310, R311): the arithmetic decoder stays on the code of the frame, and the
histories are the bits decoded so far. -/

-- One thread: the check limits the memory of a compile, and each thread reserves its own.
set_option Elab.async false

open Sys2Proof.Claims

namespace Sys2Proof.Machine

/-! ## The arithmetic decoder along the samples -/

/-- A decoder that is running on the code of the slot `d`, its code pointer at most `m`. -/
structure ArithDec.OnCode (ac : ArithDec) (d : Slot) (m : Nat) : Prop where
  running : ac.acInit = false
  acBase : ac.acBase = d.ac.acBase
  acLen : ac.acLen = d.ac.acLen
  interval : 2048 ≤ ac.a.toNat ∧ ac.a.toNat < 4096
  cbptr : ac.cbptr ≤ m

theorem ArithDec.ready_running {ac : ArithDec} (h : ac.acInit = false) (buf : List Byte) : ac.ready buf = ac := by
  obtain ⟨_, hready⟩ | ⟨hinit, _⟩ := ac.ready_cases buf
  · exact hready
  · rw [h] at hinit
    cases hinit

/-- One decode moves the code pointer by 8 bits at most. -/
theorem ArithDec.OnCode.decode {ac : ArithDec} {d : Slot} {m p : Nat} (h : ac.OnCode d m) (hm : m + 11 < 2 ^ 24)
    (hp : 1 ≤ p) (hp' : p ≤ 128) :
    (ac.decodeBit d.br.inbuf p).1 = decide ((acNext d p ac.numbers).1 = 1) ∧
    (ac.decodeBit d.br.inbuf p).2.numbers = (acNext d p ac.numbers).2 ∧
    (ac.decodeBit d.br.inbuf p).2.OnCode d (m + 8) := by
  have hptr := h.cbptr
  obtain ⟨hbit, hnumbers, hmoved⟩ := decodeBit_numbers d (ArithDec.ready_running h.running _) h.acBase h.acLen
    h.interval.1 h.interval.2 (by omega) hp hp'
  obtain ⟨hbase, hlen, hinit⟩ := ac.decodeBit_frame d.br.inbuf p
  have hinterval := ArithDec.Steady.decodeBit_interval (.inr h.interval) d.br.inbuf hp hp'
  exact ⟨hbit, hnumbers, hinit, hbase.trans h.acBase, hlen.trans h.acLen, hinterval, by omega⟩

/-- A sample is one decode, with a probability of the tables. -/
theorem ArithDec.OnCode.decodeSample {ac : ArithDec} {d : Slot} {m : Nat} (h : ac.OnCode d m) (hm : m + 11 < 2 ^ 24)
    {fd : FrameDec} (hfd : fd.PtablesLegal) (bn c : Nat) (hist : List Bool) :
    (decodeSample fd d.br.inbuf bn c ac hist).2.1.OnCode d (m + 8) := by
  obtain ⟨hp, hp'⟩ := sampleProbability_range hfd bn c _ _
  exact (h.decode hm hp hp').2.2

/-- A sample over the history of a channel, as the statement writes it (43_dst_residual.md R310). -/
theorem decodeSample_eq {fd : FrameDec} (h : fd.Sound) (buf : List Byte) (out : Nat → Bool) (bn c : Nat) (ac : ArithDec) :
    (decodeSample fd buf bn c ac (historyAt out bn)).1 =
      (decide (predictedSum fd out c bn < 0) ^^ (ac.decodeBit buf (probabilityAt fd out c bn)).1) ∧
    (decodeSample fd buf bn c ac (historyAt out bn)).2.1 = (ac.decodeBit buf (probabilityAt fd out c bn)).2 := by
  unfold Machine.decodeSample
  dsimp only
  rw [filterAt_eq, prediction_eq_predictedSum h, sampleProbability_eq h, predictedBit_eq]
  exact ⟨rfl, rfl⟩

theorem probabilityAt_range {fd : FrameDec} (h : fd.Sound) (hfd : fd.PtablesLegal) (out : Nat → Bool) (c bn : Nat) :
    1 ≤ probabilityAt fd out c bn ∧ probabilityAt fd out c bn ≤ 128 := by
  rw [← sampleProbability_eq h]
  exact sampleProbability_range hfd bn c _ _

/-! ## The histories along the samples -/

section histories
variable (fd : FrameDec) (buf : List Byte) {ch : Nat} (x : Progress)

/-- The history a sample leaves has its bit shifted in. -/
theorem decodeSample_history (bn c : Nat) (ac : ArithDec) (hist : List Bool) :
    (decodeSample fd buf bn c ac hist).2.2 = ((decodeSample fd buf bn c ac hist).1 :: hist).take 128 := rfl

/-- Before the sample of bit `bn` of channel `past`, the channels below `past` have one bit more than the others. -/
theorem Progress.hists_at (hx : x.hists = List.replicate ch startHistory) : ∀ (bn past : Nat), past ≤ ch → ∀ c, c < ch →
    (x.after fd buf ch (bn * ch + past)).hists.getD c [] =
      historyAt (x.bit fd buf ch c) (if c < past then bn + 1 else bn)
  | 0, 0, _, c, hc => by
    rw [Nat.zero_mul, Nat.zero_add, Progress.after, hx, List.getD_eq_getElem _ _ (by simpa using hc),
      List.getElem_replicate]
    rfl
  | bn + 1, 0, _, c, hc => by
    have hrow := Progress.hists_at hx bn ch (Nat.le_refl ch) c hc
    rw [if_pos hc, ← Nat.succ_mul] at hrow
    exact hrow
  | bn, past + 1, hpast, c, hc => by
    have hlen : past < (x.after fd buf ch (bn * ch + past)).hists.length := by
      rw [x.length_hists, hx, List.length_replicate]
      exact hpast
    have hbefore := Progress.hists_at hx bn past (Nat.le_of_succ_le hpast)
    have hsample := Progress.sample_at fd buf hpast bn (x.after fd buf ch (bn * ch + past))
    have hhist := hbefore past hpast
    rw [if_neg (Nat.lt_irrefl past)] at hhist
    have hbit : (decodeSample fd buf bn past (x.after fd buf ch (bn * ch + past)).ac
        ((x.after fd buf ch (bn * ch + past)).hists.getD past [])).1 = x.bit fd buf ch past bn := by
      rw [Progress.bit, hsample]
    rw [← Nat.add_assoc, Progress.after, hsample]
    dsimp only
    rw [decodeSample_history, hbit, hhist, ← historyAt_succ]
    by_cases hcp : c = past
    · subst hcp
      rw [if_pos (Nat.lt_succ_self c), List.getD_eq_getElem?_getD, List.getElem?_set_self hlen, Option.getD_some]
    · rw [List.getD_eq_getElem?_getD, List.getElem?_set_ne (Ne.symm hcp), ← List.getD_eq_getElem?_getD, hbefore c hc]
      congr 1
      have hiff : c < past ↔ c < past + 1 := by omega
      simp only [hiff]

end histories

/-! ## The samples of a slot whose header is read -/

/-- The slot `d` holds what the decode behind the header of `t` has left: the code and its place, the tables, the
output, and the status that the flush decides (43_dst_residual.md R312). -/
structure Slot.EndsDecode (d t : Slot) (ch fb : Nat) : Prop where
  br : d.br = t.br
  acBase : d.ac.acBase = t.br.pos
  acLen : d.ac.acLen = t.br.remaining
  fd : ∃ st, d.fd = { (t.terminated ch fb).fd with dstate := st }
  outbuf : d.outbuf = overwrite t.outbuf (t.reconstruction ch fb)
  status : d.slotStatus = .ok ↔ ((t.lastSample ch fb).ac.flush t.br.inbuf).1 = true

/-- What the first `k` samples behind the header of `t` leave. -/
def Slot.sampled (t : Slot) (ch k : Nat) : Progress := (t.firstSample ch).after (t.tables ch) t.br.inbuf ch k

/-- Bit `bn` of channel `c` of the frame behind the header of `t`. -/
def Slot.outBit (t : Slot) (ch c bn : Nat) : Bool := (t.firstSample ch).bit (t.tables ch) t.br.inbuf ch c bn

/-- Each sample works on the history of its channel. -/
theorem Slot.sampled_next (t : Slot) {ch c : Nat} (hc : c < ch) (bn : Nat) :
    (t.sampled ch (bn * ch + c + 1)).ac = (decodeSample (t.tables ch) t.br.inbuf bn c (t.sampled ch (bn * ch + c)).ac
      (historyAt (t.outBit ch c) bn)).2.1 ∧
    t.outBit ch c bn = (decodeSample (t.tables ch) t.br.inbuf bn c (t.sampled ch (bn * ch + c)).ac
      (historyAt (t.outBit ch c) bn)).1 := by
  have hhist := (t.firstSample ch).hists_at (t.tables ch) t.br.inbuf rfl bn c (Nat.le_of_lt hc) c hc
  rw [if_neg (Nat.lt_irrefl c)] at hhist
  have hsample := Progress.sample_at (t.tables ch) t.br.inbuf hc bn (t.sampled ch (bn * ch + c))
  rw [show (t.sampled ch (bn * ch + c)).hists.getD c [] = historyAt (t.outBit ch c) bn from hhist] at hsample
  exact ⟨congrArg (·.2.ac) hsample, congrArg (·.1) hsample⟩

section samples
variable {d t : Slot} {ch fb : Nat} (h : d.EndsDecode t ch fb)
include h

theorem Slot.EndsDecode.predictedSum (out : Nat → Bool) (c bn : Nat) :
    predictedSum d.fd out c bn = predictedSum (t.tables ch) out c bn := by
  obtain ⟨st, hfd⟩ := h.fd
  rw [hfd]
  rfl

theorem Slot.EndsDecode.probabilityAt (out : Nat → Bool) (c bn : Nat) :
    probabilityAt d.fd out c bn = probabilityAt (t.tables ch) out c bn := by
  obtain ⟨st, hfd⟩ := h.fd
  rw [hfd]
  rfl

theorem Slot.EndsDecode.firstProbability : firstProbability d.fd = rev7p1 ((t.fd.coef.getD 0 []).getD 0 0) := by
  obtain ⟨st, hfd⟩ := h.fd
  rw [firstProbability_eq t.fd, hfd]
  rfl

/-- The first decode, of the bit that is thrown away (43_dst_residual.md R305). -/
theorem Slot.EndsDecode.firstDecode :
    (t.firstSample ch).ac.numbers = (acNext d (Claims.firstProbability d.fd) (4095, codeBits d 1 12, 13)).2 ∧
    (t.firstSample ch).ac.OnCode d 21 := by
  obtain ⟨hp, hp'⟩ := rev7p1_range ((t.fd.coef.getD 0 []).getD 0 0)
  have hbuf : t.br.inbuf = d.br.inbuf := by rw [h.br]
  have hcode : (loadCode d.br.inbuf t.acStart.ac 12 1 0).toNat = codeBits d 1 12 := by
    rw [loadCode_toNat _ _ _ _ _ (by decide), codeNat_congr (ac' := d.ac) d.br.inbuf h.acBase.symm h.acLen.symm,
      codeNat_eq_codeBits]
    exact (congrArg (· + codeBits d 1 12) (Nat.zero_mul _)).trans (Nat.zero_add _)
  have hstart : (t.acStart.ac.ready d.br.inbuf).numbers = (4095, codeBits d 1 12, 13) := by
    rw [ArithDec.ready_fresh rfl]
    exact Prod.ext rfl (Prod.ext hcode rfl)
  have ha : (t.acStart.ac.ready d.br.inbuf).a.toNat = 4095 := congrArg (·.1) hstart
  have hptr : (t.acStart.ac.ready d.br.inbuf).cbptr = 13 := congrArg (·.2.2) hstart
  obtain ⟨_, hnumbers, hmoved⟩ := decodeBit_numbers d rfl h.acBase.symm h.acLen.symm (by rw [ha]; decide)
    (by rw [ha]; decide) (by rw [hptr]; decide) hp hp'
  obtain ⟨hbase, hlen, hinit⟩ := t.acStart.ac.decodeBit_frame d.br.inbuf (rev7p1 ((t.fd.coef.getD 0 []).getD 0 0))
  have hinterval := ArithDec.Steady.decodeBit_interval (ac := t.acStart.ac) (.inl rfl) d.br.inbuf hp hp'
  rw [hstart] at hnumbers
  rw [hptr] at hmoved
  rw [h.firstProbability, Slot.firstSample, hbuf]
  dsimp only
  exact ⟨hnumbers, hinit, hbase.trans h.acBase.symm, hlen.trans h.acLen.symm, hinterval, hmoved⟩

variable (hlegal : t.fd.PtablesLegal)
include hlegal

/-- The decoder stays on the code: one decode for each sample, each of at most 8 code bits. -/
theorem Slot.EndsDecode.onCode : ∀ k, 21 + 8 * k + 3 < 2 ^ 24 → (t.sampled ch k).ac.OnCode d (21 + 8 * k)
  | 0, _ => h.firstDecode.2
  | k + 1, hk => by
    have hafter := (Slot.EndsDecode.onCode k (by omega)).decodeSample (by omega) (fd := t.tables ch) hlegal (k / ch)
      (k % ch) ((t.sampled ch k).hists.getD (k % ch) [])
    rw [h.br] at hafter
    exact hafter

variable (hsound : t.fd.Sound)
include hsound

/-- One sample, as the statement writes it (43_dst_residual.md R310). -/
theorem Slot.EndsDecode.sample {bn c : Nat} (hc : c < ch) (hk : 21 + 8 * (bn * ch + c) + 11 < 2 ^ 24) :
    (t.sampled ch (bn * ch + c + 1)).ac.numbers = (acNext d (Claims.probabilityAt d.fd (t.outBit ch c) c bn)
      (t.sampled ch (bn * ch + c)).ac.numbers).2 ∧
    t.outBit ch c bn = (decide (Claims.predictedSum d.fd (t.outBit ch c) c bn < 0) ^^
      decide ((acNext d (Claims.probabilityAt d.fd (t.outBit ch c) c bn)
        (t.sampled ch (bn * ch + c)).ac.numbers).1 = 1)) := by
  have htables : (t.tables ch).Sound := ⟨hsound.filters, hsound.ptables, hsound.some, hsound.numbers⟩
  have hon := h.onCode hlegal (bn * ch + c) (by omega)
  obtain ⟨hac, hout⟩ := t.sampled_next hc bn
  obtain ⟨hbit, hnext⟩ := decodeSample_eq htables t.br.inbuf (t.outBit ch c) bn c (t.sampled ch (bn * ch + c)).ac
  obtain ⟨hp, hp'⟩ := probabilityAt_range htables hlegal (t.outBit ch c) c bn
  obtain ⟨hresidual, hnumbers, _⟩ := hon.decode hk hp hp'
  rw [h.br] at hresidual hnumbers
  rw [h.predictedSum, h.probabilityAt]
  constructor
  · rw [hac, hnext, hnumbers]
  · rw [← hresidual, ← hbit]
    exact hout

/-- The numbers of the decoder after `k` decodes: the start, the bit thrown away, then one for each sample. -/
def Slot.decodes (t : Slot) (ch : Nat) (start : Nat × Nat × Nat) : Nat → Nat × Nat × Nat
  | 0 => start
  | k + 1 => (t.sampled ch k).ac.numbers

theorem Slot.EndsDecode.decoded (hch : ch ≤ 6) (hfb : fb ≤ 18816) :
    Decoded d ch fb (t.decodes ch (4095, codeBits d 1 12, 13)) (t.outBit ch) where
  start := rfl
  xbit := h.firstDecode.1
  sample bn c hbn hc := by
    have hlast : (bn + 1) * ch ≤ 8 * 18816 * 6 := Nat.mul_le_mul (by omega) hch
    rw [Nat.succ_mul] at hlast
    exact h.sample hlegal hsound hc (by omega)

end samples

end Sys2Proof.Machine
end

section
/-! PROOFS (O32, end). Every frame decode ends `Done` or `Failed` with a cause of 1 to 14 (43_dst_residual.md R300, R312,
R314), and a coded frame that gets to the end of its code is good exactly when the flush finds nothing left of it. -/

-- One thread: the check limits the memory of a compile, and each thread reserves its own.
set_option Elab.async false

open Sys2Proof.Claims

namespace Sys2Proof.Machine

/-! ## The end of the code -/

theorem ArithDec.flush_many {ac : ArithDec} (h : ac.cbptr + 7 < ac.acLen) (buf : List Byte) : (ac.flush buf).1 = false := by
  unfold ArithDec.flush
  rw [if_pos h]

section ends
variable {d t : Slot} {ch fb : Nat} (h : d.EndsDecode t ch fb)
include h

theorem Slot.EndsDecode.codeAt_zero (hbit : codeBit t.br.inbuf t.acStart.ac 0 = false) : codeAt d 0 = 0 := by
  have hsame : codeBit d.br.inbuf d.ac 0 = codeBit t.br.inbuf t.acStart.ac 0 := by
    rw [codeBit, codeBit, h.br, h.acBase, h.acLen, t.acStart_acBase, t.acStart_acLen]
  rw [← codeBit_toNat, hsame, hbit]
  rfl

/-- The output is the bits of the samples, eight of a channel to a byte (43_dst_residual.md R310). -/
theorem Slot.EndsDecode.bufByte {j c : Nat} (hj : j < fb) (hc : c < ch) :
    bufByte d.outbuf (j * ch + c) = BitVec.ofNat 8 (bitSum (t.outBit ch c) 8 (8 * j)) := by
  have hget : (t.reconstruction ch fb)[j * ch + c]? = some (BitVec.ofNat 8 (bitSum (t.outBit ch c) 8 (0 + 8 * j))) :=
    getElem?_frameBytes (t.outBit ch) hc fb 0 j hj
  obtain ⟨hlt, _⟩ := List.getElem?_eq_some_iff.mp hget
  rw [Machine.bufByte, h.outbuf, overwrite, List.getD_eq_getElem?_getD, List.getElem?_append_left hlt, hget, Nat.zero_add,
    Option.getD_some]

/-- The frame is good exactly when at most 7 code bits are left, all 0 (41_arith_decoder.md R225). -/
theorem Slot.EndsDecode.good_iff (hlegal : t.fd.PtablesLegal) (hch : ch ≤ 6) (hfb : fb ≤ 18816) {rest : Nat}
    (hrest : rest = (t.sampled ch (8 * fb * ch)).ac.cbptr) :
    d.slotStatus = .ok ↔ d.ac.acLen ≤ rest + 7 ∧ codeBits d rest (d.ac.acLen - rest) = 0 := by
  have hcount : 8 * fb * ch ≤ 8 * 18816 * 6 := Nat.mul_le_mul (Nat.mul_le_mul_left 8 hfb) hch
  have hon := h.onCode hlegal (8 * fb * ch) (by omega)
  have hptr := hon.cbptr
  have hlast : t.lastSample ch fb = t.sampled ch (8 * fb * ch) := rfl
  rw [h.status, hlast, ← h.br]
  generalize (t.sampled ch (8 * fb * ch)).ac = ac at hon hptr hrest
  subst hrest
  rw [← hon.acLen, ← codeNat_eq_codeBits, ← codeNat_congr d.br.inbuf hon.acBase hon.acLen]
  by_cases hfew : ac.acLen ≤ ac.cbptr + 7
  · rw [(ac.flush_spec d.br.inbuf (by omega)).1, decide_eq_true_eq]
  · rw [ArithDec.flush_many (by omega)]
    exact ⟨fun hfalse => absurd hfalse Bool.false_ne_true, fun hgood => absurd hgood.1 hfew⟩

end ends

/-! ## How a frame decode ends -/

/-- The frame is whole: its bits are counted, the decoder starts afresh, the output has its bytes. -/
structure Slot.Whole (sl : Slot) (ch fb : Nat) : Prop where
  count : sl.fd.nbitsDecoded = ch * (8 * fb)
  fresh : sl.ac.acInit = true
  output : ch * fb ≤ sl.outbuf.length

theorem Slot.terminated_whole (t : Slot) (ch fb : Nat) : (t.terminated ch fb).Whole ch fb where
  count := Nat.mul_left_comm 8 ch fb
  fresh := by rw [Slot.terminated, ArithDec.flush_frame]
  output := by
    rw [Slot.terminated, length_overwrite, t.length_reconstruction]
    exact Nat.le_max_left _ _

/-- How a run of a frame, or of its rest, ends. -/
inductive FrameEnds (ch fb : Nat) : EStateM.Result Cause Slot Unit → Prop where
  | whole {t : Slot} : t.Whole ch fb → FrameEnds ch fb (.ok () t)
  | failed (e : Cause) (t : Slot) : 1 ≤ e.code → e.code ≤ 14 → FrameEnds ch fb (.error e t)

section ends
variable {ch fb : Nat}

/-- A part of the header in front of a rest that ends well. -/
theorem FrameEnds.afterPart {w : Bool} {α : Type} {p : Parse α} {f : α → Parse Unit} {sl : Slot} (hp : p.Built w)
    (hf : ∀ a t, t.ac = sl.ac → FrameEnds ch fb (f a t)) : FrameEnds ch fb ((p >>= f) sl) := by
  have hkeeps := (hp.keeps_ac sl).1
  rcases hr : p sl with ⟨a, t⟩ | ⟨e, t⟩ <;> rw [hr] at hkeeps
  · rw [Parse.bind_of_ok hr]
    exact hf a t hkeeps
  · rw [Parse.bind_of_error hr]
    obtain ⟨hlo, hhi, _⟩ := hp.cause hr
    exact .failed e t hlo hhi

theorem plainBytes_ends {sl : Slot} (hfresh : sl.ac.acInit = true) : FrameEnds ch fb (plainBytes ch fb sl) := by
  rcases hr : sl.br.readBytesAligned (ch * fb) with ⟨_ | bytes, b⟩
  · have hrun : plainBytes ch fb sl = _ := Parse.bind_of_error (Parse.read_of_none hr)
    rw [hrun]
    exact .failed _ _ (by decide) (by decide)
  · have hrun : plainBytes ch fb sl = .ok () _ := Parse.bind_of_ok (Parse.read_of_some hr)
    rw [hrun]
    refine .whole ⟨rfl, hfresh, ?_⟩
    rw [Slot.withPlain, length_overwrite, BitReader.readBytesAligned_length hr]
    exact Nat.le_max_left _ _

theorem plainFrame_ends {sl : Slot} (hfresh : sl.ac.acInit = true) : FrameEnds ch fb (plainFrame ch fb sl) := by
  rw [plainFrame_eq]
  refine .afterPart (w := false) (Parse.built_bits 1) fun _ t ht => .afterPart (w := false) (Parse.built_bits 6)
    fun _ u hu => .afterPart (w := false) (Parse.built_check _ _) fun _ v hv => plainBytes_ends ?_
  rw [hv, hu, ht, hfresh]

theorem residual_ends (t : Slot) : FrameEnds ch fb (residual ch fb t) := by
  cases hbit : codeBit t.br.inbuf t.acStart.ac 0 with
  | true =>
    rw [residual_refused ch fb hbit]
    exact .failed _ _ (by decide) (by decide)
  | false =>
    rw [residual_runs ch fb hbit]
    split
    · exact .whole (t.terminated_whole ch fb)
    · exact .failed _ _ (by decide) (by decide)

theorem frameBody_ends {sl : Slot} (hfresh : sl.ac.acInit = true) : FrameEnds ch fb (frameBody ch fb sl) := by
  refine .afterPart (w := false) (Parse.built_bits 1) fun coded t ht => ?_
  split
  · exact plainFrame_ends (ht ▸ hfresh)
  · rw [codedFrame_eq]
    exact .afterPart (readHeader_built ch fb) fun _ u _ => residual_ends u

end ends

/-! ## A coded frame that gets to its end -/

/-- A result of a decode that has run through all the samples. -/
def Reached : EStateM.Result Cause Slot Unit → Prop
  | .ok _ _ => True
  | .error e _ => e = .acTermination

/-- A decode that runs through all the samples has read each part of its header to the end. -/
theorem Reached.afterPart {w : Bool} {α : Type} {p : Parse α} {f : α → Parse Unit} {sl : Slot} (hp : p.Built w)
    (h : Reached ((p >>= f) sl)) : ∃ a t, p sl = .ok a t ∧ (p >>= f) sl = f a t := by
  rcases hr : p sl with ⟨a, t⟩ | ⟨e, t⟩
  · exact ⟨a, t, rfl, Parse.bind_of_ok hr⟩
  · rw [Parse.bind_of_error hr] at h
    obtain ⟨_, _, hbefore⟩ := hp.cause hr
    exact absurd h hbefore

theorem Reached.codeBit_clear {t : Slot} {ch fb : Nat} (h : Reached (residual ch fb t)) :
    codeBit t.br.inbuf t.acStart.ac 0 = false := by
  cases hbit : codeBit t.br.inbuf t.acStart.ac 0 with
  | false => rfl
  | true =>
    rw [residual_refused ch fb hbit] at h
    cases h

/-- A decode of a coded frame that is good or ends with `AC_TERMINATION` has read its header to the end, and its rest
starts with a clear code bit. -/
theorem frameBody_coded {sl : Slot} {ch fb : Nat} (hcoded : bitAt sl.br.inbuf 0 = 1)
    (hend : Reached (frameBody ch fb (sl.startFrame ch fb))) :
    ∃ u : Slot, u.fd.PtablesLegal ∧ u.fd.Sound ∧ codeBit u.br.inbuf u.acStart.ac 0 = false ∧
      frameBody ch fb (sl.startFrame ch fb) = residual ch fb u := by
  have hstart : (sl.startFrame ch fb).Decodable := ⟨.inl rfl, fun _ h => absurd h List.not_mem_nil⟩
  have hbits : 1 ≤ sl.br.totalBits := by
    by_contra hempty
    have hfailed : frameBody ch fb (sl.startFrame ch fb) = _ :=
      Parse.bind_of_error (Parse.bits_tooFew (sl := sl.startFrame ch fb) (n := 1) (by
        show sl.br.totalBits < 0 + 1
        omega))
    rw [hfailed] at hend
    cases hend
  have hfirst := Parse.bits_enough (sl := sl.startFrame ch fb) (n := 1) rfl (by
    show 0 + 1 ≤ sl.br.totalBits
    omega)
  have hone : bitsAt (sl.startFrame ch fb).br.inbuf (sl.startFrame ch fb).br.pos 1 = 1 := (bitsAt_one _ _).trans hcoded
  rw [hone] at hfirst
  have hbody : frameBody ch fb (sl.startFrame ch fb) = codedFrame ch fb _ := Parse.bind_of_ok hfirst
  have hcodedStart : ({ sl.startFrame ch fb with br := (sl.startFrame ch fb).br.skip 1 } : Slot).Decodable :=
    ⟨hstart.ac, hstart.ptables⟩
  rw [hbody, codedFrame_eq] at hend
  obtain ⟨_, u, hheader, hrest⟩ := Reached.afterPart (readHeader_built ch fb) hend
  have hlegal := (readHeader_yields ch fb _ hcodedStart).1
  rw [hheader] at hlegal
  rw [hrest] at hend
  exact ⟨u, hlegal.ptables, readHeader_sound ch fb _ u hcodedStart trivial hheader, hend.codeBit_clear,
    hbody.trans (codedFrame_eq ch fb ▸ hrest)⟩

/-- Along the samples the decoder keeps the place of the code. -/
theorem Slot.sampled_place (t : Slot) (ch : Nat) : ∀ k,
    (t.sampled ch k).ac.acBase = t.br.pos ∧ (t.sampled ch k).ac.acLen = t.br.remaining
  | 0 => by
    obtain ⟨hbase, hlen, _⟩ := t.acStart.ac.decodeBit_frame t.br.inbuf (rev7p1 ((t.fd.coef.getD 0 []).getD 0 0))
    rw [Slot.sampled, Progress.after, Slot.firstSample]
    dsimp only
    exact ⟨hbase, hlen⟩
  | k + 1 => by
    obtain ⟨hbase, hlen⟩ := t.sampled_place ch k
    obtain ⟨hbase', hlen', _⟩ := (t.sampled ch k).ac.decodeBit_frame t.br.inbuf
      (sampleProbability (t.tables ch) (k % ch) (k / ch) _ _)
    exact ⟨hbase'.trans hbase, hlen'.trans hlen⟩

theorem Slot.terminated_place (t : Slot) (ch fb : Nat) :
    (t.terminated ch fb).ac.acBase = t.br.pos ∧ (t.terminated ch fb).ac.acLen = t.br.remaining := by
  rw [Slot.terminated, ArithDec.flush_frame]
  exact t.sampled_place ch (8 * fb * ch)

/-- A coded frame whose decode gets to its end ends the decode behind its header. -/
theorem Slot.frameDecode_coded {sl : Slot} {ch fb : Nat} (hcoded : bitAt sl.br.inbuf 0 = 1)
    (hend : Reached (frameBody ch fb (sl.startFrame ch fb))) :
    ∃ u : Slot, u.fd.PtablesLegal ∧ u.fd.Sound ∧ codeBit u.br.inbuf u.acStart.ac 0 = false ∧
      (sl.frameDecode ch fb).EndsDecode u ch fb := by
  obtain ⟨u, hlegal, hsound, hbit, hbody⟩ := frameBody_coded hcoded hend
  obtain ⟨hbase, hlen⟩ := u.terminated_place ch fb
  rw [residual_runs ch fb hbit] at hbody
  refine ⟨u, hlegal, hsound, hbit, ?_⟩
  by_cases hflush : ((u.lastSample ch fb).ac.flush u.br.inbuf).1 = true
  · rw [if_pos hflush] at hbody
    have hok := Slot.frameDecode_status hbody
    rw [Slot.frameDecode_of_ok hbody]
    exact { br := rfl, acBase := hbase, acLen := hlen, fd := ⟨_, rfl⟩, outbuf := rfl, status := iff_of_true hok hflush }
  · rw [if_neg hflush] at hbody
    rw [Slot.frameDecode_of_error hbody]
    exact { br := rfl, acBase := hbase, acLen := hlen, fd := ⟨_, rfl⟩, outbuf := rfl,
            status := iff_of_false (fun hok => by cases hok) hflush }

/-- A decode that is good or failed at the end of its code has run through all the samples. -/
theorem Slot.frameDecode_reached {sl : Slot} {ch fb : Nat}
    (h : (sl.frameDecode ch fb).slotStatus = .ok ∨ (sl.frameDecode ch fb).slotCause = .acTermination) :
    Reached (frameBody ch fb (sl.startFrame ch fb)) := by
  rcases hr : frameBody ch fb (sl.startFrame ch fb) with ⟨_, t⟩ | ⟨e, t⟩
  · trivial
  · rw [Slot.frameDecode_of_error hr] at h
    obtain hok | hcause := h
    · cases hok
    · exact hcause

/-- The status of a decode, and what a good one has left. -/
theorem Slot.frameDecode_ends (sl : Slot) (ch fb : Nat) (d : Slot) (hd : d = sl.frameDecode ch fb) :
    d.slotStatus = .ok ∧ d.outSize = ch * fb ∧ d.fd.nbitsDecoded = ch * (8 * fb) ∧ d.fd.dstate = .done ∧
      d.ac.acInit = true ∧ ch * fb ≤ d.outbuf.length ∨
    d.slotStatus = .frameDecodeError ∧ d.fd.dstate = .failed ∧ 1 ≤ d.slotCause.code ∧ d.slotCause.code ≤ 14 := by
  have hends : FrameEnds ch fb (frameBody ch fb (sl.startFrame ch fb)) := frameBody_ends rfl
  generalize hr : frameBody ch fb (sl.startFrame ch fb) = r at hends
  cases hends with
  | whole hwhole =>
    have hok := Slot.frameDecode_status hr
    rw [hd, Slot.frameDecode_of_ok hr]
    exact .inl ⟨hok, rfl, hwhole.count, rfl, hwhole.fresh, hwhole.output⟩
  | failed e t hlo hhi =>
    rw [hd, Slot.frameDecode_of_error hr]
    exact .inr ⟨rfl, rfl, hlo, hhi⟩

/-- Settles O32: how the decode ends, what it keeps, and for a coded frame the recurrence of its samples. -/
theorem frameResult : Obligations.FrameResult := by
  unfold Obligations.FrameResult
  intro sl d ch fb hd
  obtain ⟨hstate, hseq, hkind, hbuf, hbits, _⟩ := sl.frameDecode_keeps ch fb
  refine ⟨sl.frameDecode_ends ch fb d hd, ?_⟩
  subst hd
  refine ⟨hstate, hseq, hkind, hbuf, hbits, sl.frameDecode_inBounds ch fb, fun _ hch hfb hcoded hgood => ?_⟩
  obtain ⟨u, hlegal, hsound, hbit, h⟩ := Slot.frameDecode_coded hcoded (Slot.frameDecode_reached hgood)
  refine ⟨_, _, h.decoded hlegal hsound hch hfb, h.codeAt_zero hbit, ?_, ?_, fun rest hrest => ?_, fun j c hj hc => ?_⟩
  · rw [h.acBase, h.br]
  · rw [h.acLen, h.br, BitReader.remaining]
  · exact h.good_iff hlegal hch hfb hrest
  · exact h.bufByte hj hc

end Sys2Proof.Machine
end

section
/-! PROOFS (O55). The ring of decode slots (44_dst_pool.md R340). Only five operations touch it: a submission, a
collection, the clearing of the ring, the reset, and a change of a slot that keeps its number and whether it holds a job.
Each is shown once to keep `State.RingInv`; the commands and the step are assembled from them. -/

-- One thread: the check limits the memory of a compile, and each thread reserves its own.
set_option Elab.async false

namespace Sys2Proof.Machine

/-! ## Places in the ring -/

theorem State.ringFull_iff (s : State) : s.ringFull = true ↔ Config.nSlots ≤ s.pool.ringCount := decide_eq_true_iff

theorem State.ringSlot_lt (s : State) (j : Nat) : s.ringSlot j < Config.nSlots := Nat.mod_lt _ Config.nSlots_pos

/-- Two of the first `N_SLOTS` places after `tail` are different slots. -/
theorem State.ringSlot_inj (s : State) {i j : Nat} (hi : i < Config.nSlots) (hj : j < Config.nSlots)
    (h : s.ringSlot i = s.ringSlot j) : i = j := by
  have hmod : i ≡ j [MOD Config.nSlots] := Nat.ModEq.add_left_cancel' s.pool.tail h
  rwa [Nat.ModEq, Nat.mod_eq_of_lt hi, Nat.mod_eq_of_lt hj] at hmod

theorem State.ringSlot_zero {s : State} (h : s.pool.tail < Config.nSlots) : s.ringSlot 0 = s.pool.tail :=
  Nat.mod_eq_of_lt h

theorem State.ringSlot_enqueue (s : State) (sl : Slot) (j : Nat) : (s.enqueue sl).ringSlot j = s.ringSlot j := rfl

/-- With the oldest job gone every place is one nearer. -/
theorem State.ringSlot_dequeue (s : State) (j : Nat) : s.dequeue.ringSlot j = s.ringSlot (j + 1) := by
  show ((s.pool.tail + 1) % Config.nSlots + j) % Config.nSlots = (s.pool.tail + (j + 1)) % Config.nSlots
  rw [Nat.mod_add_mod, Nat.add_assoc, Nat.add_comm 1]

section places
variable {s : State} (h : s.RingInv)
include h

/-- The slot at `head` holds no job while the ring is not full. -/
theorem State.RingInv.ringSlot_ne_head {j : Nat} (hroom : s.pool.ringCount < Config.nSlots) (hj : j < s.pool.ringCount) :
    s.ringSlot j ≠ s.pool.head := fun he =>
  Nat.ne_of_lt hj (s.ringSlot_inj (hj.trans hroom) hroom (he.trans h.head_eq))

/-- The younger jobs are not in the slot at `tail`. -/
theorem State.RingInv.ringSlot_succ_ne_tail {j : Nat} (hj : j + 1 < s.pool.ringCount) :
    s.ringSlot (j + 1) ≠ s.pool.tail := fun he =>
  Nat.succ_ne_zero j (s.ringSlot_inj (hj.trans_le h.count_le) Config.nSlots_pos
    (he.trans (State.ringSlot_zero h.tail_lt).symm))

/-- The next handle is as far from the oldest as there are jobs. -/
theorem State.RingInv.submitSeq_eq : s.pool.submitSeq = s.pool.collectSeq + BitVec.ofNat 32 s.pool.ringCount := by
  rw [← h.seq, BitVec.ofNat_toNat, BitVec.setWidth_eq, add_sub_cancel]

end places

/-! ## The operations on the ring -/

/-- The invariant speaks of the slots and the pool alone. -/
theorem State.RingInv.of_same {s t : State} (h : s.RingInv) (hslots : t.slots = s.slots) (hpool : t.pool = s.pool) :
    t.RingInv := by
  obtain ⟨hcount, htail, hseq, hhead, hjobs, hothers⟩ := h
  simp only [State.ringSlot, State.slot, ← hslots, ← hpool] at hcount htail hseq hhead hjobs hothers
  exact ⟨hcount, htail, hseq, hhead, hjobs, hothers⟩

/-- The registers of the ring in one pool are those of another. -/
structure Pool.SameRing (p q : Pool) : Prop where
  head : q.head = p.head
  tail : q.tail = p.tail
  ringCount : q.ringCount = p.ringCount
  submitSeq : q.submitSeq = p.submitSeq
  collectSeq : q.collectSeq = p.collectSeq

/-- The number of the slot is kept, and whether it is `FREE`. -/
structure Slot.SameJob (sl sl' : Slot) : Prop where
  slotSeq : sl'.slotSeq = sl.slotSeq
  free : sl'.slotState = .free ↔ sl.slotState = .free

theorem Slot.SameJob.refl (sl : Slot) : sl.SameJob sl := ⟨rfl, Iff.rfl⟩

theorem Slot.SameJob.of_eq {sl sl' : Slot} (hseq : sl'.slotSeq = sl.slotSeq) (hstate : sl'.slotState = sl.slotState) :
    sl.SameJob sl' := ⟨hseq, by rw [hstate]⟩

theorem Slot.SameJob.trans {a b c : Slot} (h : a.SameJob b) (h' : b.SameJob c) : a.SameJob c :=
  ⟨h'.slotSeq.trans h.slotSeq, h'.free.trans h.free⟩

/-- What changes neither a register of the ring nor the job of a slot keeps the invariant. -/
theorem State.RingInv.of_sameJobs {s t : State} (h : s.RingInv) (hpool : s.pool.SameRing t.pool)
    (hjob : ∀ k, (s.slot k).SameJob (t.slot k)) : t.RingInv := by
  have hplace : ∀ j, t.ringSlot j = s.ringSlot j := fun j => by rw [State.ringSlot, State.ringSlot, hpool.tail]
  refine ⟨?_, ?_, ?_, ?_, fun j hj => ?_, fun k hk => ?_⟩
  · exact hpool.ringCount ▸ h.count_le
  · exact hpool.tail ▸ h.tail_lt
  · rw [hpool.submitSeq, hpool.collectSeq, hpool.ringCount]
    exact h.seq
  · rw [hpool.head, hpool.ringCount, hplace]
    exact h.head_eq
  · rw [hpool.ringCount] at hj
    obtain ⟨hused, hseq⟩ := h.jobs j hj
    rw [hplace, hpool.collectSeq, (hjob _).slotSeq]
    exact ⟨fun hfree => hused ((hjob _).free.mp hfree), hseq⟩
  · refine (hjob k).free.mpr (h.others k fun j hj => ?_)
    rw [← hplace]
    exact hk j (hpool.ringCount.symm ▸ hj)

theorem Pool.SameRing.refl (p : Pool) : p.SameRing p := ⟨rfl, rfl, rfl, rfl, rfl⟩

/-- The decode of a frame, and the step of the slot's agent (43_dst_residual.md R300, 44_dst_pool.md R344). -/
theorem State.decodeOf_sameJob (s : State) (sl : Slot) : sl.SameJob (s.decodeOf sl) :=
  have hkeeps := sl.frameDecode_keeps s.pool.dstCh s.pool.dstFb
  .of_eq hkeeps.2.1 hkeeps.1

theorem State.stepped_sameJob (s : State) (sl : Slot) : sl.SameJob (s.stepped sl) := by
  refine ⟨(s.stepped_keeps sl).2.1, ?_⟩
  by_cases hbusy : sl.slotState = .busy
  · rw [s.stepped_busy sl hbusy, hbusy]
    exact iff_of_false SlotState.noConfusion SlotState.noConfusion
  · rw [s.stepped_idle sl hbusy]

theorem State.retire_pool (s : State) : s.retire.pool = s.pool := by
  obtain ⟨_, hr⟩ | ⟨_, hr⟩ := s.retire_cases <;> rw [hr] <;> rfl

section updates
variable {s : State} (h : s.RingInv)
include h

theorem State.RingInv.of_fxOnly {t : State} (ht : s.FxOnly t) : t.RingInv :=
  h.of_same (by rw [ht.frame]) (by rw [ht.frame])

theorem State.RingInv.setSlot {k : Nat} {sl : Slot} (hsl : (s.slot k).SameJob sl) : (s.setSlot k sl).RingInv := by
  refine h.of_sameJobs (.refl _) fun j => ?_
  rw [State.slot_setSlot]
  split
  · next hj => exact hj ▸ hsl
  · exact .refl _

theorem State.RingInv.slotStep (k : Nat) : (s.slotStep k).RingInv := h.setSlot (s.stepped_sameJob _)

theorem State.RingInv.retireFailed (k : Nat) : (s.retireFailed k).RingInv := by
  refine h.of_sameJobs (.refl _) fun j => ?_
  rw [State.slot_retireFailed]
  split
  · next hj => exact hj ▸ .of_eq rfl rfl
  · exact .refl _

theorem State.RingInv.retire : s.retire.RingInv := by
  obtain ⟨_, hr⟩ | ⟨_, hr⟩ := s.retire_cases <;> rw [hr]
  · exact h.slotStep _
  · exact (h.slotStep _).retireFailed _

theorem State.RingInv.drainBusy : s.drainBusy.RingInv := by
  refine h.of_sameJobs (.refl _) fun j => ?_
  rw [State.slot_drainBusy]
  exact s.stepped_sameJob _

theorem State.RingInv.runFrame (b : Byte) : (s.runFrame b).RingInv := by
  have hbyte : (s.slot s.frameSlot).SameJob ((s.slot s.frameSlot).withFirstByte b) := .of_eq rfl rfl
  refine State.RingInv.of_same (h.setSlot (k := s.frameSlot) (hbyte.trans ?_)) rfl rfl
  split
  · exact s.stepped_sameJob _
  · exact s.decodeOf_sameJob _

/-- A submission, there being room: the slot at `head` holds the youngest job (44_dst_pool.md R342, R346). -/
theorem State.RingInv.enqueue {sl : Slot} (hroom : s.pool.ringCount < Config.nSlots) (hused : sl.slotState ≠ .free)
    (hseq : sl.slotSeq = s.pool.submitSeq) : (s.enqueue sl).RingInv := by
  have hlast := h.submitSeq_eq
  refine ⟨hroom, h.tail_lt, ?_, ?_, fun j hj => ?_, fun k hk => ?_⟩
  · show (s.pool.submitSeq + 1 - s.pool.collectSeq).toNat = s.pool.ringCount + 1
    have hle := Config.nSlots_le
    rw [hlast]
    bv_omega
  · show (s.pool.head + 1) % Config.nSlots = (s.pool.tail + (s.pool.ringCount + 1)) % Config.nSlots
    rw [h.head_eq, State.ringSlot, Nat.mod_add_mod, Nat.add_assoc]
  · rw [State.slot_enqueue, State.ringSlot_enqueue]
    obtain hj | rfl := Nat.lt_succ_iff_lt_or_eq.mp hj
    · rw [if_neg (h.ringSlot_ne_head hroom hj)]
      exact h.jobs j hj
    · rw [if_pos h.head_eq.symm]
      exact ⟨hused, hseq.trans hlast⟩
  · rw [State.slot_enqueue, if_neg (h.head_eq ▸ hk _ (Nat.lt_succ_self s.pool.ringCount))]
    exact h.others k fun j hj => hk j (Nat.lt_succ_of_lt hj)

theorem State.RingInv.submitBody (hroom : s.pool.ringCount < Config.nSlots) (bytes : List Byte) :
    (s.submitBody bytes).RingInv := h.enqueue hroom SlotState.noConfusion rfl

theorem State.RingInv.submitDsdBody (hroom : s.pool.ringCount < Config.nSlots) (bytes : List Byte) :
    (s.submitDsdBody bytes).RingInv := h.enqueue hroom SlotState.noConfusion rfl

/-- The oldest job leaves: the slot at `tail` is `FREE` (44_dst_pool.md R343). -/
theorem State.RingInv.dequeue (hsome : 0 < s.pool.ringCount) : s.dequeue.RingInv := by
  have hlast := h.submitSeq_eq
  have hcount := h.count_le
  refine ⟨Nat.le_trans (Nat.sub_le _ 1) h.count_le, Nat.mod_lt _ Config.nSlots_pos, ?_, ?_, fun j hj => ?_,
    fun k hk => ?_⟩
  · show (s.pool.submitSeq - (s.pool.collectSeq + 1)).toNat = s.pool.ringCount - 1
    have hle := Config.nSlots_le
    rw [hlast]
    bv_omega
  · show s.pool.head = s.dequeue.ringSlot (s.pool.ringCount - 1)
    rw [State.ringSlot_dequeue, Nat.sub_add_cancel hsome]
    exact h.head_eq
  · have hj' : j + 1 < s.pool.ringCount := Nat.add_lt_of_lt_sub hj
    obtain ⟨hused, hseq⟩ := h.jobs (j + 1) hj'
    rw [State.ringSlot_dequeue, State.slot_dequeue, if_neg (h.ringSlot_succ_ne_tail hj')]
    refine ⟨hused, hseq.trans ?_⟩
    show s.pool.collectSeq + BitVec.ofNat 32 (j + 1) = s.pool.collectSeq + 1 + BitVec.ofNat 32 j
    bv_omega
  · rw [State.slot_dequeue]
    split
    · rfl
    · next hk' =>
      refine h.others k fun j hj => ?_
      cases j with
      | zero => rwa [State.ringSlot_zero h.tail_lt]
      | succ j =>
        rw [← State.ringSlot_dequeue]
        exact hk j (Nat.lt_sub_of_add_lt hj)

theorem State.RingInv.collectBody (hsome : 0 < s.pool.ringCount) : s.collectBody.2.RingInv :=
  h.retire.dequeue (s.retire_pool.symm ▸ hsome)

end updates

/-- The empty ring, whatever was in the slots (44_dst_pool.md R341, 48_session.md R558). -/
theorem State.clearRing_ringInv (s : State) (ch : Nat) : (s.clearRing ch).RingInv := by
  refine ⟨Nat.zero_le _, Config.nSlots_pos, (by decide : ((0 : Word) - 0).toNat = 0), (Nat.zero_mod _).symm,
    fun j hj => absurd hj (Nat.not_lt_zero j), fun k _ => ?_⟩
  rw [State.slot_clearRing]
  rfl

theorem State.toReset_ringInv (s : State) : s.toReset.RingInv :=
  ⟨Nat.zero_le _, Config.nSlots_pos, (by decide : ((0 : Word) - 0).toNat = 0), (Nat.zero_mod _).symm,
    fun j hj => absurd hj (Nat.not_lt_zero j), fun k _ => congrArg Slot.slotState (slotAt_nil k)⟩

/-- A session starts with the ring cleared (48_session.md R545). -/
theorem State.startSession_ringInv (s : State) (pcm : Nat) : (s.startSession pcm).RingInv :=
  (s.clearRing_ringInv s.fx.ch).of_sameJobs ⟨rfl, rfl, rfl, rfl, rfl⟩ fun _ => .refl _

/-! ## The read-ahead of DECODE_NEXT -/

theorem State.RingInv.submitFrame {s : State} (h : s.RingInv) (hroom : s.pool.ringCount < Config.nSlots) (f : Frame) :
    (s.submitFrame f).RingInv := by
  unfold State.submitFrame
  split
  · exact h
  · split
    · exact h.submitBody hroom _
    · exact h.submitDsdBody hroom _
    · exact h.submitDsdBody hroom _

/-- The read-ahead submits a frame only while there is room (48_session.md R550). -/
theorem State.RingInv.fillRing (fuel : Nat) {s : State} (h : s.RingInv) : (State.fillRing fuel s).RingInv := by
  induction fuel generalizing s with
  | zero => exact h
  | succ fuel ih =>
    have hread := h.of_fxOnly s.readFrameBody_only
    have hpool : s.readFrameBody.2.pool = s.pool := by rw [s.readFrameBody_only.frame]
    rw [State.fillRing]
    split
    · next hon =>
      split
      · next hr =>
        rw [hr] at hread
        exact hread
      · next f t hr =>
        rw [hr] at hread hpool
        exact ih (hread.submitFrame (hpool.symm ▸ hon.2) f)
    · exact h

theorem State.RingInv.decodeNextBody {s : State} (h : s.RingInv) : s.decodeNextBody.2.RingInv := by
  unfold State.decodeNextBody
  have hfill := h.fillRing (2 ^ 70)
  generalize State.fillRing (2 ^ 70) s = t at hfill
  dsimp only
  split
  · next hsome => exact (hfill.collectBody hsome).of_same rfl rfl
  · unfold State.flushTrack
    split <;> exact hfill.of_same rfl rfl

/-! ## Outcomes that keep the invariant -/

/-- The next state of an outcome, if it has one, meets the invariant of the ring. -/
def RingKept (o : Out) : Prop := ∀ t, o = .next t → t.RingInv

theorem State.RingInv.next {s : State} (h : s.RingInv) : RingKept (.next s) := by
  rintro t ⟨⟩
  exact h

section gates
variable {s : State} (h : s.RingInv)
include h

theorem State.RingInv.ok (v : Value) : RingKept (s.ok v) := (h.of_same rfl rfl : (s.respond v).RingInv).next

theorem State.RingInv.fail (e : Exc) (v : Value) : RingKept (s.fail e v) :=
  (h.of_same rfl rfl : (s.raise e v).RingInv).next

theorem State.RingInv.emit (bytes : List Byte) : (s.emit bytes).RingInv := h.of_same rfl rfl

theorem State.RingInv.finish (r : Reply) : RingKept (s.finish r) := by
  unfold State.finish
  split
  · exact (h.emit _).ok _
  · exact (h.emit _).fail _ _

/-- A check that refuses the command, as `unlessOwned`, `withConverter`, `withTrack`, `withContainer` and every operand
check do. -/
theorem State.RingInv.check {c : Prop} [Decidable c] {e : Exc} {v : Value} {k : Out} (hk : ¬ c → RingKept k) :
    RingKept (if c then s.fail e v else k) := by
  split
  · exact h.fail e v
  · next hc => exact hk hc

/-- The gates in front of a command on the selected slot (40_bitreader.md R200 (a), 48_session.md R542). -/
theorem State.RingInv.slotCommand {k : Slot → Out} (hk : RingKept (k s.selected)) :
    RingKept (s.unlessOwned (s.withFreeSlot k)) := by
  refine h.check fun _ => ?_
  unfold State.withFreeSlot
  split
  · exact hk
  · exact h.fail _ _

/-- The gates in front of a converter command (48_session.md R542, 60_exceptions.md R602). -/
theorem State.RingInv.converterCommand {k : Pc → Out} (hk : RingKept (k s.pc)) :
    RingKept (s.unlessOwned (s.withConverter k)) := h.check fun _ => h.check fun _ => hk

theorem State.RingInv.containerValue (v : Value) : RingKept (s.withContainer (s.ok v)) := h.check fun _ => h.ok v

/-- A command that waits for its bytes, or takes them and goes on with the same ring. -/
theorem State.RingInv.takeDin {n : Nat} {i : Instr} {k : List Byte → State → Out}
    (hk : ({ s with din := s.din.drop n } : State).RingInv → RingKept (k (s.din.take n) { s with din := s.din.drop n })) :
    RingKept (s.takeDin n i k) := by
  unfold State.takeDin
  split
  · exact (h.of_same rfl rfl : (s.hold i).RingInv).next
  · exact hk (h.of_same rfl rfl)

theorem State.RingInv.setSelected {sl : Slot} (hsl : s.selected.SameJob sl) : (s.setSelected sl).RingInv := h.setSlot hsl

/-- A command on the selected slot changes its BitReader and its arithmetic decoder (40_bitreader.md R200). -/
theorem State.RingInv.answerRead (r : Option Value × BitReader) : RingKept (s.answerRead r) := by
  have hslot : (s.setSelected { s.selected with br := r.2 }).RingInv := h.setSelected (.of_eq rfl rfl)
  unfold State.answerRead
  split
  · exact hslot.ok _
  · exact hslot.fail _ _

end gates

/-! ## The commands -/

section commands
variable {s : State} (h : s.RingInv)
include h

theorem execBrLoad_ringKept (size : Nat) : RingKept (execBrLoad size s) :=
  h.slotCommand <| h.check fun _ => h.takeDin fun hdin =>
    State.RingInv.ok (hdin.setSelected (sl := s.selected.brLoad (s.din.take size)) (.of_eq rfl rfl)) _

theorem execAcDecode_ringKept (p flush : Nat) : RingKept (execAcDecode p flush s) := by
  have hset : ∀ ac, (s.setSelected { s.selected with ac := ac }).RingInv := fun _ => h.setSelected (.of_eq rfl rfl)
  refine h.slotCommand ?_
  split
  · exact h.fail _ _
  · exact (hset _).ok _
  · refine h.check fun _ => ?_
    dsimp only
    split
    · rintro t ⟨⟩
    · exact (hset _).ok _

theorem execDstDecode_ringKept : RingKept (execDstDecode s) := by
  refine h.slotCommand <| h.check fun _ => ?_
  have hdecode : (s.setSelected (s.decodeOf s.selected)).RingInv := h.setSelected (s.decodeOf_sameJob _)
  dsimp only
  split
  · exact hdecode.ok _
  · exact (hdecode.retireFailed _).fail _ _

theorem execPoolInit_ringKept (ch : Nat) : RingKept (execPoolInit ch s) :=
  h.check fun _ => h.check fun _ => h.check fun _ => (s.clearRing_ringInv ch).ok _

theorem State.RingInv.sentinel : RingKept s.sentinel := by
  refine h.check fun _ => State.RingInv.ok ?_ _
  exact h.drainBusy.of_sameJobs ⟨rfl, rfl, rfl, rfl, rfl⟩ fun _ => .refl _

theorem execSubmit_ringKept (size : Nat) : RingKept (execSubmit size s) := by
  refine h.check fun _ => ?_
  split
  · exact h.sentinel
  · refine h.check fun _ => h.check fun _ => ?_
    split
    · exact State.RingInv.next (h.of_same rfl rfl)
    · next hfull =>
      rw [State.ringFull_iff, Nat.not_le] at hfull
      exact h.takeDin fun hdin => (hdin.submitBody hfull _).ok _

theorem execSubmitDsd_ringKept (size : Nat) : RingKept (execSubmitDsd size s) := by
  refine h.check fun _ => h.check fun _ => h.check fun _ => ?_
  split
  · exact State.RingInv.next (h.of_same rfl rfl)
  · next hfull =>
    rw [State.ringFull_iff, Nat.not_le] at hfull
    exact h.takeDin fun hdin => (hdin.submitDsdBody hfull _).ok _

theorem execCollect_ringKept (handle : Nat) : RingKept (execCollect handle s) :=
  h.check fun _ => h.check fun hsome => h.check fun _ => (h.collectBody (Nat.pos_of_ne_zero hsome)).finish _

theorem State.RingInv.setPc (pc : Pc) : ({ s with pc := pc } : State).RingInv := h.of_same rfl rfl

theorem execPcInit_ringKept (ch dsd pcm : Nat) : RingKept (execPcInit ch dsd pcm s) := by
  refine h.check fun _ => h.check fun _ => ?_
  split
  · exact h.fail _ _
  · exact h.fail _ _
  · exact (h.setPc _).ok _

theorem execPcConvert_ringKept (size : Nat) : RingKept (execPcConvert size s) :=
  h.converterCommand <| h.check fun _ => h.takeDin fun hdin => (hdin.setPc _).ok _

theorem execPcDegibbs_ringKept (side n : Nat) : RingKept (execPcDegibbs side n s) := by
  refine h.converterCommand ?_
  split
  · exact h.fail _ _
  · exact h.check fun _ => (h.setPc _).ok _

theorem execOpen_ringKept (kind : Nat) : RingKept (execOpen kind s) := by
  unfold execOpen
  split
  · exact h.fail _ _
  · next k _ =>
    refine h.check fun _ => ?_
    have hparse := (h.of_fxOnly (s.setFx_only Fx.reset)).of_fxOnly (fxOpen_only k s.resetFx)
    split
    · next t ht =>
      rw [ht] at hparse
      exact (hparse.of_same rfl rfl : ({ t with sess := .opened } : State).RingInv).ok _
    · next e t ht =>
      rw [ht] at hparse
      exact (hparse.of_fxOnly (t.setFx_only Fx.reset)).fail _ _

theorem execSetTrack_ringKept (track area : Nat) : RingKept (execSetTrack track area s) := by
  refine h.check fun _ => h.check fun _ => ?_
  split
  · exact h.fail _ _
  · next a _ =>
    refine h.check fun _ => ?_
    have hread := h.of_fxOnly (s.readTrackList_only track a)
    split
    · next hr =>
      rw [hr] at hread
      exact hread.fail _ _
    · next list t hr =>
      rw [hr] at hread
      exact (hread.of_same rfl rfl : (t.setTrackBody track a list).RingInv).ok _

theorem execInitTrack_ringKept (track area pcm : Nat) : RingKept (execInitTrack track area pcm s) := by
  refine h.check fun _ => ?_
  split
  · exact h.fail _ _
  · exact h.fail _ _
  · next a rate _ _ =>
    refine h.check fun _ => h.check fun _ => ?_
    have hread := h.of_fxOnly (s.readTrackList_only track a)
    split
    · next hr =>
      rw [hr] at hread
      exact hread.fail _ _
    · next list t hr =>
      exact (State.startSession_ringInv (t.drainBusy.setTrackBody track a list) rate).ok _

theorem execReadFrame_ringKept : RingKept (execReadFrame s) := by
  refine h.check fun _ => h.check fun _ => ?_
  have hread := h.of_fxOnly s.readFrameBody_only
  split
  · next hr =>
    rw [hr] at hread
    exact hread.ok _
  · next hr =>
    rw [hr] at hread
    exact (hread.emit _).ok _

theorem execSeek_ringKept (frame : Nat) : RingKept (execSeek frame s) := by
  refine h.check fun _ => h.check fun _ => ?_
  have hseek := h.of_fxOnly (s.seekKind_only frame)
  split
  · next hr =>
    rw [hr] at hseek
    exact hseek.fail _ _
  · next t hr =>
    rw [hr] at hseek
    exact (hseek.of_fxOnly (t.setFx_only _)).ok _

theorem execRdreg_ringKept (idx : Nat) : RingKept (execRdreg idx s) := by
  unfold execRdreg
  split
  · exact h.ok _
  · exact h.fail _ _

/-- `DST_FB` is a register of the pool but not of the ring. -/
theorem State.RingInv.writeReg (r : WritableReg) (v : Nat) : (s.writeReg r v).RingInv := by
  cases r with
  | dstFb => exact h.of_sameJobs ⟨rfl, rfl, rfl, rfl, rfl⟩ fun _ => .refl _
  | warnThreshold => exact h.of_same rfl rfl
  | slotSel => exact h.of_same rfl rfl
  | ditherDepth => exact h.of_same rfl rfl
  | ditherSeedLo => exact h.of_same rfl rfl
  | ditherSeedHi => exact h.of_same rfl rfl
  | silenceByte => exact h.of_same rfl rfl

theorem execWrreg_ringKept (idx imm16 : Nat) : RingKept (execWrreg idx imm16 s) := by
  unfold execWrreg
  split
  · exact h.fail _ _
  · next r _ => exact h.check fun _ => h.check fun _ => h.check fun _ => (h.writeReg r imm16).ok _

/-! ## The step -/

/-- Every instruction keeps the invariant of the ring. -/
theorem exec_ringKept (i : Instr) : RingKept (exec i s) := by
  cases i with
  | nop => exact h.ok _
  | reset => exact s.toReset_ringInv.ok _
  | openMedium kind => exact execOpen_ringKept h kind
  | initTrack track area pcm => exact execInitTrack_ringKept h track area pcm
  | decodeNext => exact h.check fun _ => h.decodeNextBody.finish _
  | close => exact State.RingInv.ok ((s.drainBusy.clearRing_ringInv 0).of_same rfl rfl : s.closeBody.RingInv) _
  | rdreg idx => exact execRdreg_ringKept h idx
  | wrreg idx imm16 => exact execWrreg_ringKept h idx imm16
  | setTrack track area => exact execSetTrack_ringKept h track area
  | readFrame => exact execReadFrame_ringKept h
  | seek frame => exact execSeek_ringKept h frame
  | getChannels => exact h.containerValue _
  | getSamplerate => exact h.containerValue _
  | getFramerate => exact h.containerValue _
  | getProgress => exact h.containerValue _
  | poolInit ch => exact execPoolInit_ringKept h ch
  | submit size => exact execSubmit_ringKept h size
  | submitDsd size => exact execSubmitDsd_ringKept h size
  | collect handle => exact execCollect_ringKept h handle
  | dstDecode => exact execDstDecode_ringKept h
  | slotRead => exact h.slotCommand ((h.emit _).ok _)
  | brLoad size => exact execBrLoad_ringKept h size
  | brReadBit => exact h.slotCommand (h.answerRead _)
  | brReadBits n => exact h.slotCommand (h.check fun _ => h.answerRead _)
  | brReadSigned n => exact h.slotCommand (h.check fun _ => h.answerRead _)
  | brReadByteAligned => exact h.slotCommand (h.answerRead _)
  | brRice m => exact h.slotCommand (h.check fun _ => h.answerRead _)
  | acStart => exact h.slotCommand (State.RingInv.ok (h.setSelected (sl := s.selected.acStart) (.of_eq rfl rfl)) _)
  | acDecode p flush => exact execAcDecode_ringKept h p flush
  | acQuantize len pred => exact h.check fun _ => h.ok _
  | pcInit ch dsd pcm => exact execPcInit_ringKept h ch dsd pcm
  | pcConvert size => exact execPcConvert_ringKept h size
  | pcGetDelay => exact h.check fun _ => h.ok _
  | pcIsConvertCalled => exact h.ok _
  | pcDegibbs side n => exact execPcDegibbs_ringKept h side n
  | pcPack skip count => exact h.converterCommand (h.check fun _ => (h.emit _).ok _)
  | pcReadf => exact h.converterCommand ((h.emit _).ok _)
  | dstfCoded x => exact (h.runFrame _).next
  | dstfPlain x => exact (h.runFrame _).next

theorem step_ringKept : RingKept (step s) := by
  have hcases := step_cases s
  generalize step s = o at hcases
  cases hcases with
  | reset _ => exact s.toReset_ringInv.next
  | stay => exact h.next
  | noFrame k ks _ => exact State.RingInv.next (h.of_same rfl rfl)
  | badFrame k ks _ _ => exact State.RingInv.next ((h.slotStep k).of_same rfl rfl)
  | frame i _ _ => exact exec_ringKept h i
  | held i _ _ => exact exec_ringKept (s := { s with held := none }) (h.of_same rfl rfl) i
  | command w ws i _ _ _ _ => exact exec_ringKept (s := { s with cmd := ws }) (h.of_same rfl rfl) i
  | illegal w ws _ => exact State.RingInv.next (h.of_same rfl rfl)

end commands

/-- Settles O55: every step keeps the invariants of the ring. -/
theorem ringStaysConsistent : Obligations.RingStaysConsistent := by
  unfold Obligations.RingStaysConsistent
  exact fun s t h hstep => step_ringKept h t hstep

end Sys2Proof.Machine
end

section
/-! PROOFS (O36, O37, O7). The commands of the ring (44_dst_pool.md R341 to R347): each is run once behind its checks, in
the order of the checks, and the refusals and completions of the statements are those runs. -/

-- One thread: the check limits the memory of a compile, and each thread reserves its own.
set_option Elab.async false

open Sys2Proof.Claims

namespace Sys2Proof.Machine

/-! ## POOL_INIT (44_dst_pool.md R341) -/

section poolInit
variable {s : State} (hfree : s.sess ≠ .track) {ch : Nat}
include hfree

theorem execPoolInit_refused (hch : ch = 0 ∨ 6 < ch) : execPoolInit ch s = .next (s.refusedWith 2 ch) := by
  have hillegal : channelsLegal ch = false := by
    rw [← Bool.not_eq_true, channelsLegal_iff]
    omega
  exact (s.unlessOwned_free _ hfree).trans ((if_pos hillegal).trans (s.fail_eq .eOperand ch))

/-- Behind the check of the channel count. -/
theorem execPoolInit_legalCount (hlo : 1 ≤ ch) (hhi : ch ≤ 6) : execPoolInit ch s =
    if s.pool.ringCount ≠ 0 then s.fail .eState (val s.pool.ringCount) else (s.clearRing ch).ok (val Config.nSlots) := by
  have hlegal : ¬ channelsLegal ch = false := by
    rw [Bool.not_eq_false, channelsLegal_iff]
    exact ⟨hlo, hhi⟩
  exact (s.unlessOwned_free _ hfree).trans (if_neg hlegal)

theorem execPoolInit_used (hlo : 1 ≤ ch) (hhi : ch ≤ 6) (hused : s.pool.ringCount ≠ 0) :
    execPoolInit ch s = .next (s.refusedWith 3 s.pool.ringCount) := by
  rw [execPoolInit_legalCount hfree hlo hhi, if_pos hused]
  exact s.fail_eq .eState _

theorem execPoolInit_empty (hlo : 1 ≤ ch) (hhi : ch ≤ 6) (hempty : s.pool.ringCount = 0) :
    execPoolInit ch s = .next ((s.clearRing ch).okWith (val Config.nSlots)) := by
  rw [execPoolInit_legalCount hfree hlo hhi, if_neg (not_not_intro hempty), State.ok_eq]

end poolInit

/-! ## SUBMIT, SUBMIT_DSD and the sentinel (44_dst_pool.md R342, R345 to R347) -/

/-- The pool takes frames. -/
theorem State.pool_takes {s : State} (hch : s.pool.dstCh ≠ 0) (hdraining : s.pool.draining = false) :
    ¬ (s.pool.dstCh = 0 ∨ s.pool.draining = true) := by
  rw [hdraining]
  exact not_or_intro hch Bool.false_ne_true

section submit
variable {s : State} (hfree : s.sess ≠ .track) {size : Nat}
include hfree

theorem execSubmit_sentinel : execSubmit 0 s = s.sentinel := (s.unlessOwned_free _ hfree).trans (if_pos rfl)

theorem execSubmit_closed (hsize : size ≠ 0) (hclosed : s.pool.dstCh = 0 ∨ s.pool.draining = true) :
    execSubmit size s = .next (s.refusedWith 3 0) :=
  (s.unlessOwned_free _ hfree).trans <| (if_neg hsize).trans <| (if_pos hclosed).trans (s.fail_eq .eState 0)

theorem execSubmitDsd_closed (hclosed : s.pool.dstCh = 0 ∨ s.pool.draining = true) :
    execSubmitDsd size s = .next (s.refusedWith 3 0) :=
  (s.unlessOwned_free _ hfree).trans <| (if_pos hclosed).trans (s.fail_eq .eState 0)

variable (hch : s.pool.dstCh ≠ 0) (hdraining : s.pool.draining = false)
include hch hdraining

theorem execSubmit_tooLong (hsize : 112897 < size) : execSubmit size s = .next (s.refusedWith 2 size) :=
  (s.unlessOwned_free _ hfree).trans <| (if_neg (by omega)).trans <|
    (if_neg (State.pool_takes hch hdraining)).trans <| (if_pos hsize).trans (s.fail_eq .eOperand size)

theorem execSubmitDsd_badLength (hsize : size = 0 ∨ 225792 < size) :
    execSubmitDsd size s = .next (s.refusedWith 2 size) :=
  (s.unlessOwned_free _ hfree).trans <| (if_neg (State.pool_takes hch hdraining)).trans <|
    (if_pos hsize).trans (s.fail_eq .eOperand size)

/-- Behind the checks of `SUBMIT`. -/
theorem execSubmit_checked (hlo : 1 ≤ size) (hhi : size ≤ 112897) : execSubmit size s =
    if s.ringFull = true then .next (s.jam (.submit size))
    else s.takeDin size (.submit size) fun bytes s' => (s'.submitBody bytes).ok (val s.pool.submitSeq.toNat) :=
  (s.unlessOwned_free _ hfree).trans <| (if_neg (by omega)).trans <|
    (if_neg (State.pool_takes hch hdraining)).trans (if_neg (Nat.not_lt.mpr hhi))

/-- Behind the checks of `SUBMIT_DSD`. -/
theorem execSubmitDsd_checked (hlo : 1 ≤ size) (hhi : size ≤ 225792) : execSubmitDsd size s =
    if s.ringFull = true then .next (s.jam (.submitDsd size))
    else s.takeDin size (.submitDsd size) fun bytes s' => (s'.submitDsdBody bytes).ok (val s.pool.submitSeq.toNat) :=
  (s.unlessOwned_free _ hfree).trans <| (if_neg (State.pool_takes hch hdraining)).trans <|
    if_neg (show ¬ (size = 0 ∨ 225792 < size) by omega)

end submit

theorem State.not_ringFull {s : State} (hroom : s.pool.ringCount < Config.nSlots) : ¬ s.ringFull = true := by
  rw [State.ringFull_iff]
  exact Nat.not_le.mpr hroom

section room
variable {s : State} (h : ringOpen s) {size : Nat} (hlo : 1 ≤ size) (hdin : size ≤ s.din.length)
include h hlo hdin

/-- `SUBMIT` with a slot free and the bytes there (44_dst_pool.md R342). -/
theorem execSubmit_room (hhi : size ≤ 112897) : execSubmit size s =
    .next ((({ s with din := s.din.drop size } : State).submitBody (s.din.take size)).okWith
      (val s.pool.submitSeq.toNat)) := by
  obtain ⟨hfree, hch, hdraining, hroom⟩ := h
  rw [execSubmit_checked hfree hch hdraining hlo hhi, if_neg (State.not_ringFull hroom), State.takeDin_full _ _ _ _ hdin,
    State.ok_eq]

/-- `SUBMIT_DSD` with a slot free and the bytes there (44_dst_pool.md R346). -/
theorem execSubmitDsd_room (hhi : size ≤ 225792) : execSubmitDsd size s =
    .next ((({ s with din := s.din.drop size } : State).submitDsdBody (s.din.take size)).okWith
      (val s.pool.submitSeq.toNat)) := by
  obtain ⟨hfree, hch, hdraining, hroom⟩ := h
  rw [execSubmitDsd_checked hfree hch hdraining hlo hhi, if_neg (State.not_ringFull hroom),
    State.takeDin_full _ _ _ _ hdin, State.ok_eq]

end room

theorem State.sentinel_noGeometry {s : State} (hch : s.pool.dstCh = 0) : s.sentinel = .next (s.refusedWith 3 0) :=
  (if_pos hch).trans (s.fail_eq .eState 0)

theorem State.sentinel_drains {s : State} (hch : s.pool.dstCh ≠ 0) : s.sentinel =
    .next (({ s.drainBusy with pool := { s.pool with draining := true } } : State).okWith (val s.pool.ringCount)) :=
  if_neg hch

/-! ## COLLECT (44_dst_pool.md R343) -/

section collect
variable {s : State} (hfree : s.sess ≠ .track) {handle : Nat}
include hfree

theorem execCollect_empty (hempty : s.pool.ringCount = 0) : execCollect handle s = .next (s.refusedWith 3 0) :=
  (s.unlessOwned_free _ hfree).trans <| (if_pos hempty).trans (s.fail_eq .eState 0)

theorem execCollect_order (hsome : s.pool.ringCount ≠ 0) (hhandle : handle ≠ s.pool.collectSeq.toNat % 2 ^ 24) :
    execCollect handle s = .next (s.refusedWith 4 s.pool.collectSeq.toNat) :=
  (s.unlessOwned_free _ hfree).trans <| (if_neg hsome).trans <| (if_pos hhandle).trans (s.fail_eq .eOrder _)

theorem execCollect_oldest (hsome : s.pool.ringCount ≠ 0) :
    execCollect (s.pool.collectSeq.toNat % 2 ^ 24) s = s.collectBody.2.finish s.collectBody.1 :=
  (s.unlessOwned_free _ hfree).trans <| (if_neg hsome).trans (if_neg (not_not_intro rfl))

end collect

/-! ## The statements -/

/-- Settles O36: `POOL_INIT` clears the ring, and each check refuses with its value. -/
theorem poolInitAndRefusals : Obligations.PoolInitAndRefusals := by
  unfold Obligations.PoolInitAndRefusals
  refine ⟨fun s ch hfree hlo hhi hempty => ⟨_, execPoolInit_empty hfree hlo hhi hempty, rfl, s.slot_clearRing ch⟩,
    fun s hfree => ⟨fun ch hch => execPoolInit_refused hfree hch,
      fun ch hlo hhi hused => execPoolInit_used hfree hlo hhi hused,
      fun hch => (execSubmit_sentinel hfree).trans (State.sentinel_noGeometry hch),
      fun size hclosed => ⟨fun hsize => execSubmit_closed hfree hsize hclosed, execSubmitDsd_closed hfree hclosed⟩,
      fun size hch hdraining => ⟨fun hsize => execSubmit_tooLong hfree hch hdraining hsize,
        fun hsize => execSubmitDsd_badLength hfree hch hdraining hsize⟩,
      fun handle hempty => execCollect_empty hfree hempty,
      fun handle hsome hhandle => execCollect_order hfree hsome hhandle⟩⟩

/-- Settles O37: the submissions load the slot at `head`, and the sentinel steps every slot. -/
theorem submitCompletes : Obligations.SubmitCompletes := by
  unfold Obligations.SubmitCompletes
  refine ⟨fun s size hopen hlo hdin => ?_, fun s hfree hch => ?_⟩
  · have hlen : (s.din.take size).length = size := List.length_take_of_le hdin
    refine ⟨fun hhi => ?_, fun hhi => ?_⟩
    · have hexec : exec (.submit size) s = _ := execSubmit_room hopen hlo hdin hhi
      rw [hexec, State.submitBody, Slot.loadDst, BitReader.load, overwrite, hlen]
      rfl
    · have hexec : exec (.submitDsd size) s = _ := execSubmitDsd_room hopen hlo hdin hhi
      rw [hexec, State.submitDsdBody, Slot.loadDsd, overwrite, hlen]
      rfl
  · refine ⟨_, (execSubmit_sentinel hfree).trans (State.sentinel_drains hch), rfl, fun j => ?_⟩
    exact s.slot_drainBusy j

/-! ## A stuck block (44_dst_pool.md R347) -/

/-- A submission to a full ring is held. -/
theorem exec_submission_full {s : State} {size : Nat} {i : Instr} (hi : i = .submit size ∨ i = .submitDsd size)
    (hfree : s.sess ≠ .track) (hch : s.pool.dstCh ≠ 0) (hdraining : s.pool.draining = false) (hlo : 1 ≤ size)
    (hdst : i = .submit size → size ≤ 112897) (hdsd : i = .submitDsd size → size ≤ 225792)
    (hfull : Config.nSlots ≤ s.pool.ringCount) : exec i s = .next (s.jam i) := by
  have hfull' : s.ringFull = true := s.ringFull_iff.mpr hfull
  obtain rfl | rfl := hi
  · exact (execSubmit_checked hfree hch hdraining hlo (hdst rfl)).trans (if_pos hfull')
  · exact (execSubmitDsd_checked hfree hch hdraining hlo (hdsd rfl)).trans (if_pos hfull')

/-- A frame row decodes a slot and takes the turn, and has no part in the ports or in `stuck`. -/
theorem exec_frame {s : State} {i : Instr} (hi : i.isFrame = true) : ∃ b, exec i s = .next (s.runFrame b) := by
  cases i with
  | dstfCoded x => exact ⟨_, rfl⟩
  | dstfPlain x => exact ⟨_, rfl⟩
  | _ => cases hi

/-- Where no instruction is fetched the step is the state given. -/
theorem step_of_fetch_become {s t : State} (h : s.fetch = .become t) : step s = .next t := by rw [step, h]

/-- A stuck block takes no command: only the slots' agents move, and with no turn left nothing does. -/
theorem step_stuck {t : State} (hstuck : t.stuck = true) (hrst : t.rst = false) :
    ∃ u, step t = .next u ∧ u.stuck = true ∧ u.cmd = t.cmd ∧ u.din = t.din ∧ u.dout = t.dout ∧ u.rsp = t.rsp ∧
      (t.turns = [] → u = t) := by
  cases hturns : t.turns with
  | nil =>
    have hfetch : t.fetch = .become t := by
      rw [State.fetch_sequencer hrst hturns, State.fetchSequencer, if_pos hstuck]
    exact ⟨t, step_of_fetch_become hfetch, hstuck, rfl, rfl, rfl, rfl, fun _ => rfl⟩
  | cons k ks =>
    have hfetch := State.fetch_slot hrst hturns
    unfold State.fetchSlot at hfetch
    split at hfetch
    · split at hfetch
      · next i hdecode =>
        obtain ⟨b, hexec⟩ := exec_frame (s := t) (decodeFrameByte_isFrame _ _ hdecode)
        exact ⟨_, (step_of_fetch_run hfetch).trans hexec, hstuck, rfl, rfl, rfl, rfl, by rintro ⟨⟩⟩
      · exact ⟨_, step_of_fetch_become hfetch, hstuck, rfl, rfl, rfl, rfl, by rintro ⟨⟩⟩
    · exact ⟨_, step_of_fetch_become hfetch, hstuck, rfl, rfl, rfl, rfl, by rintro ⟨⟩⟩

theorem step_rst {t : State} (hrst : t.rst = true) : step t = .next t.toReset := step_of_fetch_become (if_pos hrst)

/-- Settles O7. -/
theorem fullRingIsStuck : Obligations.FullRingIsStuck := by
  unfold Obligations.FullRingIsStuck
  exact fun s size i hi hfree hch hdraining hlo hdst hdsd hfull =>
    ⟨exec_submission_full hi hfree hch hdraining hlo hdst hdsd hfull, fun t hstuck hrst => step_stuck hstuck hrst,
      fun t hrst => ⟨_, step_rst hrst, rfl, rfl⟩⟩

end Sys2Proof.Machine
end

section
/-! PROOFS (O38, O39). The ring as the list of the results of its jobs (44_dst_pool.md R343, R344, R348): a submission
appends one, a collection takes the first, and neither the step of a slot nor the retiring of the oldest job changes
any. -/

-- One thread: the check limits the memory of a compile, and each thread reserves its own.
set_option Elab.async false

open Sys2Proof.Claims

namespace Sys2Proof.Machine

/-! ## The result of a job -/

/-- A result depends on the slot, the geometry of the pool and the silence byte. -/
theorem jobResult_congr {s t : State} (hch : t.pool.dstCh = s.pool.dstCh) (hfb : t.pool.dstFb = s.pool.dstFb)
    (hsilence : t.silence = s.silence) (sl : Slot) : jobResult t sl = jobResult s sl := by
  have hstep : t.stepped sl = s.stepped sl := by
    unfold State.stepped State.decodeOf
    rw [hch, hfb]
  unfold jobResult
  rw [hstep, hch, hfb, hsilence]

theorem jobResult_ok {s : State} {sl : Slot} (hok : (s.stepped sl).slotStatus = .ok) :
    jobResult s sl = (0, (s.stepped sl).outSize, bufBytes (s.stepped sl).outbuf 0 (s.stepped sl).outSize) :=
  if_pos hok

theorem jobResult_failed {s : State} {sl : Slot} (hbad : (s.stepped sl).slotStatus ≠ .ok) : jobResult s sl =
    (0x11, (s.stepped sl).slotCause.code, List.replicate (s.pool.dstCh * s.pool.dstFb) s.silence) := if_neg hbad

/-- The step of the agent gives the result early and does not change it (44_dst_pool.md R344). -/
theorem jobResult_stepped (s : State) (sl : Slot) : jobResult s (s.stepped sl) = jobResult s sl := by
  simp only [jobResult, s.stepped_stepped]

/-- A failed job that has been made silence still answers as a failed job (43_dst_residual.md R314). -/
theorem jobResult_silenced {s : State} {sl : Slot} (hidle : sl.slotState ≠ .busy) (hbad : sl.slotStatus ≠ .ok)
    (out : List Byte) (size : Nat) : jobResult s { sl with outbuf := out, outSize := size } = jobResult s sl := by
  have hstep : s.stepped sl = sl := s.stepped_idle sl hidle
  have hstep' : s.stepped { sl with outbuf := out, outSize := size } = { sl with outbuf := out, outSize := size } :=
    s.stepped_idle _ hidle
  rw [jobResult_failed (by rw [hstep']; exact hbad), jobResult_failed (by rw [hstep]; exact hbad), hstep, hstep']

/-- Two `BUSY` slots with the same frame have the same result (43_dst_residual.md R300). -/
theorem jobResult_of_sameFrame (s : State) {sl sl' : Slot} (hbusy : sl.slotState = .busy) (hbusy' : sl'.slotState = .busy)
    (hbits : sl.br.totalBits = sl'.br.totalBits)
    (hbytes : ∀ j, 8 * j < sl.br.totalBits → bufByte sl.br.inbuf j = bufByte sl'.br.inbuf j) :
    jobResult s sl = jobResult s sl' := by
  obtain ⟨hstatus, _, _, hcause, hout⟩ :=
    decodeDependsOnlyOnTheFrame sl sl' _ _ s.pool.dstCh s.pool.dstFb hbits hbytes rfl rfl
  have hstep := s.stepped_busy sl hbusy
  have hstep' := s.stepped_busy sl' hbusy'
  by_cases hok : (sl.frameDecode s.pool.dstCh s.pool.dstFb).slotStatus = .ok
  · have hok' := hstatus.symm.trans hok
    obtain ⟨hsize, hbuf⟩ := hout hok
    rw [jobResult_ok (by rw [hstep]; exact hok), jobResult_ok (by rw [hstep']; exact hok'), hstep, hstep']
    dsimp only
    rw [Slot.frameDecode_outSize hok, Slot.frameDecode_outSize hok', hbuf]
  · rw [jobResult_failed (by rw [hstep]; exact hok), jobResult_failed (by rw [hstep', ← hstatus]; exact hok), hstep,
      hstep']
    dsimp only
    rw [hcause hok]

/-- A submitted frame has the result it has in a slot as it is after reset (44_dst_pool.md R348). -/
theorem jobResult_loadDst (s : State) (sl : Slot) (seq : Word) (bytes : List Byte) :
    jobResult s (sl.loadDst seq bytes) = jobResult s (freshJob bytes) := by
  refine jobResult_of_sameFrame s rfl rfl rfl fun j hj => ?_
  have hj' : j < bytes.length := Nat.lt_of_mul_lt_mul_left hj
  rw [Slot.loadDst_br, bufByte, List.getD_append _ _ _ _ hj']
  rfl

/-- A bypass frame is its own result (44_dst_pool.md R346). -/
theorem jobResult_loadDsd (s : State) (sl : Slot) (seq : Word) (bytes : List Byte) :
    jobResult s (sl.loadDsd seq bytes) = (0, bytes.length, bytes) := by
  have hstep : s.stepped (sl.loadDsd seq bytes) = sl.loadDsd seq bytes := s.stepped_idle _ SlotState.noConfusion
  rw [jobResult_ok (by rw [hstep]; rfl), hstep]
  exact congrArg (fun out => (0, bytes.length, out)) (bufBytes_overwrite sl.outbuf bytes)

/-! ## The results in the ring -/

theorem length_jobs (s : State) : (jobs s).length = s.pool.ringCount := by rw [jobs, List.length_map, List.length_range]

/-- The results depend on the slots, the pool and the silence byte. -/
theorem jobs_of_same {s t : State} (hslots : t.slots = s.slots) (hpool : t.pool = s.pool)
    (hsilence : t.silence = s.silence) : jobs t = jobs s := by
  unfold jobs
  rw [hpool]
  refine List.map_congr_left fun j _ => ?_
  rw [jobResult_congr (congrArg Pool.dstCh hpool) (congrArg Pool.dstFb hpool) hsilence, State.slot, State.ringSlot, hslots,
    hpool]
  rfl

/-- A slot with another content but the same result. -/
theorem jobs_setSlot {s : State} {k : Nat} {sl : Slot} (h : jobResult s sl = jobResult s (s.slot k)) :
    jobs (s.setSlot k sl) = jobs s := by
  refine List.map_congr_left fun j _ => ?_
  rw [jobResult_congr (s := s) (t := s.setSlot k sl) rfl rfl rfl, State.slot_setSlot]
  split
  · next hj =>
    rw [h, ← hj]
    rfl
  · rfl

theorem jobs_slotStep (s : State) (k : Nat) : jobs (s.slotStep k) = jobs s := jobs_setSlot (jobResult_stepped s _)

/-- The oldest job finished keeps its result, a failed one too. -/
theorem jobs_retire (s : State) : jobs s.retire = jobs s := by
  obtain ⟨_, hr⟩ | ⟨hbad, hr⟩ := s.retire_cases <;> rw [hr]
  · exact jobs_slotStep s _
  · have hslot : (s.slotStep s.pool.tail).slot s.pool.tail = s.stepped (s.slot s.pool.tail) := s.slot_setSlot_same _ _
    rw [State.retireFailed_eq]
    refine (jobs_of_same rfl rfl rfl).trans ((jobs_setSlot ?_).trans (jobs_slotStep s s.pool.tail))
    refine jobResult_silenced ?_ ?_ _ _ <;> rw [hslot]
    · exact (s.stepped_keeps _).1
    · exact hbad

section ring
variable {s : State} (h : s.RingInv)
include h

/-- A submission adds its result as the youngest. -/
theorem jobs_enqueue (hroom : s.pool.ringCount < Config.nSlots) (sl : Slot) :
    jobs (s.enqueue sl) = jobs s ++ [jobResult s sl] := by
  have hcount : (s.enqueue sl).pool.ringCount = s.pool.ringCount + 1 := rfl
  rw [jobs, hcount, List.range_succ, List.map_append, List.map_singleton]
  refine congrArg₂ (· ++ ·) (List.map_congr_left fun j hj => ?_) (congrArg (fun r => [r]) ?_) <;>
    rw [jobResult_congr (s := s) (t := s.enqueue sl) rfl rfl rfl, State.slot_enqueue, State.ringSlot_enqueue]
  · rw [if_neg (h.ringSlot_ne_head hroom (List.mem_range.mp hj))]
  · rw [if_pos h.head_eq.symm]

/-- The oldest result is that of the slot at `tail`, and a removal leaves the others. -/
theorem jobs_eq_cons (hsome : 0 < s.pool.ringCount) :
    jobs s = jobResult s (s.slot s.pool.tail) :: jobs s.dequeue := by
  have hcount : s.dequeue.pool.ringCount = s.pool.ringCount - 1 := rfl
  have hrange : List.range s.pool.ringCount = 0 :: (List.range (s.pool.ringCount - 1)).map Nat.succ := by
    rw [← List.range_succ_eq_map, Nat.sub_add_cancel hsome]
  rw [jobs, hrange, List.map_cons, State.ringSlot_zero h.tail_lt, List.map_map, jobs, hcount]
  refine congrArg (_ :: ·) (List.map_congr_left fun j hj => ?_)
  have hj' : j + 1 < s.pool.ringCount := Nat.add_lt_of_lt_sub (List.mem_range.mp hj)
  rw [jobResult_congr (s := s) (t := s.dequeue) rfl rfl rfl, State.ringSlot_dequeue, State.slot_dequeue,
    if_neg (h.ringSlot_succ_ne_tail hj')]
  rfl

end ring

/-! ## Submissions -/

/-- Settles O38: the youngest result is that of the frame, wherever it was loaded. -/
theorem submissionsJoinTheRing : Obligations.SubmissionsJoinTheRing := by
  unfold Obligations.SubmissionsJoinTheRing
  refine ⟨fun s size h hopen hlo hdin => ?_, jobs_slotStep⟩
  have hdropped : ({ s with din := s.din.drop size } : State).RingInv := h.of_same rfl rfl
  have hsame : jobs { s with din := s.din.drop size } = jobs s := jobs_of_same rfl rfl rfl
  obtain ⟨_, _, _, hroom⟩ := id hopen
  refine ⟨fun hhi => ?_, fun hhi => ?_⟩
  · have hexec : exec (.submit size) s = _ := execSubmit_room hopen hlo hdin hhi
    refine ⟨_, hexec, exec_ringKept h _ _ hexec, ?_⟩
    refine (jobs_of_same rfl rfl rfl).trans ((jobs_enqueue hdropped hroom _).trans ?_)
    rw [jobResult_loadDst, hsame, jobResult_congr (s := s) (t := { s with din := s.din.drop size }) rfl rfl rfl]
  · have hexec : exec (.submitDsd size) s = _ := execSubmitDsd_room hopen hlo hdin hhi
    refine ⟨_, hexec, exec_ringKept h _ _ hexec, ?_⟩
    refine (jobs_of_same rfl rfl rfl).trans ((jobs_enqueue hdropped hroom _).trans ?_)
    rw [jobResult_loadDsd, hsame, List.length_take_of_le hdin]

/-! ## COLLECT -/

/-- The end of a command has no part in the ring. -/
theorem State.finish_same {s t : State} {r : Reply} (h : s.finish r = .next t) :
    t.slots = s.slots ∧ t.pool = s.pool ∧ t.silence = s.silence := by
  unfold State.finish at h
  split at h <;> cases h <;> exact ⟨rfl, rfl, rfl⟩

/-- What the oldest job answers, and what retiring it leaves outside the slots (44_dst_pool.md R343). -/
theorem State.collect_oldest (s : State) {st v : Nat} {out : List Byte}
    (hresult : jobResult s (s.slot s.pool.tail) = (st, v, out)) :
    ∃ t, s.collectBody.2.finish s.collectBody.1 = .next t ∧ t = { s with
      slots := t.slots, errCount := if st = 0 then s.errCount else errorCounted s
      lastError := if st = 0 then s.lastError else BitVec.ofNat 32 (st + v % 2 ^ 24 * 2 ^ 8)
      pool := { s.pool with
        collectSeq := s.pool.collectSeq + 1, ringCount := s.pool.ringCount - 1
        tail := (s.pool.tail + 1) % Config.nSlots }
      dout := s.dout ++ out, rsp := s.rsp ++ [{ status := BitVec.ofNat 8 st, value := val v }] } := by
  have hslot : (s.slotStep s.pool.tail).slot s.pool.tail = s.stepped (s.slot s.pool.tail) := s.slot_setSlot_same _ _
  obtain ⟨hok, hr⟩ | ⟨hbad, hr⟩ := s.retire_cases
  · rw [jobResult_ok hok] at hresult
    cases hresult
    rw [State.collectBody, hr]
    dsimp only
    rw [hslot, if_pos hok, State.finish_ok]
    exact ⟨_, rfl, rfl⟩
  · rw [jobResult_failed hbad] at hresult
    cases hresult
    have hslot' : ((s.slotStep s.pool.tail).retireFailed s.pool.tail).slot s.pool.tail =
        { s.stepped (s.slot s.pool.tail) with
          outbuf := overwrite (s.stepped (s.slot s.pool.tail)).outbuf
            (List.replicate (s.pool.dstCh * s.pool.dstFb) s.silence)
          outSize := s.pool.dstCh * s.pool.dstFb } := by
      rw [State.slot_retireFailed, if_pos rfl, hslot]
      rfl
    have hsilence := bufBytes_overwrite (s.stepped (s.slot s.pool.tail)).outbuf
      (List.replicate (s.pool.dstCh * s.pool.dstFb) s.silence)
    rw [List.length_replicate] at hsilence
    have hcounted : satInc s.errCount = errorCounted s := satInc_eq s.errCount
    rw [State.collectBody, hr]
    dsimp only
    rw [hslot', if_neg hbad, State.finish_fail _ _ _ _ Exc.noConfusion, hsilence,
      show Exc.frameDecodeError.code = 0x11 from rfl, if_neg (Nat.succ_ne_zero 16), if_neg (Nat.succ_ne_zero 16),
      ← hcounted]
    refine ⟨_, rfl, ?_⟩
    simp only [State.refusedWith, State.dequeue, State.retireFailed_eq, State.slotStep, State.setSlot]
    rfl

/-- Settles O39: the oldest result is the answer, and the ring without it is what the retired ring leaves. -/
theorem collectTakesTheOldest : Obligations.CollectTakesTheOldest := by
  unfold Obligations.CollectTakesTheOldest
  intro s st v out rest h hfree hjobs
  have hsome : 0 < s.pool.ringCount := by
    rw [← length_jobs, hjobs]
    exact Nat.succ_pos _
  have holdest := jobs_eq_cons h hsome
  have hothers := jobs_eq_cons h.retire (s.retire_pool.symm ▸ hsome)
  rw [hjobs] at holdest
  rw [jobs_retire, hjobs] at hothers
  obtain ⟨t, hbody, ht⟩ := s.collect_oldest (List.cons.inj holdest).1.symm
  obtain ⟨hslots, hpool, hsilence⟩ := State.finish_same hbody
  have hexec : exec (.collect (s.pool.collectSeq.toNat % 2 ^ 24)) s = .next t :=
    (execCollect_oldest hfree (Nat.ne_of_gt hsome)).trans hbody
  exact ⟨t, hexec, exec_ringKept h _ t hexec,
    (jobs_of_same hslots hpool hsilence).trans (List.cons.inj hothers).2.symm, ht⟩

end Sys2Proof.Machine
end

section
/-! PROOFS (O35). Parses read codes back: `p.Reads code a` says that wherever `code` stands at the cursor, `p` answers
`a` and moves past it. One rule per way of building a parse (42_dst_header.md R250 to R267). -/

-- One thread: the check limits the memory of a compile, and each thread reserves its own.
set_option Elab.async false

open Sys2Proof.Claims

namespace Sys2Proof.Machine

/-- Where `code` stands at the cursor the parse answers `a`, moves past `code` and changes nothing else. -/
def Parse.Reads {α : Type} (p : Parse α) (code : List Bool) (a : α) : Prop :=
  ∀ sl : Slot, sl.br.Holds code → p sl = .ok a { sl with br := sl.br.skip code.length }

/-! ## Rules for the ways of building a parse -/

section rules
variable {α β : Type} {p q : Parse α} {f : α → Parse β} {code code' : List Bool} {a : α} {b : β}

theorem Parse.Reads.pure (a : α) : Parse.Reads (Pure.pure a) [] a := fun _ _ => rfl

theorem Parse.Reads.bind (hp : p.Reads code a) (hf : (f a).Reads code' b) : (p >>= f).Reads (code ++ code') b := by
  intro sl h
  rw [Parse.bind_of_ok (hp sl h.left), hf _ h.right, List.length_append]
  exact congrArg (fun r => EStateM.Result.ok b { sl with br := r }) (BitReader.skip_skip _ _ _)

/-- A value computed from what was read has no code of its own. -/
theorem Parse.Reads.andPure {g : α → β} (hp : p.Reads code a) : (p >>= fun x => Pure.pure (g x)).Reads code (g a) := by
  have h := hp.bind (f := fun x => Pure.pure (g x)) (Parse.Reads.pure (g a))
  rwa [List.append_nil] at h

theorem Parse.Reads.checked {ok : Bool} {cause : Cause} (hok : ok = true) (hp : p.Reads code a) :
    (Parse.check ok cause >>= fun _ => p).Reads code a := by
  intro sl h
  rw [Parse.bind_of_ok (Parse.check_of_true hok cause sl), hp sl h]

theorem Parse.Reads.pos {c : Prop} [Decidable c] (hc : c) (hp : p.Reads code a) : (if c then p else q).Reads code a := by
  rwa [if_pos hc]

theorem Parse.Reads.neg {c : Prop} [Decidable c] (hc : ¬ c) (hq : q.Reads code a) :
    (if c then p else q).Reads code a := by
  rwa [if_neg hc]

theorem Parse.Reads.of_read {r : BitReader → Option α × BitReader}
    (h : ∀ br : BitReader, br.Holds code → r br = (some a, br.skip code.length)) : (Parse.read r).Reads code a :=
  fun _ hcode => Parse.read_of_some (h _ hcode)

/-- A parse repeated reads a list, the code of each of its members after the other. -/
theorem Parse.Reads.times {ι : Type} {c : ι → List Bool} {val : ι → α} : ∀ {xs : List ι},
    (∀ x ∈ xs, p.Reads (c x) (val x)) → (Parse.times p xs.length).Reads (xs.flatMap c) (xs.map val)
  | [], _ => Parse.Reads.pure []
  | x :: _, h => (h x List.mem_cons_self).bind
      (Parse.Reads.times fun y hy => h y (List.mem_cons_of_mem x hy)).andPure

end rules

/-! ## Fields -/

/-- One bit is read as 0 or 1. -/
theorem Parse.bits_reads_bit (x : Bool) : (Parse.bits 1).Reads [x] x.toNat :=
  .of_read fun _ h => h.readBit

theorem length_fieldBits (n v : Nat) : (fieldBits n v).length = n := length_lowBits n v

/-- A field of `n` bits holds a number that fits it. -/
theorem BitReader.Holds.readField {br : BitReader} {n v : Nat} (hv : v < 2 ^ n) (h : br.Holds (fieldBits n v)) :
    br.readBits n = (some v, br.skip (fieldBits n v).length) := by
  have hread := BitReader.Holds.readLowBits (m := n) (n := v) h
  rw [hread, Nat.mod_eq_of_lt hv, length_fieldBits]

theorem Parse.bits_reads {n v : Nat} (hv : v < 2 ^ n) : (Parse.bits n).Reads (fieldBits n v) v :=
  .of_read fun _ h => h.readField hv

/-- A field of nine bits reads back a coefficient in two's complement (42_dst_header.md R261). -/
theorem Parse.signed_reads {c : Int} (hlo : -256 ≤ c) (hhi : c ≤ 255) :
    (Parse.signed 9).Reads (fieldBits 9 (c % 512).toNat) c := by
  have hsext : sext 9 (c % 512).toNat = c := by
    unfold sext
    split <;> simp only [Nat.reduceSub, Nat.reducePow] at * <;> omega
  refine .of_read fun br h => ?_
  rw [BitReader.readSigned_eq, h.readField (by omega)]
  exact congrArg (fun w => (some w, _)) hsext

theorem Parse.rice_reads (m : Nat) (v : Int) : (Parse.rice m).Reads (riceCode m v) v :=
  .of_read fun _ h => BitReader.rice_of_holds h

/-- `bitlen` is the least width a number fits (00_scope.md R13). -/
theorem bitlen_eq_size (x : Nat) : bitlen x = Nat.size x := by
  unfold bitlen
  split
  · next hx => rw [hx, Nat.size_zero]
  · next hx =>
    exact le_antisymm (Nat.lt_size.mpr (Nat.log2_self_le hx)) (Nat.size_le.mpr Nat.lt_log2_self)

/-- A field as wide as its bound asks for reads back a number within the bound. -/
theorem Parse.bits_bitlen_reads {v bound : Nat} (hv : v ≤ bound) :
    (Parse.bits (bitlen bound)).Reads (fieldBits (Nat.size bound) v) v := by
  rw [bitlen_eq_size]
  exact Parse.bits_reads (hv.trans_lt (Nat.lt_size_self bound))

end Sys2Proof.Machine
end

section
/-! PROOFS (O35). A segmentation reads back (42_dst_header.md R252): the lengths of a channel by induction on them, with
the bits defined so far, the bytes left and whether the resolution has been read. -/

-- One thread: the check limits the memory of a compile, and each thread reserves its own.
set_option Elab.async false

open Sys2Proof.Claims

namespace Sys2Proof.Machine

/-- The resolution a segmentation has read: none before the first explicit segment. -/
def heldResolution (first : Bool) (res : Nat) : Option Nat := if first then none else some res

/-- What is left to read of a channel's segments may follow on what has been read. -/
structure SegRun.Fits (r : SegRun) (fb minbits res : Nat) (lens : List Nat) : Prop where
  count : r.segnr + lens.length ≤ 7
  positive : 1 ≤ res
  bound : res ≤ fb - minbits / 8
  left : res * lens.sum ≤ r.maxsz
  whole : r.defined + 8 * res * lens.sum + minbits ≤ 8 * fb
  each : ∀ len ∈ lens, minbits ≤ 8 * res * len

/-- The running values after one more segment. -/
def SegRun.after (r : SegRun) (res len : Nat) : SegRun where
  resolution := some res
  segnr := r.segnr + 1
  defined := r.defined + res * 8 * len
  maxsz := r.maxsz - res * len

section lengths
variable {fb minbits res len : Nat} {lens : List Nat} {r : SegRun} {first : Bool}

theorem SegRun.Fits.after (h : r.Fits fb minbits res (len :: lens)) : (r.after res len).Fits fb minbits res lens where
  count := by
    have hcount := h.count
    rw [List.length_cons] at hcount
    show r.segnr + 1 + lens.length ≤ 7
    omega
  positive := h.positive
  bound := h.bound
  left := by
    have hleft := h.left
    rw [List.sum_cons, Nat.mul_add] at hleft
    show res * lens.sum ≤ r.maxsz - res * len
    omega
  whole := by
    have hwhole := h.whole
    rw [List.sum_cons] at hwhole
    show r.defined + res * 8 * len + 8 * res * lens.sum + minbits ≤ 8 * fb
    linarith
  each l hl := h.each l (List.mem_cons_of_mem len hl)

theorem segResolution_reads {m : Nat} (hres : r.resolution = heldResolution first res) (hpos : 1 ≤ res) (hle : res ≤ m) :
    (segResolution m r).Reads (if first then fieldBits (Nat.size m) res else []) res := by
  unfold segResolution
  rw [hres]
  cases first with
  | false => exact .pure res
  | true =>
    have hok : (res ≠ 0 && res ≤ m) = true := by
      rw [Bool.and_eq_true, decide_eq_true_iff, decide_eq_true_iff]
      exact ⟨Nat.one_le_iff_ne_zero.mp hpos, hle⟩
    exact List.append_nil (fieldBits (Nat.size m) res) ▸ (Parse.bits_bitlen_reads hle).bind (.checked hok (.pure res))

theorem readOneSegment_reads (hres : r.resolution = heldResolution first res)
    (h : r.Fits fb minbits res (len :: lens)) : (readOneSegment fb minbits r).Reads
      ((if first then fieldBits (Nat.size (fb - minbits / 8)) res else []) ++
        fieldBits (Nat.size (r.maxsz / res)) len) (len, r.after res len) := by
  have hcount := h.count
  have hleft := h.left
  have hwhole := h.whole
  have heach := h.each len List.mem_cons_self
  rw [List.length_cons] at hcount
  rw [List.sum_cons, Nat.mul_add] at hleft hwhole
  have hnb : res * 8 * len = 8 * res * len := by rw [Nat.mul_comm res]
  have hlen : len ≤ r.maxsz / res := by
    rw [Nat.le_div_iff_mul_le h.positive, Nat.mul_comm]
    omega
  have hok : (minbits ≤ res * 8 * len && res * 8 * len + r.defined + minbits ≤ Config.frameBits fb) = true := by
    rw [Bool.and_eq_true, decide_eq_true_iff, decide_eq_true_iff, hnb]
    refine ⟨heach, ?_⟩
    show 8 * res * len + r.defined + minbits ≤ 8 * fb
    omega
  refine .checked (decide_eq_true (show r.segnr < 8 - 1 by omega)) ?_
  refine .bind (segResolution_reads hres h.positive h.bound) ?_
  exact List.append_nil (fieldBits _ len) ▸ (Parse.bits_bitlen_reads hlen).bind (.checked hok (.pure _))

/-- The explicit segments of a channel read back; the resolution has been read when there is one. -/
theorem readChannelSegments_reads : ∀ {lens : List Nat} {fuel : Nat} {r : SegRun} {first : Bool},
    lens.length < fuel → r.resolution = heldResolution first res → (lens ≠ [] → r.Fits fb minbits res lens) →
    ∃ r', (readChannelSegments fb minbits fuel r).Reads (lengthBits (fb - minbits / 8) res first r.maxsz lens) (lens, r') ∧
      r'.resolution = heldResolution (first && lens.isEmpty) res
  | _, 0, _, _, hfuel, _, _ => absurd hfuel (Nat.not_lt_zero _)
  | [], fuel + 1, r, first, _, hres, _ => by
    refine ⟨r, (Parse.bits_reads_bit true).bind (.pos Nat.one_ne_zero (.pure ([], r))), ?_⟩
    rw [hres, List.isEmpty_nil, Bool.and_true]
  | len :: lens, fuel + 1, r, first, hfuel, hres, hfits => by
    have hfit := hfits (List.cons_ne_nil _ _)
    obtain ⟨r', hread, hheld⟩ := readChannelSegments_reads (r := r.after res len) (first := false)
      (Nat.lt_of_succ_lt_succ hfuel) rfl fun _ => hfit.after
    have hrest := (readOneSegment_reads hres hfit).bind (f := fun x => readChannelSegments fb minbits fuel x.2 >>=
      fun y => pure (x.1 :: y.1, y.2)) (hread.andPure (g := fun y => (len :: y.1, y.2)))
    refine ⟨r', ?_, ?_⟩
    · have hall := (Parse.bits_reads_bit false).bind (f := fun eoc => if eoc ≠ 0 then pure ([], r) else
        readOneSegment fb minbits r >>= fun x => readChannelSegments fb minbits fuel x.2 >>=
          fun y => pure (x.1 :: y.1, y.2)) (.neg (fun h => h rfl) hrest)
      simp only [lengthBits, List.append_assoc] at hall ⊢
      exact hall
    · rw [hheld, List.isEmpty_cons, Bool.false_and, Bool.and_false]

end lengths

/-! ## A channel's row, and the channels one by one -/

/-- What the rules ask of the explicit segments of a channel (42_dst_header.md R252). -/
def rowLegal (fb minbits res : Nat) (row : List Nat) : Prop :=
  row ≠ [] → row.length ≤ 7 ∧ 1 ≤ res ∧ res ≤ fb - minbits / 8 ∧ (∀ len ∈ row, minbits ≤ 8 * res * len) ∧
    8 * res * row.sum + minbits ≤ 8 * fb

section rows
variable {fb minbits res : Nat}

theorem rowLegal.fits {row : List Nat} (h : rowLegal fb minbits res row) (hrow : row ≠ []) (held : Option Nat) :
    (SegRun.start fb minbits held).Fits fb minbits res row := by
  obtain ⟨hcount, hpos, hbound, heach, hwhole⟩ := h hrow
  refine ⟨(Nat.zero_add _).trans_le hcount, hpos, hbound, ?_, (by rwa [SegRun.start, Nat.zero_add]), heach⟩
  have hassoc : 8 * res * row.sum = 8 * (res * row.sum) := Nat.mul_assoc _ _ _
  show res * row.sum ≤ fb - minbits / 8
  omega

theorem rowLegal.short {row : List Nat} (h : rowLegal fb minbits res row) : row.length < Config.maxSegs + 1 := by
  show row.length < 9
  by_cases hrow : row = []
  · rw [hrow]
    exact Nat.succ_pos 8
  · exact Nat.lt_succ_of_le ((h hrow).1.trans (Nat.le_succ 7))

theorem rowLegal.reads {row : List Nat} (h : rowLegal fb minbits res row) (first : Bool) : ∃ r',
    (readChannelSegments fb minbits (Config.maxSegs + 1) (.start fb minbits (heldResolution first res))).Reads
      (lengthBits (fb - minbits / 8) res first (fb - minbits / 8) row) (row, r') ∧
    r'.resolution = heldResolution (first && row.isEmpty) res :=
  readChannelSegments_reads h.short rfl fun hrow => h.fits hrow _

theorem readEachChannel_reads : ∀ {rows : List (List Nat)} (first : Bool), (∀ row ∈ rows, rowLegal fb minbits res row) →
    (readEachChannel fb minbits rows.length (heldResolution first res)).Reads
      (channelBits (fb - minbits / 8) res first rows) (rows, heldResolution (first && rows.all List.isEmpty) res)
  | [], first, _ => by
    rw [List.all_nil, Bool.and_true]
    exact .pure _
  | row :: rows, first, h => by
    obtain ⟨r, hrow, hheld⟩ := (h row List.mem_cons_self).reads first
    have hrows := readEachChannel_reads (first && row.isEmpty) fun row' hrow' => h row' (List.mem_cons_of_mem row hrow')
    rw [← hheld, Bool.and_assoc] at hrows
    exact hrow.bind (f := fun x => readEachChannel fb minbits rows.length x.2.resolution >>= fun y =>
      pure (x.1 :: y.1, y.2)) (hrows.andPure (g := fun y => (row :: y.1, y.2)))

end rows

/-! ## The segmentation -/

/-- Rows that are all the first are without a segment when the first is. -/
theorem all_isEmpty_of_same {rows : List (List Nat)} (h : ∀ row ∈ rows, row = rows.headD []) :
    rows.all List.isEmpty = (rows.headD []).isEmpty := by
  cases rows with
  | nil => rfl
  | cons row rows =>
    rw [List.headD_cons] at h ⊢
    rw [List.all_cons, Bool.and_eq_left_iff_imp]
    exact fun hempty => List.all_eq_true.mpr fun x hx => h x (List.mem_cons_of_mem row hx) ▸ hempty

theorem rowLegal_headD {fb minbits res : Nat} {rows : List (List Nat)} (h : ∀ row ∈ rows, rowLegal fb minbits res row) :
    rowLegal fb minbits res (rows.headD []) := by
  cases rows with
  | nil => exact fun hne => absurd rfl hne
  | cons row rows => exact h row List.mem_cons_self

section segmentation
variable {ch fb minbits : Nat} {same : Bool} {sg : Segmentation} (h : segmentationLegal ch fb minbits same sg)
include h

/-- A segmentation without an explicit segment has resolution 1. -/
theorem segmentationLegal_resolution :
    (heldResolution (sg.seglen.all List.isEmpty) sg.resolution).getD 1 = sg.resolution := by
  obtain ⟨_, _, hone, _⟩ := h
  unfold heldResolution
  split
  · next hall => exact (hone fun row hrow => List.isEmpty_iff.mp (List.all_eq_true.mp hall row hrow)).symm
  · rfl

/-- One row for all channels (`SameSegAllCh = 1`). -/
theorem readSegmentation_reads_same (hsame : same = true) :
    (readSegmentation ch fb minbits).Reads (segmentationBits (fb - minbits / 8) true sg) sg := by
  have hres := segmentationLegal_resolution h
  obtain ⟨hlen, hrows, _, hlegal⟩ := h
  obtain ⟨r, hread, hheld⟩ := (rowLegal_headD hlegal).reads true
  rw [Bool.true_and, ← all_isEmpty_of_same (hrows hsame)] at hheld
  have hseg := hread.andPure (g := fun x =>
    ({ resolution := x.2.resolution.getD 1, seglen := List.replicate ch x.1 } : Segmentation))
  rw [hheld, hres, ← List.eq_replicate_iff.mpr ⟨hlen, hrows hsame⟩] at hseg
  exact (Parse.bits_reads_bit true).bind (.pos rfl hseg)

/-- A row for each channel (`SameSegAllCh = 0`). -/
theorem readSegmentation_reads_each :
    (readSegmentation ch fb minbits).Reads (segmentationBits (fb - minbits / 8) false sg) sg := by
  have hres := segmentationLegal_resolution h
  obtain ⟨hlen, _, _, hlegal⟩ := h
  have hread := readEachChannel_reads true hlegal
  rw [hlen, Bool.true_and] at hread
  have hseg := hread.andPure (g := fun x => ({ resolution := x.2.getD 1, seglen := x.1 } : Segmentation))
  rw [hres] at hseg
  exact (Parse.bits_reads_bit false).bind (.neg Nat.zero_ne_one hseg)

theorem readSegmentation_reads :
    (readSegmentation ch fb minbits).Reads (segmentationBits (fb - minbits / 8) same sg) sg := by
  cases hsame : same with
  | false => exact readSegmentation_reads_each h
  | true => exact readSegmentation_reads_same h hsame

end segmentation

end Sys2Proof.Machine
end

section
/-! PROOFS (O35). A mapping reads back (42_dst_header.md R255 to R258): table numbers by induction on them, and rows by
induction on the channels. -/

-- One thread: the check limits the memory of a compile, and each thread reserves its own.
set_option Elab.async false

open Sys2Proof.Claims

namespace Sys2Proof.Machine

/-! ## Table numbers -/

theorem readTableNumbers_reads : ∀ {vs : List Nat} {count total : Nat}, numbersLegal count total vs →
    (readTableNumbers vs.length count).Reads (numberBits count vs) (vs, total)
  | [], _, _, h => h ▸ .pure _
  | v :: vs, count, total, ⟨hv, h⟩ => by
    have hnumber : (readTableNumber count).Reads (fieldBits (Nat.size count) v)
        (v, if v = count then count + 1 else count) :=
      List.append_nil (fieldBits _ v) ▸ (Parse.bits_bitlen_reads hv).bind (.checked (decide_eq_true hv) (.pure _))
    exact hnumber.bind (f := fun x => readTableNumbers vs.length x.2 >>= fun y => pure (x.1 :: y.1, y.2))
      ((readTableNumbers_reads h).andPure (g := fun y => (v :: y.1, y.2)))

/-- Numbers in a row are legal one part after the other, and have their fields one part after the other. -/
theorem numbersLegal_append : ∀ {us vs : List Nat} {count total : Nat}, numbersLegal count total (us ++ vs) →
    ∃ mid, numbersLegal count mid us ∧ numbersLegal mid total vs ∧
      numberBits count (us ++ vs) = numberBits count us ++ numberBits mid vs
  | [], _, count, _, h => ⟨count, rfl, h, rfl⟩
  | u :: us, vs, count, _, ⟨hu, h⟩ => by
    obtain ⟨mid, hus, hvs, hbits⟩ := numbersLegal_append h
    refine ⟨mid, ⟨hu, hus⟩, hvs, ?_⟩
    rw [List.cons_append, numberBits, hbits, numberBits, List.append_assoc]

/-! ## Rows -/

section rows
variable {sg : Segmentation}

/-- The rows of the channels after channel 0: every segment has a field. -/
theorem readMapRows_reads : ∀ {rows : List (List Nat)} {ch count total : Nat}, ch ≠ 0 →
    (∀ i < rows.length, (rows.getD i []).length = sg.nsegs (ch + i)) → numbersLegal count total rows.flatten →
    (readMapRows sg rows.length ch count).Reads (numberBits count rows.flatten) (rows, total)
  | [], _, _, _, _, _, h => h ▸ .pure _
  | row :: rows, ch, count, total, hch, hlen, h => by
    obtain ⟨mid, hrow, hrows, hbits⟩ := numbersLegal_append h
    have hfirst : row.length = sg.nsegs ch := hlen 0 (Nat.succ_pos _)
    have hread := readMapRows_reads (Nat.succ_ne_zero ch) (fun i hi => by
      rw [Nat.succ_add_eq_add_succ]
      exact hlen (i + 1) (Nat.succ_lt_succ hi)) hrows
    rw [List.flatten_cons, hbits]
    exact .neg hch (.bind (f := fun x => readMapRows sg rows.length (ch + 1) x.2 >>= fun y => pure (x.1 :: y.1, y.2))
      (hfirst ▸ readTableNumbers_reads hrow) (hread.andPure (g := fun y => (row :: y.1, y.2))))

/-- All rows: the first segment of channel 0 has table 0 and no field. -/
theorem readMapRows_reads_all {vs : List Nat} {rows : List (List Nat)} {total : Nat}
    (hlen : ∀ i < rows.length + 1, (((0 :: vs) :: rows).getD i []).length = sg.nsegs i)
    (h : numbersLegal 1 total (vs ++ rows.flatten)) :
    (readMapRows sg (rows.length + 1) 0 1).Reads (numberBits 1 (vs ++ rows.flatten)) ((0 :: vs) :: rows, total) := by
  obtain ⟨mid, hrow, hrows, hbits⟩ := numbersLegal_append h
  have hfirst : vs.length = sg.nsegs 0 - 1 := Nat.eq_sub_of_add_eq (hlen 0 (Nat.succ_pos _))
  have hread := readMapRows_reads (sg := sg) Nat.one_ne_zero (fun i hi => by
    rw [Nat.add_comm]
    exact hlen (i + 1) (Nat.succ_lt_succ hi)) hrows
  rw [hbits]
  refine .bind (hfirst ▸ readTableNumbers_reads hrow : (readTableNumbers (sg.nsegs 0 - 1) 1).Reads _ _) ?_
  exact (Parse.Reads.pure (0 :: vs, mid)).bind (f := fun x => readMapRows sg rows.length 1 x.2 >>= fun y =>
    pure (x.1 :: y.1, y.2)) (hread.andPure (g := fun y => ((0 :: vs) :: y.1, y.2)))

end rows

/-! ## The mapping -/

/-- A row of a mapping has a table for each segment of its channel. -/
theorem length_row {sg : Segmentation} {tab : List (List Nat)}
    (h : tab.map List.length = sg.seglen.map fun row => row.length + 1) {i : Nat} (hi : i < tab.length) :
    (tab.getD i []).length = sg.nsegs i := by
  have hlen : tab.length = sg.seglen.length := by
    simpa only [List.length_map] using congrArg List.length h
  have hrow := congrArg (fun l => l[i]?) h
  simp only [List.getElem?_map, List.getElem?_eq_getElem hi, List.getElem?_eq_getElem (hlen ▸ hi), Option.map_some,
    Option.some.injEq] at hrow
  rw [List.getD_eq_getElem _ _ hi, hrow, Segmentation.nsegs, List.getD_eq_getElem _ _ (hlen ▸ hi)]

theorem sameCounts_of_eq {ch : Nat} {n m : Nat → Nat} (h : ∀ c < ch, n c = m c) : sameCounts ch n m = true :=
  List.all_eq_true.mpr fun c hc => decide_eq_true (h c (List.mem_range.mp hc))

section mapping
variable {ch total : Nat} {same : Bool} {sg : Segmentation} {tab : List (List Nat)}

/-- A legal mapping begins with table 0. -/
theorem mappingLegal_cons (h : mappingLegal ch total same sg tab) : ∃ vs rows, tab = (0 :: vs) :: rows := by
  obtain ⟨hlen, hhead, _⟩ := h
  match tab with
  | [] => cases hhead
  | [] :: rows =>
    have hlen0 : 0 = sg.nsegs 0 := length_row hlen (Nat.succ_pos _)
    cases hlen0
  | (v :: vs) :: rows =>
    obtain rfl : v = 0 := Option.some.inj hhead
    exact ⟨vs, rows, rfl⟩

variable (hsg : sg.seglen.length = ch) (h : mappingLegal ch total same sg tab)
include hsg h

theorem mappingLegal_length : tab.length = ch := by
  obtain ⟨hlen, _⟩ := h
  rw [← hsg]
  simpa only [List.length_map] using congrArg List.length hlen

/-- One row for all channels (`SameMapAllCh = 1`). -/
theorem readMapping_reads_same (hsame : same = true) :
    (readMapping ch sg).Reads (true :: numberBits 1 (mappedNumbers true tab)) (tab, total) := by
  obtain ⟨vs, rows, rfl⟩ := mappingLegal_cons h
  have hch := mappingLegal_length hsg h
  obtain ⟨hlen, _, hrows, hnumbers, htotal⟩ := h
  have hrep : List.replicate ch (0 :: vs) = (0 :: vs) :: rows :=
    (List.eq_replicate_iff.mpr ⟨hch, hrows hsame⟩).symm
  have hfirst : (0 :: vs).length = sg.nsegs 0 := length_row hlen (Nat.succ_pos _)
  have hcounts : sameCounts ch sg.nsegs (fun _ => sg.nsegs 0) = true := by
    refine sameCounts_of_eq fun c hc => ?_
    rw [← length_row hlen (hch.symm ▸ hc), ← hfirst, ← hrep, List.getD_eq_getElem _ _ (by rwa [List.length_replicate]),
      List.getElem_replicate]
  subst hsame
  have hread := readTableNumbers_reads (vs := vs) hnumbers
  rw [show vs.length = sg.nsegs 0 - 1 from Nat.eq_sub_of_add_eq hfirst] at hread
  have hcount : (Parse.check (total ≤ Config.maxTables ch) .tableCount >>= fun _ =>
      pure ((0 :: vs) :: rows, total) : Parse (List (List Nat) × Nat)).Reads [] ((0 :: vs) :: rows, total) :=
    .checked (decide_eq_true htotal) (.pure _)
  refine (Parse.bits_reads_bit true).bind (.pos rfl ?_)
  rw [← List.append_nil (numberBits _ _)]
  refine hread.bind (.checked hcounts ?_)
  rw [← hrep] at hcount ⊢
  exact (Parse.Reads.pure (List.replicate ch (0 :: vs), total)).bind (code' := []) (f := fun m =>
    Parse.check (m.2 ≤ Config.maxTables ch) .tableCount >>= fun _ => pure m) hcount

/-- A row for each channel (`SameMapAllCh = 0`). -/
theorem readMapping_reads_each (hsame : same = false) :
    (readMapping ch sg).Reads (false :: numberBits 1 (mappedNumbers false tab)) (tab, total) := by
  obtain ⟨vs, rows, rfl⟩ := mappingLegal_cons h
  have hch := mappingLegal_length hsg h
  obtain ⟨hlen, _, _, hnumbers, htotal⟩ := h
  subst hsame
  have hread := readMapRows_reads_all (fun i hi => length_row hlen hi) hnumbers
  rw [show rows.length + 1 = ch from hch] at hread
  refine (Parse.bits_reads_bit false).bind (.neg Nat.zero_ne_one ?_)
  rw [← List.append_nil (numberBits _ _)]
  exact hread.bind (.checked (decide_eq_true htotal) (.pure _))

theorem readMapping_reads :
    (readMapping ch sg).Reads (same :: numberBits 1 (mappedNumbers same tab)) (tab, total) := by
  cases hsame : same with
  | false => exact readMapping_reads_each hsg h hsame
  | true => exact readMapping_reads_same hsg h hsame

end mapping

end Sys2Proof.Machine
end

section
/-! PROOFS (O35). The filters and the Ptables read back, raw or Rice-coded (42_dst_header.md R260 to R267). -/

-- One thread: the check limits the memory of a compile, and each thread reserves its own.
set_option Elab.async false

open Sys2Proof.Claims

namespace Sys2Proof.Machine

/-! ## Rice-coded entries -/

theorem tablePrediction_eq_sum : ∀ pred before : List Int,
    tablePrediction pred before = (List.zipWith (· * ·) pred before).sum
  | [], _ => rfl
  | _ :: _, [] => rfl
  | p :: ps, e :: es => by
    rw [tablePrediction, tablePrediction_eq_sum ps es, List.zipWith_cons_cons, List.sum_cons]

/-- An entry is the one its Rice value stands for. -/
theorem tableEntry_delta (x c : Int) : tableEntry x (if 0 ≤ x then c + (x + 4) / 8 else c - (-x + 3) / 8) = c := by
  unfold tableEntry
  split
  · exact add_sub_cancel_right c _
  · exact sub_add_cancel c _

section entries
variable {lo hi : Int} {cause : Cause}

theorem readRiceEntries_reads (pred : List Int) (m : Nat) : ∀ {cs : List Int} (before : List Int),
    (∀ c ∈ cs, lo ≤ c ∧ c ≤ hi) →
    (readRiceEntries pred m lo hi cause cs.length before).Reads (deltaBits pred m before cs) (cs.reverse ++ before)
  | [], before, _ => .pure before
  | c :: cs, before, h => by
    obtain ⟨hlo, hhi⟩ := h c List.mem_cons_self
    have hrest := readRiceEntries_reads pred m (c :: before) fun c' hc' =>
      h c' (List.mem_cons_of_mem c hc')
    rw [List.reverse_cons, List.append_assoc, List.singleton_append]
    refine .bind (Parse.rice_reads m _) ?_
    rw [tablePrediction_eq_sum, tableEntry_delta]
    exact .checked (by rw [Bool.and_eq_true, decide_eq_true_iff, decide_eq_true_iff]; exact ⟨hlo, hhi⟩) hrest

/-! ## Tables, raw or Rice-coded -/

variable {first : Parse Int} {raw : Int → List Bool} {preds : Nat → List Int} {es : List Int}

/-- The raw entries of a table. -/
theorem Parse.times_reads (hraw : ∀ c ∈ es, first.Reads (raw c) c) :
    (Parse.times first es.length).Reads (es.flatMap raw) es := by
  have h := Parse.Reads.times (val := id) hraw
  rwa [List.map_id] at h

variable (hraw : ∀ c ∈ es, first.Reads (raw c) c) (hrange : ∀ c ∈ es, lo ≤ c ∧ c ≤ hi)
include hraw hrange

theorem readRiceTable_reads {method m : Nat} (hmethod : method < 3) (horder : method + 1 < es.length) (hm : m ≤ 7) :
    (readRiceTable preds first lo hi cause es.length).Reads
      (fieldBits 2 method ++ ((es.take (method + 1)).flatMap raw ++ (fieldBits 3 m ++
        deltaBits (preds method) m (es.take (method + 1)).reverse (es.drop (method + 1))))) es := by
  have htake : (es.take (method + 1)).length = method + 1 := List.length_take_of_le horder.le
  have hfirst := Parse.times_reads (es := es.take (method + 1)) fun c hc => hraw c (List.mem_of_mem_take hc)
  have hentries := readRiceEntries_reads (cause := cause) (preds method) m (cs := es.drop (method + 1))
    (es.take (method + 1)).reverse fun c hc => hrange c (List.mem_of_mem_drop hc)
  have htable := hentries.andPure (g := List.reverse)
  rw [htake] at hfirst
  rw [List.length_drop, List.reverse_append, List.reverse_reverse, List.reverse_reverse, List.take_append_drop] at htable
  refine .bind (Parse.bits_reads (show method < 2 ^ 2 by omega)) ?_
  refine .checked (decide_eq_true hmethod) (.checked (decide_eq_true horder) ?_)
  exact hfirst.bind (.bind (Parse.bits_reads (show m < 2 ^ 3 by omega)) htable)

/-- The entries of a table behind its length, coded as told. -/
theorem readEntries_reads {coding : TableCoding} (hcoding : codingLegal es.length coding) {consts : List (List Int)}
    (hconsts : ∀ method < 3, preds method = consts.getD method []) :
    (Parse.bits 1 >>= fun coded => if coded = 0 then Parse.times first es.length
      else readRiceTable preds first lo hi cause es.length : Parse (List Int)).Reads
        (entryBits consts raw es coding) es := by
  match coding, hcoding with
  | none, _ => exact (Parse.bits_reads_bit false).bind (.pos rfl (Parse.times_reads hraw))
  | some (method, m), ⟨hmethod, horder, hm⟩ =>
    have hread := (Parse.bits_reads_bit true).bind (f := fun coded => if coded = 0 then Parse.times first es.length
      else readRiceTable preds first lo hi cause es.length) (.neg Nat.one_ne_zero
        (readRiceTable_reads (cause := cause) (preds := preds) hraw hrange hmethod horder hm))
    rw [hconsts method hmethod] at hread
    simp only [entryBits, List.cons_append, List.append_assoc]
    exact hread

end entries

/-! ## A filter, a Ptable -/

theorem fcpred_eq : ∀ method < 3, fcpred method = [[-8], [-16, 8], [-9, -5, 6]].getD method [] := by decide

theorem pcpred_eq : ∀ method < 3, pcpred method = [[-8], [-16, 8], [-24, 24, -8]].getD method [] := by decide

section tables
variable {es : List Int} {coding : TableCoding}

theorem readFilter_reads (hpos : 1 ≤ es.length) (hle : es.length ≤ 128) (hrange : ∀ c ∈ es, -256 ≤ c ∧ c ≤ 255)
    (hcoding : codingLegal es.length coding) : readFilter.Reads (filterBits es coding) es := by
  refine .bind (Parse.bits_reads (show es.length - 1 < 2 ^ 7 by omega)) ?_
  rw [Nat.sub_add_cancel hpos]
  exact readEntries_reads (fun c hc => Parse.signed_reads (hrange c hc).1 (hrange c hc).2) hrange hcoding fcpred_eq

theorem readPtableEntry_reads {c : Int} (hlo : 1 ≤ c) (hhi : c ≤ 128) :
    readPtableEntry.Reads (fieldBits 7 (c - 1).toNat) c := by
  have hfield : (Parse.bits 7).Reads (fieldBits 7 (c - 1).toNat) (c - 1).toNat := Parse.bits_reads (by omega)
  have hread := hfield.andPure (g := fun v : Nat => (v : Int) + 1)
  rwa [show ((c - 1).toNat : Int) + 1 = c by omega] at hread

theorem readPtable_reads (hpos : 1 ≤ es.length) (hle : es.length ≤ 64) (hrange : ∀ c ∈ es, 1 ≤ c ∧ c ≤ 128)
    (hone : es.length = 1 → es = [128]) (hcoding : codingLegal es.length coding) :
    readPtable.Reads (ptableBits es coding) es := by
  refine .bind (Parse.bits_reads (show es.length - 1 < 2 ^ 6 by omega)) ?_
  by_cases hlen : es.length = 1
  · rw [if_pos hlen, hone hlen]
    exact .pure _
  · rw [if_neg hlen, if_neg (show ¬ es.length - 1 = 0 by omega), Nat.sub_add_cancel hpos]
    exact readEntries_reads (fun c hc => readPtableEntry_reads (hrange c hc).1 (hrange c hc).2) hrange hcoding pcpred_eq

end tables

end Sys2Proof.Machine
end

section
/-! PROOFS (O35). The header of a coded frame reads back as a whole (42_dst_header.md R250), and the frame rows run
(44_dst_pool.md R344, 30_encoding.md R151). -/

-- One thread: the check limits the memory of a compile, and each thread reserves its own.
set_option Elab.async false

open Sys2Proof.Claims

namespace Sys2Proof.Machine

/-! ## Parses that write the frame decoder's registers -/

/-- Where `code` stands at the cursor the parse moves past it, changes the frame decoder by `g` and nothing else. -/
def Parse.Writes (p : Parse Unit) (code : List Bool) (g : FrameDec → FrameDec) : Prop :=
  ∀ sl : Slot, sl.br.Holds code → p sl = .ok () { sl with br := sl.br.skip code.length, fd := g sl.fd }

section writes
variable {α : Type} {p : Parse α} {f : α → Parse Unit} {q : Parse Unit} {code code' : List Bool} {a : α}
  {g g' u : FrameDec → FrameDec}

theorem Parse.Writes.afterRead (hp : p.Reads code a) (hf : (f a).Writes code' g) :
    (p >>= f).Writes (code ++ code') g := by
  intro sl h
  rw [Parse.bind_of_ok (hp sl h.left), hf _ h.right, List.length_append]
  exact congrArg (fun r => EStateM.Result.ok () { sl with br := r, fd := g sl.fd }) (BitReader.skip_skip _ _ _)

theorem Parse.Writes.afterWrite (hq : q.Writes code g) : (Parse.setFd u >>= fun _ => q).Writes code (g ∘ u) :=
  fun sl h => hq { sl with fd := u sl.fd } h

theorem Parse.Writes.write (u : FrameDec → FrameDec) : (Parse.setFd u).Writes [] u := fun _ _ => rfl

theorem Parse.Writes.of_eq (h : q.Writes code g) (hcode : code = code') (hg : ∀ fd, g fd = g' fd) :
    q.Writes code' g' := by
  obtain rfl := funext hg
  exact hcode ▸ h

end writes

/-! ## The parts of a legal header -/

theorem half_reads (half : List Bool) : (Parse.times (Parse.bits 1) half.length).Reads half (half.map Bool.toNat) := by
  have h := Parse.Reads.times (c := fun b => [b]) (xs := half) fun x _ => Parse.bits_reads_bit x
  rwa [List.flatMap_singleton'] at h

theorem half_back (half : List Bool) : (half.map Bool.toNat).map (· == 1) = half := by
  rw [List.map_map]
  exact (List.map_congr_left fun b _ => by cases b <;> rfl).trans (List.map_id half)

theorem sameCounts_of_lengths {ch : Nat} {sg sg' : Segmentation}
    (h : sg.seglen.map List.length = sg'.seglen.map List.length) : sameCounts ch sg.nsegs sg'.nsegs = true := by
  refine sameCounts_of_eq fun c _ => ?_
  have hlen := congrArg (fun l => l.getD c ([] : List Nat).length) h
  simp only [List.getD_map] at hlen
  rw [Segmentation.nsegs, Segmentation.nsegs, hlen]

section header
variable {x : Header} {ch fb : Nat} (h : x.Legal ch fb)
include h

theorem length_fseg_of_legal : x.fseg.seglen.length = ch := h.fseg.1

theorem length_pseg_of_legal : x.pseg.seglen.length = ch := by
  have hpseg := h.pseg
  split at hpseg
  · rw [hpseg, length_fseg_of_legal h]
  · exact hpseg.1

theorem readPtableSegmentation_reads : (readPtableSegmentation x.copySeg.toNat ch fb x.fseg).Reads
    (if x.copySeg then [] else segmentationBits (fb - 4) x.samePseg x.pseg) x.pseg := by
  have hpseg := h.pseg
  unfold readPtableSegmentation
  cases hcopy : x.copySeg with
  | true =>
    rw [hcopy, if_pos rfl] at hpseg
    exact .pos rfl (hpseg ▸ .pure _)
  | false =>
    rw [hcopy, if_neg Bool.false_ne_true] at hpseg
    exact .neg Nat.zero_ne_one (readSegmentation_reads hpseg)

theorem readPtableMapping_reads :
    (readPtableMapping x.copyMap.toNat ch x.fseg x.pseg (x.ftab, x.filters.length)).Reads
      (if x.copyMap then [] else x.samePmap :: numberBits 1 (mappedNumbers x.samePmap x.ptab))
      (x.ptab, x.ptables.length) := by
  have hptab := h.ptab
  unfold readPtableMapping
  cases hcopy : x.copyMap with
  | true =>
    rw [hcopy, if_pos rfl] at hptab
    obtain ⟨htab, hcount, hlengths⟩ := hptab
    rw [htab, hcount]
    exact .pos rfl (.checked (sameCounts_of_lengths hlengths) (.pure _))
  | false =>
    rw [hcopy, if_neg Bool.false_ne_true] at hptab
    exact .neg Nat.zero_ne_one (readMapping_reads (length_pseg_of_legal h) hptab)

theorem readFilters_reads : (Parse.times readFilter x.filters.length).Reads
    (x.filters.flatMap fun t => filterBits t.1 t.2) (x.filters.map Prod.fst) :=
  .times fun t ht => by
    obtain ⟨hpos, hle, hrange, hcoding⟩ := h.filters t ht
    exact readFilter_reads hpos hle hrange hcoding

theorem readPtables_reads : (Parse.times readPtable x.ptables.length).Reads
    (x.ptables.flatMap fun t => ptableBits t.1 t.2) (x.ptables.map Prod.fst) :=
  .times fun t ht => by
    obtain ⟨hpos, hle, hrange, hone, hcoding⟩ := h.ptables t ht
    exact readPtable_reads hpos hle hrange hone hcoding

end header

/-! ## The header -/

/-- The frame decoder with the segmentations, mappings and tables of a header. -/
def headerWrite (x : Header) (fd : FrameDec) : FrameDec :=
  { fd with
    dstate := .readPtables
    fseg := x.fseg
    pseg := x.pseg
    ftab := x.ftab
    ptab := x.ptab
    nfilters := x.filters.length
    nptables := x.ptables.length
    halfprob := x.half
    coef := x.filters.map Prod.fst
    pone := x.ptables.map Prod.fst }

/-- The bits of a header after its first, which says that the frame is coded. -/
def headerRest (x : Header) (fb : Nat) : List Bool := (x.bits fb).tail

theorem bits_eq_headerRest (x : Header) (fb : Nat) : x.bits fb = [true] ++ headerRest x fb := rfl

/-- A legal header is read to its end and leaves its tables. -/
theorem readHeader_writes {x : Header} {ch fb : Nat} (h : x.Legal ch fb) :
    (readHeader ch fb).Writes (headerRest x fb) (headerWrite x) := by
  have hhalf := half_reads x.half
  rw [h.half] at hhalf
  refine .of_eq
    (.afterRead (Parse.bits_reads_bit x.copySeg) <| .afterRead (readSegmentation_reads h.fseg) <| .afterWrite <|
      .afterRead (readPtableSegmentation_reads h) <| .afterWrite <| .afterRead (Parse.bits_reads_bit x.copyMap) <|
      .afterRead (readMapping_reads (length_fseg_of_legal h) h.ftab) <| .afterWrite <|
      .afterRead (readPtableMapping_reads h) <| .afterWrite <| .afterRead hhalf <| .afterWrite <|
      .afterRead (readFilters_reads h) <| .afterWrite <| .afterRead (readPtables_reads h) <| .write _) ?_ fun fd => ?_
  · simp only [headerRest, Header.bits, List.append_assoc, List.cons_append, List.nil_append, List.append_nil,
      List.tail_cons]
    rfl
  · simp only [Function.comp_apply, half_back]
    rfl

/-! ## The decode of a frame with a legal header -/

/-- The frame decoder holds the segmentations, mappings and tables of the header. -/
structure FrameDec.HasHeader (fd : FrameDec) (x : Header) : Prop where
  fseg : fd.fseg = x.fseg
  pseg : fd.pseg = x.pseg
  ftab : fd.ftab = x.ftab
  ptab : fd.ptab = x.ptab
  nfilters : fd.nfilters = x.filters.length
  nptables : fd.nptables = x.ptables.length
  half : fd.halfprob = x.half
  coef : fd.coef = x.filters.map Prod.fst
  pone : fd.pone = x.ptables.map Prod.fst

/-- The slot whose decode has read the header. -/
def Slot.pastHeader (sl : Slot) (ch fb : Nat) (x : Header) : Slot :=
  { sl.startFrame ch fb with
    br := (sl.startFrame ch fb).br.skip (x.bits fb).length
    fd := headerWrite x (sl.startFrame ch fb).fd }

theorem Slot.pastHeader_hasHeader (sl : Slot) (ch fb : Nat) (x : Header) : (sl.pastHeader ch fb x).fd.HasHeader x :=
  ⟨rfl, rfl, rfl, rfl, rfl, rfl, rfl, rfl, rfl⟩

/-- The samples leave the tables. -/
theorem FrameDec.HasHeader.terminated {t : Slot} {x : Header} (h : t.fd.HasHeader x) (ch fb : Nat) (st : DState) :
    ({ (t.terminated ch fb).fd with dstate := st } : FrameDec).HasHeader x :=
  ⟨h.fseg, h.pseg, h.ftab, h.ptab, h.nfilters, h.nptables, h.half, h.coef, h.pone⟩

section decode
variable {sl : Slot} {ch fb : Nat}

/-- What is left of the frame after a legal header is its residual part. -/
theorem frameBody_of_header {x : Header} (h : x.Legal ch fb) (hcode : (sl.startFrame ch fb).br.Holds (x.bits fb)) :
    frameBody ch fb (sl.startFrame ch fb) = residual ch fb (sl.pastHeader ch fb x) := by
  rw [bits_eq_headerRest] at hcode
  have hheader := readHeader_writes h
    { sl.startFrame ch fb with br := (sl.startFrame ch fb).br.skip [true].length } hcode.right
  have hbody : frameBody ch fb (sl.startFrame ch fb) = codedFrame ch fb _ :=
    Parse.bind_of_ok (Parse.bits_reads_bit true _ hcode.left)
  rw [hbody, codedFrame_eq, Parse.bind_of_ok hheader, Slot.pastHeader, bits_eq_headerRest, List.length_append]
  exact congrArg (fun r => residual ch fb { sl.startFrame ch fb with br := r, fd := headerWrite x _ })
    (BitReader.skip_skip _ _ _)

variable {t : Slot} (hbody : frameBody ch fb (sl.startFrame ch fb) = residual ch fb t)
include hbody

/-- A code whose first bit is set ends the decode at once (43_dst_residual.md R303). -/
theorem Slot.frameDecode_refused (hbit : codeBit t.br.inbuf t.acStart.ac 0 = true) : sl.frameDecode ch fb =
    { t.acStart with slotStatus := .frameDecodeError, slotCause := .acFirstBit, fd := { t.fd with dstate := .failed } } :=
  Slot.frameDecode_of_error (hbody.trans (residual_refused ch fb hbit))

/-- A code whose first bit is clear is decoded to its end, where alone it can fail (43_dst_residual.md R312). -/
theorem Slot.frameDecode_runs (hbit : codeBit t.br.inbuf t.acStart.ac 0 = false) :
    (sl.frameDecode ch fb).EndsDecode t ch fb ∧
      ((sl.frameDecode ch fb).slotStatus = .ok ∨ (sl.frameDecode ch fb).slotCause = .acTermination) := by
  obtain ⟨hbase, hlen⟩ := t.terminated_place ch fb
  rw [residual_runs ch fb hbit] at hbody
  by_cases hflush : ((t.lastSample ch fb).ac.flush t.br.inbuf).1 = true
  · rw [if_pos hflush] at hbody
    have hok := Slot.frameDecode_status hbody
    rw [Slot.frameDecode_of_ok hbody]
    exact ⟨{ br := rfl, acBase := hbase, acLen := hlen, fd := ⟨_, rfl⟩, outbuf := rfl, status := iff_of_true hok hflush },
      .inl hok⟩
  · rw [if_neg hflush] at hbody
    rw [Slot.frameDecode_of_error hbody]
    exact ⟨{ br := rfl, acBase := hbase, acLen := hlen, fd := ⟨_, rfl⟩, outbuf := rfl,
             status := iff_of_false (fun hok => by cases hok) hflush }, .inr rfl⟩

/-- Behind a header the decode keeps the tables, has the code right there, and can fail at the code's ends only. -/
theorem Slot.frameDecode_header {x : Header} (hx : t.fd.HasHeader x) :
    (sl.frameDecode ch fb).fd.HasHeader x ∧ (sl.frameDecode ch fb).ac.acBase = t.br.pos ∧
      (sl.frameDecode ch fb).ac.acLen = t.br.remaining ∧
      ((sl.frameDecode ch fb).slotStatus = .ok ∨
        (sl.frameDecode ch fb).slotCause = .acFirstBit ∧ codeAt (sl.frameDecode ch fb) 0 = 1 ∨
        (sl.frameDecode ch fb).slotCause = .acTermination ∧ codeAt (sl.frameDecode ch fb) 0 = 0) := by
  cases hbit : codeBit t.br.inbuf t.acStart.ac 0 with
  | true =>
    rw [Slot.frameDecode_refused hbody hbit]
    refine ⟨⟨hx.fseg, hx.pseg, hx.ftab, hx.ptab, hx.nfilters, hx.nptables, hx.half, hx.coef, hx.pone⟩, rfl, rfl,
      .inr (.inl ⟨rfl, ?_⟩)⟩
    exact (codeBit_toNat t.acStart 0).symm.trans (congrArg Bool.toNat hbit)
  | false =>
    obtain ⟨hends, hresult⟩ := Slot.frameDecode_runs hbody hbit
    obtain ⟨st, hfd⟩ := hends.fd
    exact ⟨hfd ▸ hx.terminated ch fb st, hends.acBase, hends.acLen,
      hresult.imp id fun hcause => .inr ⟨hcause, hends.codeAt_zero hbit⟩⟩

end decode

/-! ## The frame rows -/

section row
variable {s : State} {k : Nat} {ks : List Nat} {b : Byte} {rest : List Byte}

theorem Slot.withFirstByte_self {sl : Slot} (hbuf : sl.br.inbuf = b :: rest) (hbits : 8 ≤ sl.br.totalBits) :
    sl.withFirstByte b = sl := by
  rw [Slot.withFirstByte, Nat.max_eq_right hbits, hbuf, List.tail_cons, ← hbuf]

/-- The agent of a `BUSY` slot decodes the frame it holds and leaves the slot `DONE` (44_dst_pool.md R344). -/
theorem State.runFrame_busy (hturns : s.turns = k :: ks) (hbusy : (s.slot k).slotState = .busy)
    (hbuf : (s.slot k).br.inbuf = b :: rest) (hbits : 8 ≤ (s.slot k).br.totalBits) : s.runFrame b =
      { s.setSlot k { (s.slot k).frameDecode s.pool.dstCh s.pool.dstFb with slotState := .done } with turns := ks } := by
  have hslot : s.frameSlot = k := by rw [State.frameSlot, hturns, List.headD_cons]
  unfold State.runFrame
  dsimp only
  rw [hslot, Slot.withFirstByte_self hbuf hbits, if_pos hbusy, State.stepped, if_pos hbusy, hturns, List.tail_cons]
  rfl

end row

/-- Settles O35: the row is the slot's decode, and the decode of a frame with a legal header reads the header back part
by part. -/
theorem frameRowsRun : Obligations.FrameRowsRun := by
  unfold Obligations.FrameRowsRun
  refine ⟨fun s k ks b rest hturns hbusy hbuf hbits => ⟨fun x hx hb => ?_, fun x hx hb => ?_⟩,
    fun sl d ch fb x h hlen hcode hd => ?_⟩
  · have hrow : exec (.dstfCoded x) s = .next (s.runFrame (BitVec.ofNat 8 (128 + x % 128))) := rfl
    rw [hrow, Nat.mod_eq_of_lt hx, ← hb, State.runFrame_busy hturns hbusy hbuf hbits]
  · have hrow : exec (.dstfPlain x) s = .next (s.runFrame (BitVec.ofNat 8 (x % 2 * 64))) := rfl
    rw [hrow, Nat.mod_eq_of_lt hx, ← hb, State.runFrame_busy hturns hbusy hbuf hbits]
  · have hholds : (sl.startFrame ch fb).br.Holds (x.bits fb) :=
      ⟨rfl, (Nat.zero_add _).trans_le hlen, fun j hj => (congrArg (bitAt _) (Nat.zero_add j)).trans (hcode j hj)⟩
    obtain ⟨hx, hbase, hacLen, hresult⟩ :=
      Slot.frameDecode_header (frameBody_of_header h hholds) (sl.pastHeader_hasHeader ch fb x)
    subst hd
    refine ⟨hx.fseg, hx.pseg, hx.ftab, hx.ptab, hx.nfilters, hx.nptables, hx.half, hx.coef, hx.pone,
      hbase.trans (Nat.zero_add _), hacLen.trans ?_, hresult⟩
    show sl.br.totalBits - (0 + (x.bits fb).length) = _
    rw [Nat.zero_add]

end Sys2Proof.Machine
end

section
/-! PROOFS (O58, O43 to O45, O48). A conversion as one run over rows of input bits (45_dsd_pcm.md R386, R390): a row
holds one bit of every channel, and the conversion feeds the rows of its bytes one after the other. What one row does is
an equation of the converter, `Pc.feedBits_eq`, with the samples that become due in closed form; everything else about
conversions is an induction over the rows. -/

namespace Sys2Proof.Machine

open Claims

/-! ## The dither generator (45_dsd_pcm.md R395) -/

/-- The generator after the draws of `n` samples; with depth 0 nothing is drawn. -/
def ditherAfter (depth n : Nat) (lcg : Word) : Word := if depth = 0 then lcg else drawn (2 * n) lcg

theorem drawn_add (m n : Nat) (lcg : Word) : drawn (m + n) lcg = drawn n (drawn m lcg) := by
  rw [drawn, drawn, drawn, Nat.add_comm, Function.iterate_add_apply]

@[simp] theorem ditherAfter_zero (depth : Nat) (lcg : Word) : ditherAfter depth 0 lcg = lcg := by
  unfold ditherAfter
  split <;> rfl

theorem ditherAfter_ditherAfter (depth m n : Nat) (lcg : Word) :
    ditherAfter depth n (ditherAfter depth m lcg) = ditherAfter depth (m + n) lcg := by
  unfold ditherAfter
  split
  · rfl
  · rw [Nat.mul_add, drawn_add]

/-- The draws of sample `m + i` are the draws of sample `i` after those of `m` samples. -/
theorem dithered_ditherAfter (depth m i : Nat) (lcg : Word) (y : F64) :
    dithered depth i (ditherAfter depth m lcg) y = dithered depth (m + i) lcg y := by
  unfold dithered ditherAfter
  split
  · rfl
  · rw [← drawn_add, ← drawn_add]
    congr 6 <;> omega

/-- Two draws and the sample they dither. -/
theorem dither_eq (depth : Nat) (lcg : Word) (y : F64) :
    dither depth lcg y = (ditherAfter depth 1 lcg, dithered depth 0 lcg y) := by
  unfold dither ditherAfter dithered
  split <;> rfl

/-! ## The samples that become due -/

/-- The sample of a channel from its filter sum (45_dsd_pcm.md R395, R396): `i` samples of any channel were dithered
before it. -/
def storedSample (depth i : Nat) (lcg : Word) (y : F64) : F32 := toF32 (clamp1 (dithered depth i lcg y))

/-- Sample `j` of every channel from now on, with the input as it is. -/
def Pc.sampleAt (pc : Pc) (depth j : Nat) : List F32 :=
  pc.hist.mapIdx fun c hist =>
    storedSample depth (j * pc.hist.length + c) pc.lcg (pc.output hist (pc.outCount + j))

@[simp] theorem Pc.length_sampleAt (pc : Pc) (depth j : Nat) : (pc.sampleAt depth j).length = pc.hist.length :=
  List.length_mapIdx

/-- A row of samples in closed form. -/
theorem Pc.sampleRow_eq (pc : Pc) (depth : Nat) : ∀ (hists : List (List Bool)) (lcg : Word),
    pc.sampleRow depth hists lcg =
      (hists.mapIdx fun c hist => storedSample depth c lcg (pc.output hist pc.outCount),
        ditherAfter depth hists.length lcg)
  | [], lcg => by simp [Pc.sampleRow]
  | hist :: hists, lcg => by
    rw [Pc.sampleRow, dither_eq]
    dsimp only
    rw [Pc.sampleRow_eq pc depth hists]
    simp only [List.mapIdx_cons, List.length_cons, ditherAfter_ditherAfter, storedSample, dithered_ditherAfter]
    simp only [Nat.add_comm 1]

/-- The converter after `n` more samples of every channel. -/
def Pc.advanced (pc : Pc) (depth n : Nat) : Pc :=
  { pc with
    lcg := ditherAfter depth (n * pc.hist.length) pc.lcg, pcmN := pc.pcmN + n, outCount := pc.outCount + n }

theorem Pc.advanced_sampleAt (pc : Pc) (depth n j : Nat) :
    (pc.advanced depth n).sampleAt depth j = pc.sampleAt depth (n + j) := by
  unfold Pc.sampleAt storedSample
  simp only [Pc.advanced, dithered_ditherAfter]
  congr 1
  funext c hist
  rw [Nat.add_mul, Nat.add_assoc, Nat.add_assoc]
  rfl

theorem Pc.advanced_advanced (pc : Pc) (depth m n : Nat) :
    (pc.advanced depth m).advanced depth n = pc.advanced depth (m + n) := by
  simp only [Pc.advanced, ditherAfter_ditherAfter, ← Nat.add_mul, Nat.add_assoc]

/-- The output loop in closed form (45_dsd_pcm.md R390): `n` samples of every channel, gathered newest first. -/
theorem Pc.emitSamples_eq (depth : Nat) : ∀ (n : Nat) (pc : Pc) (out : List F32),
    Pc.emitSamples depth n pc out =
      (pc.advanced depth n, ((List.range n).flatMap (pc.sampleAt depth)).reverse ++ out)
  | 0, pc, out => by simp [Pc.emitSamples, Pc.advanced]
  | n + 1, pc, out => by
    have hrow : pc.sampleRow depth pc.hist pc.lcg = (pc.sampleAt depth 0, (pc.advanced depth 1).lcg) := by
      rw [Pc.sampleRow_eq]
      simp [Pc.sampleAt, Pc.advanced]
    have hsamples : (List.range (n + 1)).flatMap (pc.sampleAt depth) =
        pc.sampleAt depth 0 ++ (List.range n).flatMap ((pc.advanced depth 1).sampleAt depth) := by
      have hshift : (pc.advanced depth 1).sampleAt depth = fun j => pc.sampleAt depth (j + 1) :=
        funext fun j => (pc.advanced_sampleAt depth 1 j).trans (by rw [Nat.add_comm])
      rw [List.range_succ_eq_map, List.flatMap_cons, List.flatMap_map, hshift]
    rw [Pc.emitSamples, hrow]
    refine (Pc.emitSamples_eq depth n (pc.advanced depth 1) _).trans ?_
    rw [Pc.advanced_advanced, Nat.add_comm 1, hsamples, List.reverse_append, List.append_assoc]

/-! ## Rows of input bits -/

/-- The converter with one input bit of every channel put in front of the histories (45_dsd_pcm.md R386). -/
def Pc.received (pc : Pc) (row : List Bool) : Pc :=
  { pc with hist := List.zipWith List.cons row pc.hist, rxCount := pc.rxCount + 1 }

/-- A row with a bit of every channel leaves a history for every channel. -/
theorem length_zipWith_cons {ch : Nat} {row : List Bool} {hists : List (List Bool)} (hrow : row.length = ch)
    (hhists : hists.length = ch) : (List.zipWith List.cons row hists).length = ch := by
  rw [List.length_zipWith, hrow, hhists, min_self]

/-- The samples of every channel that are due, in order (45_dsd_pcm.md R390). -/
def Pc.dueSamples (pc : Pc) (depth : Nat) : List F32 := (List.range pc.due).flatMap (pc.sampleAt depth)

/-- One row of input bits in closed form. -/
theorem Pc.feedBits_eq (depth : Nat) (row : List Bool) (pc : Pc) (out : List F32) :
    pc.feedBits depth row out =
      ((pc.received row).advanced depth (pc.received row).due, ((pc.received row).dueSamples depth).reverse ++ out) :=
  Pc.emitSamples_eq depth _ _ out

/-- Rows of input bits, one after the other. -/
def feedRows (depth : Nat) : List (List Bool) → Pc → List F32 → Pc × List F32
  | [], pc, out => (pc, out)
  | row :: rows, pc, out => feedRows depth rows (pc.feedBits depth row out).1 (pc.feedBits depth row out).2

theorem feedRows_append (depth : Nat) : ∀ (rows rows' : List (List Bool)) (pc : Pc) (out : List F32),
    feedRows depth (rows ++ rows') pc out =
      feedRows depth rows' (feedRows depth rows pc out).1 (feedRows depth rows pc out).2
  | [], _, _, _ => rfl
  | _ :: rows, rows', _, _ => feedRows_append depth rows rows' _ _

/-- The rows of one byte of every channel, most significant bit first (20_memory.md R101). -/
def byteRows (bytes : List Byte) : List (List Bool) := (List.range 8).map fun k => bytes.map fun b => byteBit b k

/-- The rows of `n` bytes of every channel, interleaved by byte (20_memory.md R103). -/
def bitRows (ch : Nat) : Nat → List Byte → List (List Bool)
  | 0, _ => []
  | n + 1, bytes => byteRows (bytes.take ch) ++ bitRows ch n (bytes.drop ch)

theorem Pc.feedByteRow_eq_feedRows (depth : Nat) (bytes : List Byte) : ∀ (n k : Nat) (pc : Pc) (out : List F32),
    Pc.feedByteRow depth bytes n k pc out =
      feedRows depth ((List.range' k n).map fun k => bytes.map fun b => byteBit b k) pc out
  | 0, _, _, _ => rfl
  | n + 1, k, _, _ => Pc.feedByteRow_eq_feedRows depth bytes n (k + 1) _ _

theorem Pc.feedBytes_eq_feedRows (depth : Nat) : ∀ (n : Nat) (bytes : List Byte) (pc : Pc) (out : List F32),
    Pc.feedBytes depth n bytes pc out = feedRows depth (bitRows pc.ch n bytes) pc out
  | 0, _, _, _ => rfl
  | n + 1, bytes, pc, out => by
    have hrow : Pc.feedByteRow depth (bytes.take pc.ch) 8 0 pc out =
        feedRows depth (byteRows (bytes.take pc.ch)) pc out := by
      rw [Pc.feedByteRow_eq_feedRows, byteRows, List.range_eq_range']
    have hch : (Pc.feedByteRow depth (bytes.take pc.ch) 8 0 pc out).1.ch = pc.ch :=
      (Pc.feedByteRow_mode depth (bytes.take pc.ch) 8 0 pc out).ch
    rw [Pc.feedBytes, bitRows, feedRows_append, ← hrow]
    generalize Pc.feedByteRow depth (bytes.take pc.ch) 8 0 pc out = r at hch
    rw [← hch]
    exact Pc.feedBytes_eq_feedRows depth n (bytes.drop r.1.ch) r.1 r.2

theorem bitRows_append (ch : Nat) : ∀ (m n : Nat) (a b : List Byte), a.length = m * ch →
    bitRows ch (m + n) (a ++ b) = bitRows ch m a ++ bitRows ch n b
  | 0, n, a, b, h => by
    rw [List.eq_nil_of_length_eq_zero (h.trans (Nat.zero_mul ch)), Nat.zero_add]
    rfl
  | m + 1, n, a, b, h => by
    have hle : ch ≤ a.length := h ▸ Nat.le_mul_of_pos_left ch m.succ_pos
    have hdrop : (a.drop ch).length = m * ch := by
      rw [List.length_drop, h, Nat.add_mul, Nat.one_mul, Nat.add_sub_cancel]
    rw [Nat.add_right_comm, bitRows, bitRows, List.take_append_of_le_length hle, List.drop_append_of_le_length hle,
      bitRows_append ch m n (a.drop ch) b hdrop, List.append_assoc]

/-- Eight rows for every byte of a channel. -/
theorem length_bitRows (ch : Nat) : ∀ (n : Nat) (bytes : List Byte), (bitRows ch n bytes).length = 8 * n
  | 0, _ => rfl
  | n + 1, bytes => by
    rw [bitRows, List.length_append, length_bitRows ch n, byteRows, List.length_map, List.length_range]
    omega

/-- A row has a bit of every channel, as long as the bytes last. -/
theorem length_of_mem_bitRows (ch : Nat) : ∀ (n : Nat) (bytes : List Byte), n * ch ≤ bytes.length →
    ∀ row ∈ bitRows ch n bytes, row.length = ch
  | 0, _, _, _, h => absurd h List.not_mem_nil
  | n + 1, bytes, hle, row, h => by
    rw [Nat.add_mul, Nat.one_mul] at hle
    rcases List.mem_append.mp h with h | h
    · obtain ⟨k, _, rfl⟩ := List.mem_map.mp h
      rw [List.length_map, List.length_take]
      omega
    · exact length_of_mem_bitRows ch n (bytes.drop ch) (by rw [List.length_drop]; omega) row h

/-! ## A conversion -/

/-- The rows that a conversion of these bytes feeds. -/
def inputRows (ch : Nat) (bytes : List Byte) : List (List Bool) := bitRows ch (bytes.length / ch) bytes

theorem length_of_mem_inputRows {ch : Nat} {bytes : List Byte} {row : List Bool} (h : row ∈ inputRows ch bytes) :
    row.length = ch := length_of_mem_bitRows ch _ bytes (Nat.div_mul_le_self _ _) row h

/-- The converter as a conversion starts on it. -/
def Pc.begun (pc : Pc) (bytes : List Byte) : Pc :=
  { pc with pcmN := 0, convertCalled := pc.convertCalled || bytes.length / pc.ch ≠ 0 }

/-- The converter and the samples, newest first, after the rows of the bytes. -/
def Pc.fed (pc : Pc) (depth : Nat) (bytes : List Byte) : Pc × List F32 :=
  feedRows depth (inputRows pc.ch bytes) (pc.begun bytes) []

theorem Pc.convert_eq (pc : Pc) (depth : Nat) (bytes : List Byte) :
    pc.convert depth bytes =
      { (pc.fed depth bytes).1 with pcmBuf := overwrite pc.pcmBuf (pc.fed depth bytes).2.reverse } := by
  unfold Pc.convert
  dsimp only
  rw [Pc.feedBytes_eq_feedRows]
  rfl

end Sys2Proof.Machine
end

section
/-! PROOFS (O58, O43, O45). What a conversion from lawful counts has gathered after any number of rows
(45_dsd_pcm.md R390, R391): `Pc.Gathered` is kept by every row, and it gives the counts, the generator and every sample
stored at the end. A sample is written over the histories at the end: later input does not change it. -/

namespace Sys2Proof.Machine

open Claims

/-! ## A sample over a longer history -/

/-- `y_c[m]` over all the input of a channel (45_dsd_pcm.md R385). -/
def Pc.outputOver (pc : Pc) (hist : List Bool) (m : Nat) : F64 :=
  ({ pc with rxCount := hist.length } : Pc).output hist m

/-- The newest input sample that output number `m` needs. -/
def Pc.newestInput (pc : Pc) (m : Nat) : Nat := ((m + 1) * pc.d - 1) / pc.u

/-- A sample that is due has all its input. -/
theorem Pc.newestInput_lt {pc : Pc} {m rx : Nat} (h : m < rx * pc.u / pc.d) : pc.newestInput m < rx := by
  have hd : 0 < pc.d := Nat.pos_of_ne_zero fun hd => by simp [hd] at h
  have hdue : (m + 1) * pc.d ≤ rx * pc.u := (Nat.mul_le_mul_right _ h).trans (Nat.div_mul_le_self _ _)
  have hpos : 0 < (m + 1) * pc.d := Nat.mul_pos m.succ_pos hd
  exact Nat.div_lt_of_lt_mul (by rw [Nat.mul_comm pc.u]; omega)

/-- Input that comes later does not change a sample. -/
theorem Pc.outputOver_cons (pc : Pc) (x : Bool) (hist : List Bool) (m : Nat) (h : pc.newestInput m < hist.length) :
    pc.outputOver (x :: hist) m = pc.outputOver hist m := by
  have hdrop : (x :: hist).drop (hist.length + 1 - 1 - pc.newestInput m) =
      hist.drop (hist.length - 1 - pc.newestInput m) := by
    rw [show hist.length + 1 - 1 - pc.newestInput m = hist.length - 1 - pc.newestInput m + 1 by omega,
      List.drop_succ_cons]
  exact congrArg (fir pc.u 0 (pc.h.drop (((m + 1) * pc.d - 1) % pc.u))) hdrop

/-- A converter in the mode of `p` computes what `p` does over the same input. -/
theorem Pc.output_eq_outputOver {p q : Pc} (hmode : p.SameMode q) {hist : List Bool} (hlen : hist.length = q.rxCount)
    (m : Nat) : q.output hist m = p.outputOver hist m := by
  rw [Pc.outputOver, hlen]
  simp only [Pc.output, hmode.d, hmode.u, hmode.h]

/-- Sample `j` of every channel after `p`, over the histories given. -/
def Pc.sampleOver (p : Pc) (depth : Nat) (hists : List (List Bool)) (j : Nat) : List F32 :=
  hists.mapIdx fun c hist => storedSample depth (j * p.ch + c) p.lcg (p.outputOver hist (p.outCount + j))

@[simp] theorem Pc.length_sampleOver (p : Pc) (depth : Nat) (hists : List (List Bool)) (j : Nat) :
    (p.sampleOver depth hists j).length = hists.length := List.length_mapIdx

/-- The next samples of a converter that is `n` samples past `p` come `n` samples later after `p`. -/
theorem Pc.sampleAt_eq_sampleOver {p q : Pc} {depth n : Nat} (hmode : p.SameMode q) (hch : q.hist.length = p.ch)
    (hlen : ∀ h ∈ q.hist, h.length = q.rxCount) (hcount : q.outCount = p.outCount + n)
    (hlcg : q.lcg = ditherAfter depth (n * p.ch) p.lcg) (j : Nat) :
    q.sampleAt depth j = p.sampleOver depth q.hist (n + j) := by
  refine List.ext_getElem (by simp) fun c hc _ => ?_
  rw [Pc.length_sampleAt] at hc
  have hindex : n * p.ch + (j * p.ch + c) = (n + j) * p.ch + c := by ring
  simp only [Pc.sampleAt, Pc.sampleOver, List.getElem_mapIdx, storedSample]
  rw [Pc.output_eq_outputOver hmode (hlen _ (List.getElem_mem hc)), hch, hcount, hlcg, dithered_ditherAfter, hindex,
    Nat.add_assoc]

theorem Pc.sampleOver_zipWith (p : Pc) (depth j rx : Nat) (row : List Bool) (hists : List (List Bool))
    (hrow : row.length = hists.length) (hlen : ∀ h ∈ hists, h.length = rx)
    (hdue : p.outCount + j < rx * p.u / p.d) :
    p.sampleOver depth (List.zipWith List.cons row hists) j = p.sampleOver depth hists j := by
  refine List.ext_getElem (by simp [hrow]) fun c _ hc => ?_
  rw [Pc.length_sampleOver] at hc
  simp only [Pc.sampleOver, List.getElem_mapIdx, List.getElem_zipWith]
  rw [p.outputOver_cons _ _ _ (by rw [hlen _ (List.getElem_mem hc)]; exact Pc.newestInput_lt hdue)]

/-! ## What has been gathered -/

/-- `out`, newest first, is what the conversion that began on `p` has gathered when the converter is `pc`. -/
structure Pc.Gathered (p : Pc) (depth : Nat) (pc : Pc) (out : List F32) : Prop where
  mode : p.SameMode pc
  channels : pc.hist.length = p.ch
  received : ∀ h ∈ pc.hist, h.length = pc.rxCount
  produced : pc.outCount = pc.rxCount * p.u / p.d
  since : pc.outCount = p.outCount + pc.pcmN
  lcg : pc.lcg = ditherAfter depth (pc.pcmN * p.ch) p.lcg
  samples : out.reverse = (List.range pc.pcmN).flatMap (p.sampleOver depth pc.hist)

/-- Each channel's history grows by its bit. -/
theorem length_of_mem_zipWith_cons {rx : Nat} {row : List Bool} {hists : List (List Bool)}
    (h : ∀ hist ∈ hists, hist.length = rx) : ∀ hist ∈ List.zipWith List.cons row hists, hist.length = rx + 1 := by
  intro hist hmem
  obtain ⟨i, hi, rfl⟩ := List.mem_iff_getElem.mp hmem
  rw [List.getElem_zipWith, List.length_cons, h _ (List.getElem_mem _)]

section gathered
variable {p pc : Pc} {depth : Nat} {out : List F32} (h : p.Gathered depth pc out)
include h

/-- One more row keeps what is gathered (45_dsd_pcm.md R390, R391). -/
theorem Pc.Gathered.feedBits {row : List Bool} (hrow : row.length = p.ch) :
    p.Gathered depth (pc.feedBits depth row out).1 (pc.feedBits depth row out).2 := by
  have hlen : (List.zipWith List.cons row pc.hist).length = p.ch := length_zipWith_cons hrow h.channels
  have hmode := h.mode.trans (pc.feedBits_mode depth row out)
  have hmono : pc.outCount ≤ (pc.rxCount + 1) * p.u / p.d :=
    h.produced.trans_le (Nat.div_le_div_right (Nat.mul_le_mul_right _ pc.rxCount.le_succ))
  have hdue : (pc.received row).due = (pc.rxCount + 1) * p.u / p.d - pc.outCount := by
    simp only [Pc.due, Pc.received, h.mode.d, h.mode.u]
  have hsince := h.since
  rw [Pc.feedBits_eq] at hmode ⊢
  constructor
  case mode => exact hmode
  case channels => exact hlen
  case received => exact length_of_mem_zipWith_cons h.received
  case produced =>
    show pc.outCount + (pc.received row).due = (pc.rxCount + 1) * p.u / p.d
    omega
  case since =>
    show pc.outCount + (pc.received row).due = p.outCount + (pc.pcmN + (pc.received row).due)
    omega
  case lcg =>
    show ditherAfter depth ((pc.received row).due * (List.zipWith List.cons row pc.hist).length) pc.lcg =
      ditherAfter depth ((pc.pcmN + (pc.received row).due) * p.ch) p.lcg
    rw [hlen, h.lcg, ditherAfter_ditherAfter, Nat.add_mul]
  case samples =>
    show (((pc.received row).dueSamples depth).reverse ++ out).reverse =
      (List.range (pc.pcmN + (pc.received row).due)).flatMap
        (p.sampleOver depth (List.zipWith List.cons row pc.hist))
    rw [List.reverse_append, List.reverse_reverse, h.samples, List.range_add, List.flatMap_append, List.flatMap_map,
      Pc.dueSamples]
    congr 1
    · refine List.flatMap_congr fun j hj => (p.sampleOver_zipWith depth j pc.rxCount row pc.hist ?_ h.received ?_).symm
      · rw [hrow, h.channels]
      · have hj := List.mem_range.mp hj
        rw [← h.produced]
        omega
    · exact List.flatMap_congr fun j _ => Pc.sampleAt_eq_sampleOver (q := pc.received row) (h.mode.trans rfl) hlen
        (length_of_mem_zipWith_cons h.received) h.since h.lcg j

theorem Pc.Gathered.length_out : out.length = pc.pcmN * p.ch := by
  have hsum : ((List.range pc.pcmN).flatMap (p.sampleOver depth pc.hist)).length = pc.pcmN * p.ch := by
    simp [List.length_flatMap, h.channels]
  rw [← List.length_reverse, h.samples, hsum]

end gathered

theorem Pc.Gathered.feedRows {p : Pc} {depth : Nat} : ∀ (rows : List (List Bool)) (pc : Pc) (out : List F32),
    p.Gathered depth pc out → (∀ row ∈ rows, row.length = p.ch) →
    p.Gathered depth (feedRows depth rows pc out).1 (feedRows depth rows pc out).2
  | [], _, _, h, _ => h
  | row :: rows, _, _, h, hrows =>
    Pc.Gathered.feedRows rows _ _ (h.feedBits (hrows row List.mem_cons_self)) fun r hr =>
      hrows r (List.mem_cons_of_mem row hr)

/-- What a whole conversion has gathered. -/
theorem Pc.fed_gathered {pc : Pc} (h : pc.Inv) (depth : Nat) (bytes : List Byte) :
    (pc.begun bytes).Gathered depth (pc.fed depth bytes).1 (pc.fed depth bytes).2 := by
  refine Pc.Gathered.feedRows _ _ _ ⟨Pc.SameMode.refl _, h.channels, h.received, h.produced, rfl, ?_, rfl⟩
    fun row hrow => length_of_mem_inputRows hrow
  show pc.lcg = ditherAfter depth (0 * pc.ch) pc.lcg
  rw [Nat.zero_mul, ditherAfter_zero]

/-! ## The sample-count law (45_dsd_pcm.md R391) -/

/-- A conversion keeps the counts of the converter. -/
theorem Pc.Inv.convert {pc : Pc} (h : pc.Inv) (depth : Nat) (bytes : List Byte) : (pc.convert depth bytes).Inv := by
  have hg := Pc.fed_gathered h depth bytes
  rw [Pc.convert_eq]
  constructor
  case channels => exact hg.channels.trans hg.mode.ch.symm
  case received => exact hg.received
  case produced =>
    show (pc.fed depth bytes).1.outCount =
      (pc.fed depth bytes).1.rxCount * (pc.fed depth bytes).1.u / (pc.fed depth bytes).1.d
    rw [hg.mode.u, hg.mode.d, hg.produced]
  case held =>
    show (pc.fed depth bytes).1.pcmN * (pc.fed depth bytes).1.ch ≤
      (overwrite pc.pcmBuf (pc.fed depth bytes).2.reverse).length
    rw [hg.mode.ch, length_overwrite, List.length_reverse, hg.length_out]
    exact Nat.le_max_left _ _

/-- A fade keeps the counts of the converter. -/
theorem Pc.Inv.degibbs {pc : Pc} (h : pc.Inv) (start n : Nat) (side : Bool) : (pc.degibbs start n side).2.Inv := by
  obtain ⟨hframe, hlength⟩ := pc.degibbs_frame start n side
  rw [hframe]
  exact ⟨h.channels, h.received, h.produced, h.held.trans_eq hlength.symm⟩

theorem Pc.Inv.fadeIn {pc : Pc} (h : pc.Inv) (first : Bool) : (pc.fadeIn first).Inv := by
  unfold Pc.fadeIn
  split
  · exact h.degibbs _ _ _
  · exact h

/-- A converter that has received nothing meets the law. -/
theorem Pc.Inv.start (old : Pc) (ch k pcm : Nat) (seed : Word) : (old.start ch k pcm seed).Inv where
  channels := List.length_replicate
  received hist hmem := by
    rw [List.eq_of_mem_replicate hmem]
    rfl
  produced := by
    show 0 = 0 * (mode k pcm).u / (mode k pcm).d
    rw [Nat.zero_mul, Nat.zero_div]
  held := by
    show 0 * ch ≤ old.pcmBuf.length
    rw [Nat.zero_mul]
    exact Nat.zero_le _

theorem Pc.Inv.reset : Pc.reset.Inv := ⟨rfl, nofun, (Nat.zero_div _).symm, Nat.zero_le _⟩

theorem Pc.Inv.closed (pc : Pc) : pc.closed.Inv := ⟨rfl, nofun, (Nat.zero_div _).symm, Nat.zero_le _⟩

end Sys2Proof.Machine
end

section
/-! PROOFS (O58). Every step keeps the sample-count law (45_dsd_pcm.md R391). Most operations leave the converter as it
was; those that write it are a conversion, a fade, `PC_INIT`, `INIT_TRACK`, `CLOSE` and the resets, and each of them
leaves a converter that meets the law. -/

namespace Sys2Proof.Machine

/-! ## Outcomes that keep the law -/

/-- The converter of the next state, if there is one, meets the sample-count law. -/
def CountedOutcome (o : Out) : Prop := ∀ t, o = .next t → t.pc.Inv

section answers
variable {pc : Pc} {t : State} {e : Exc} {v : Value} {r : Reply} (h : pc.Inv) (hpc : t.pc = pc)
include h hpc

theorem CountedOutcome.next : CountedOutcome (.next t) := by
  rintro _ ⟨⟩
  rw [hpc]
  exact h

theorem CountedOutcome.ok : CountedOutcome (t.ok v) := CountedOutcome.next (t := t.respond v) h hpc

theorem CountedOutcome.fail : CountedOutcome (t.fail e v) :=
  CountedOutcome.next (t := t.raise e v) h hpc

theorem CountedOutcome.finish : CountedOutcome (t.finish r) := by
  unfold State.finish
  split
  · exact .ok h hpc
  · exact .fail h hpc

end answers

section gates
variable {s : State} (h : s.pc.Inv)
include h

/-- A check that refuses the command, as every gate and every operand check does. -/
theorem CountedOutcome.check {c : Prop} [Decidable c] {e : Exc} {v : Value} {k : Out} (hk : CountedOutcome k) :
    CountedOutcome (if c then s.fail e v else k) := by
  split
  · exact .fail h rfl
  · exact hk

/-- The gates in front of a command on the selected slot (40_bitreader.md R200 (a), 48_session.md R542). -/
theorem CountedOutcome.slotCommand {k : Slot → Out} (hk : ∀ sl, CountedOutcome (k sl)) :
    CountedOutcome (s.unlessOwned (s.withFreeSlot k)) := by
  refine .check h ?_
  unfold State.withFreeSlot
  split
  · exact hk _
  · exact .fail h rfl

/-- The gates in front of a converter command (48_session.md R542, 60_exceptions.md R602). -/
theorem CountedOutcome.converterCommand {k : Pc → Out} (hk : CountedOutcome (k s.pc)) :
    CountedOutcome (s.unlessOwned (s.withConverter k)) := .check h (.check h hk)

/-- A command that answers a value of the open container (46_fx_files.md R458 to R461). -/
theorem CountedOutcome.containerValue {v : Value} : CountedOutcome (s.withContainer (s.ok v)) := .check h (.ok h rfl)

theorem CountedOutcome.takeDin {n : Nat} {i : Instr} {k : List Byte → State → Out}
    (hk : ∀ (bytes : List Byte) (t : State), t.pc.Inv → CountedOutcome (k bytes t)) :
    CountedOutcome (s.takeDin n i k) := by
  unfold State.takeDin
  split
  · exact .next h rfl
  · exact hk _ _ h

theorem CountedOutcome.answerRead (r : Option Value × BitReader) : CountedOutcome (s.answerRead r) := by
  unfold State.answerRead
  split
  · exact .ok h rfl
  · exact .fail h rfl

end gates

/-! ## What leaves the converter alone -/

theorem State.FxOnly.pc {s t : State} (h : s.FxOnly t) : t.pc = s.pc := by rw [h.frame]

theorem State.retire_pc (s : State) : s.retire.pc = s.pc := by
  rcases s.retire_cases with ⟨_, hr⟩ | ⟨_, hr⟩ <;> rw [hr] <;> rfl

theorem State.collectBody_pc (s : State) : s.collectBody.2.pc = s.pc := s.retire_pc

theorem State.submitFrame_pc (s : State) (f : Frame) : (s.submitFrame f).pc = s.pc := by
  unfold State.submitFrame
  split
  · rfl
  · split <;> rfl

theorem State.writeReg_pc (s : State) (r : WritableReg) (v : Nat) : (s.writeReg r v).pc = s.pc := by
  cases r <;> rfl

/-- The read-ahead converts nothing (48_session.md R550). -/
theorem State.fillRing_pc : ∀ (fuel : Nat) (s : State), (State.fillRing fuel s).pc = s.pc
  | 0, _ => rfl
  | fuel + 1, s => by
    have hread := s.readFrameBody_only.pc
    rw [State.fillRing]
    split
    · split
      · next hr =>
        rw [hr] at hread
        exact hread
      · next f t hr =>
        rw [hr] at hread
        exact ((State.fillRing_pc fuel _).trans (t.submitFrame_pc f)).trans hread
    · rfl

/-! ## The commands -/

section commands
variable {s : State} (h : s.pc.Inv)
include h

theorem execBrLoad_counted (size : Nat) : CountedOutcome (execBrLoad size s) :=
  .slotCommand h fun _ => .check h <| .takeDin h fun _ _ ht => .ok ht rfl

theorem execAcDecode_counted (p flush : Nat) : CountedOutcome (execAcDecode p flush s) := by
  refine .slotCommand h fun sl => ?_
  split
  · exact .fail h rfl
  · exact .ok h rfl
  · refine .check h ?_
    dsimp only
    split
    · rintro t ⟨⟩
    · exact .ok h rfl

theorem execDstDecode_counted : CountedOutcome (execDstDecode s) := by
  refine .slotCommand h fun sl => .check h ?_
  dsimp only
  split
  · exact .ok h rfl
  · exact .fail h rfl

theorem execSubmit_counted (size : Nat) : CountedOutcome (execSubmit size s) := by
  refine .check h ?_
  split
  · exact .check h (.ok h rfl)
  · refine .check h <| .check h ?_
    split
    · exact .next h rfl
    · exact .takeDin h fun _ _ ht => .ok ht rfl

theorem execSubmitDsd_counted (size : Nat) : CountedOutcome (execSubmitDsd size s) := by
  refine .check h <| .check h <| .check h ?_
  split
  · exact .next h rfl
  · exact .takeDin h fun _ _ ht => .ok ht rfl

theorem execCollect_counted (handle : Nat) : CountedOutcome (execCollect handle s) :=
  .check h <| .check h <| .check h <| .finish h s.collectBody_pc

theorem execPcInit_counted (ch dsd pcm : Nat) : CountedOutcome (execPcInit ch dsd pcm s) := by
  refine .check h <| .check h ?_
  split
  · exact .fail h rfl
  · exact .fail h rfl
  · exact .ok (Pc.Inv.start s.pc ch _ _ _) rfl

theorem execPcConvert_counted (size : Nat) : CountedOutcome (execPcConvert size s) :=
  .converterCommand h <| .check h <| .takeDin h fun bytes t ht => .ok (ht.convert t.ditherDepth bytes) rfl

theorem execPcDegibbs_counted (side n : Nat) : CountedOutcome (execPcDegibbs side n s) := by
  refine .converterCommand h ?_
  split
  · exact .fail h rfl
  · exact .check h (.ok (h.degibbs 0 n _) rfl)

theorem execOpen_counted (kind : Nat) : CountedOutcome (execOpen kind s) := by
  unfold execOpen
  split
  · exact .fail h rfl
  · next k _ =>
    refine .check h ?_
    have hparse : (endState (fxOpen k s.resetFx)).pc = s.pc := (fxOpen_only k s.resetFx).pc
    split
    · next t ht =>
      rw [ht] at hparse
      exact .ok h hparse
    · next e t ht =>
      rw [ht] at hparse
      exact .fail h hparse

theorem execSetTrack_counted (track area : Nat) : CountedOutcome (execSetTrack track area s) := by
  refine .check h <| .check h ?_
  split
  · exact .fail h rfl
  · next a _ =>
    refine .check h ?_
    have hread := (s.readTrackList_only track a).pc
    split
    · next hr =>
      rw [hr] at hread
      exact .fail h hread
    · next hr =>
      rw [hr] at hread
      exact .ok h hread

/-- `INIT_TRACK` starts the converter afresh (48_session.md R545). -/
theorem execInitTrack_counted (track area pcm : Nat) : CountedOutcome (execInitTrack track area pcm s) := by
  refine .check h ?_
  split
  · exact .fail h rfl
  · exact .fail h rfl
  · next a rate _ _ =>
    refine .check h <| .check h ?_
    have hread := (s.readTrackList_only track a).pc
    split
    · next hr =>
      rw [hr] at hread
      exact .fail h hread
    · exact .ok (Pc.Inv.start _ _ _ _ _) rfl

theorem execReadFrame_counted : CountedOutcome (execReadFrame s) := by
  refine .check h <| .check h ?_
  have hread := s.readFrameBody_only.pc
  split
  · next hr =>
    rw [hr] at hread
    exact .ok h hread
  · next hr =>
    rw [hr] at hread
    exact .ok h hread

theorem execSeek_counted (frame : Nat) : CountedOutcome (execSeek frame s) := by
  refine .check h <| .check h ?_
  have hseek := (s.seekKind_only frame).pc
  split
  · next hr =>
    rw [hr] at hseek
    exact .fail h hseek
  · next hr =>
    rw [hr] at hseek
    exact .ok h hseek

theorem execRdreg_counted (idx : Nat) : CountedOutcome (execRdreg idx s) := by
  unfold execRdreg
  split
  · exact .ok h rfl
  · exact .fail h rfl

theorem execWrreg_counted (idx imm16 : Nat) : CountedOutcome (execWrreg idx imm16 s) := by
  unfold execWrreg
  split
  · exact .fail h rfl
  · next r _ => exact .check h <| .check h <| .check h <| .ok h (s.writeReg_pc r imm16)

/-! ## DECODE_NEXT (48_session.md R550, R552) -/

theorem State.retireFrame_counted : s.retireFrame.2.pc.Inv := by
  have hcollect : s.collectBody.2.pc.Inv := s.collectBody_pc.symm ▸ h
  exact Pc.Inv.fadeIn (hcollect.convert s.collectBody.2.ditherDepth s.collectBody.1.out) _

theorem State.flushTrack_counted : s.flushTrack.2.pc.Inv := by
  unfold State.flushTrack
  split
  · exact (h.convert _ _).degibbs _ _ _
  · exact h

theorem State.decodeNextBody_counted : s.decodeNextBody.2.pc.Inv := by
  have hfill : (State.fillRing (2 ^ 70) s).pc.Inv := (State.fillRing_pc (2 ^ 70) s).symm ▸ h
  unfold State.decodeNextBody
  generalize State.fillRing (2 ^ 70) s = t at hfill
  dsimp only
  split
  · exact State.retireFrame_counted hfill
  · exact State.flushTrack_counted hfill

/-! ## The step -/

/-- Every instruction keeps the law. -/
theorem exec_counted (i : Instr) : CountedOutcome (exec i s) := by
  cases i with
  | nop => exact .ok h rfl
  | reset => exact .ok Pc.Inv.reset rfl
  | openMedium kind => exact execOpen_counted h kind
  | initTrack track area pcm => exact execInitTrack_counted h track area pcm
  | decodeNext => exact .check h (.finish (State.decodeNextBody_counted h) rfl)
  | close => exact .ok (Pc.Inv.closed s.pc) rfl
  | rdreg idx => exact execRdreg_counted h idx
  | wrreg idx imm16 => exact execWrreg_counted h idx imm16
  | setTrack track area => exact execSetTrack_counted h track area
  | readFrame => exact execReadFrame_counted h
  | seek frame => exact execSeek_counted h frame
  | getChannels => exact .containerValue h
  | getSamplerate => exact .containerValue h
  | getFramerate => exact .containerValue h
  | getProgress => exact .containerValue h
  | poolInit ch => exact .check h <| .check h <| .check h <| .ok h rfl
  | submit size => exact execSubmit_counted h size
  | submitDsd size => exact execSubmitDsd_counted h size
  | collect handle => exact execCollect_counted h handle
  | dstDecode => exact execDstDecode_counted h
  | slotRead => exact .slotCommand h fun _ => .ok h rfl
  | brLoad size => exact execBrLoad_counted h size
  | brReadBit => exact .slotCommand h fun _ => .answerRead h _
  | brReadBits n => exact .slotCommand h fun _ => .check h (.answerRead h _)
  | brReadSigned n => exact .slotCommand h fun _ => .check h (.answerRead h _)
  | brReadByteAligned => exact .slotCommand h fun _ => .answerRead h _
  | brRice m => exact .slotCommand h fun _ => .check h (.answerRead h _)
  | acStart => exact .slotCommand h fun _ => .ok h rfl
  | acDecode p flush => exact execAcDecode_counted h p flush
  | acQuantize len pred => exact .check h (.ok h rfl)
  | pcInit ch dsd pcm => exact execPcInit_counted h ch dsd pcm
  | pcConvert size => exact execPcConvert_counted h size
  | pcGetDelay => exact .check h (.ok h rfl)
  | pcIsConvertCalled => exact .ok h rfl
  | pcDegibbs side n => exact execPcDegibbs_counted h side n
  | pcPack skip count => exact .converterCommand h (.check h (.ok h rfl))
  | pcReadf => exact .converterCommand h (.ok h rfl)
  | dstfCoded x => exact .next h rfl
  | dstfPlain x => exact .next h rfl

theorem step_counted : CountedOutcome (step s) := by
  have hcases := step_cases s
  generalize step s = o at hcases
  cases hcases with
  | reset _ => exact .next Pc.Inv.reset rfl
  | stay => exact .next h rfl
  | noFrame k ks _ => exact .next h rfl
  | badFrame k ks _ _ => exact .next h rfl
  | frame i _ _ => exact exec_counted h i
  | held i _ _ => exact exec_counted (s := { s with held := none }) h i
  | command w ws i _ _ _ _ => exact exec_counted (s := { s with cmd := ws }) h i
  | illegal w ws _ => exact .next h rfl

end commands

/-- Settles O58: every case of a step keeps the law, and what converts keeps it by `Pc.Inv.convert`. -/
theorem sampleCountLawHolds : Obligations.SampleCountLawHolds := by
  unfold Obligations.SampleCountLawHolds
  intro s t hs hstep
  exact step_counted hs t hstep

end Sys2Proof.Machine
end

section
/-! PROOFS (O43, O44). What `PC_CONVERT` does to the converter as a whole, and that a conversion may be cut in two
(45_dsd_pcm.md R390, R391, R395, R425). The rows of two runs of bytes are the rows of the first and then those of the
second; only PCMBUF, its count and the samples gathered depend on where the cut is. -/

namespace Sys2Proof.Machine

open Claims

/-! ## What the rows leave in the converter -/

/-- Every row counts one input sample; PCMBUF and the flag of R404 are not written by rows. -/
theorem feedRows_counts (depth : Nat) : ∀ (rows : List (List Bool)) (pc : Pc) (out : List F32),
    (feedRows depth rows pc out).1.rxCount = pc.rxCount + rows.length ∧
    (feedRows depth rows pc out).1.convertCalled = pc.convertCalled ∧
    (feedRows depth rows pc out).1.pcmBuf = pc.pcmBuf
  | [], _, _ => ⟨rfl, rfl, rfl⟩
  | row :: rows, pc, out => by
    obtain ⟨hrx, hcalled, hbuf⟩ :=
      feedRows_counts depth rows (pc.feedBits depth row out).1 (pc.feedBits depth row out).2
    rw [Pc.feedBits_eq] at hrx hcalled hbuf
    rw [feedRows, Pc.feedBits_eq]
    refine ⟨hrx.trans ?_, hcalled, hbuf⟩
    show pc.rxCount + 1 + rows.length = pc.rxCount + (row :: rows).length
    rw [List.length_cons, Nat.add_assoc, Nat.add_comm 1]

theorem Pc.fed_counts (pc : Pc) (depth : Nat) (bytes : List Byte) :
    (pc.fed depth bytes).1.rxCount = pc.rxCount + 8 * (bytes.length / pc.ch) ∧
    (pc.fed depth bytes).1.convertCalled = (pc.convertCalled || decide (bytes.length / pc.ch ≠ 0)) ∧
    (pc.fed depth bytes).1.pcmBuf = pc.pcmBuf := by
  obtain ⟨hrx, hcalled, hbuf⟩ := feedRows_counts depth (inputRows pc.ch bytes) (pc.begun bytes) []
  exact ⟨hrx.trans (by rw [inputRows, length_bitRows]; rfl), hcalled, hbuf⟩

/-- The counts, the generator and the flag of R404 after a conversion from lawful counts (45_dsd_pcm.md R390, R391,
R395). -/
theorem Pc.convert_counts {pc : Pc} (h : pc.Inv) (depth : Nat) (bytes : List Byte) :
    (pc.convert depth bytes).rxCount = pc.rxCount + 8 * (bytes.length / pc.ch) ∧
    (pc.convert depth bytes).outCount = (pc.rxCount + 8 * (bytes.length / pc.ch)) * pc.u / pc.d ∧
    (pc.convert depth bytes).pcmN =
      (pc.rxCount + 8 * (bytes.length / pc.ch)) * pc.u / pc.d - pc.rxCount * pc.u / pc.d ∧
    (pc.convert depth bytes).lcg = ditherAfter depth ((pc.convert depth bytes).pcmN * pc.ch) pc.lcg ∧
    (pc.convert depth bytes).convertCalled = (pc.convertCalled || decide (bytes.length / pc.ch ≠ 0)) := by
  have hg := Pc.fed_gathered h depth bytes
  obtain ⟨hrx, hcalled, _⟩ := pc.fed_counts depth bytes
  have hproduced : (pc.fed depth bytes).1.outCount = (pc.rxCount + 8 * (bytes.length / pc.ch)) * pc.u / pc.d := by
    rw [hg.produced, hrx]
    rfl
  have hsince : (pc.fed depth bytes).1.outCount = pc.outCount + (pc.fed depth bytes).1.pcmN := hg.since
  rw [Pc.convert_eq]
  refine ⟨hrx, hproduced, ?_, hg.lcg, hcalled⟩
  rw [← hproduced, ← h.produced, hsince]
  exact (Nat.add_sub_cancel_left _ _).symm

/-- A conversion from lawful counts, field by field (45_dsd_pcm.md R390). -/
theorem Pc.convert_fields {pc : Pc} (h : pc.Inv) (depth : Nat) (bytes : List Byte) :
    pc.convert depth bytes = { pc with
      hist := (pc.convert depth bytes).hist, rxCount := pc.rxCount + 8 * (bytes.length / pc.ch)
      outCount := (pc.rxCount + 8 * (bytes.length / pc.ch)) * pc.u / pc.d
      pcmN := (pc.rxCount + 8 * (bytes.length / pc.ch)) * pc.u / pc.d - pc.rxCount * pc.u / pc.d
      lcg := ditherAfter depth ((pc.convert depth bytes).pcmN * pc.ch) pc.lcg
      convertCalled := pc.convertCalled || decide (bytes.length / pc.ch ≠ 0)
      pcmBuf := (pc.convert depth bytes).pcmBuf } := by
  obtain ⟨hrx, hout, hn, hlcg, hcalled⟩ := Pc.convert_counts h depth bytes
  rw [← hn, ← hout, ← hrx, ← hlcg, ← hcalled]
  exact pc.convert_mode depth bytes

/-! ## PC_CONVERT -/

/-- The two checks of `PC_CONVERT` passed and its bytes on DIN (45_dsd_pcm.md R390). -/
theorem execPcConvert_accepted {s : State} {size : Nat} (hready : converterReady s) (hch : size % s.pc.ch = 0)
    (hframe : size / s.pc.ch ≤ 4704 * s.pc.k) (hdin : size ≤ s.din.length) :
    exec (.pcConvert size) s = .next (({ s with
      din := s.din.drop size, pc := s.pc.convert s.ditherDepth (s.din.take size) } : State).okWith
        (val (s.pc.convert s.ditherDepth (s.din.take size)).pcmN)) := by
  obtain ⟨hsess, ht⟩ := hready
  have hcheck : ¬ (size % s.pc.ch ≠ 0 ∨ Config.orderFrameBytes s.pc.k < size / s.pc.ch) := by
    rw [Config.orderFrameBytes_eq]
    omega
  show execPcConvert size s = _
  rw [execPcConvert, State.unlessOwned_free s _ hsess, State.withConverter_some s _ ht, if_neg hcheck,
    State.takeDin_full s size _ _ hdin]
  rfl

theorem execPcConvert_refused {s : State} {size : Nat} (hready : converterReady s)
    (hsize : size % s.pc.ch ≠ 0 ∨ 4704 * s.pc.k < size / s.pc.ch) :
    exec (.pcConvert size) s = .next (s.refusedWith 2 size) := by
  obtain ⟨hsess, ht⟩ := hready
  rw [← Config.orderFrameBytes_eq] at hsize
  show execPcConvert size s = _
  rw [execPcConvert, State.unlessOwned_free s _ hsess, State.withConverter_some s _ ht, if_pos hsize]
  exact s.fail_eq .eOperand size

/-- Settles O43: the command is the conversion of its bytes, whose fields `Pc.convert_fields` gives. -/
theorem convertCountsSamples : Obligations.ConvertCountsSamples := by
  unfold Obligations.ConvertCountsSamples
  refine ⟨fun s size hready hch hframe hdin hinv => ?_, fun s size hready hsize => execPcConvert_refused hready hsize⟩
  have hlen : (s.din.take size).length = size := by rw [List.length_take, Nat.min_eq_left hdin]
  have hcalled : decide (size / s.pc.ch ≠ 0) = decide (size ≠ 0) := by
    refine decide_eq_decide.mpr (not_congr ⟨fun h => ?_, fun h => by rw [h, Nat.zero_div]⟩)
    rw [← Nat.div_add_mod size s.pc.ch, h, hch, Nat.mul_zero]
  have hfields := Pc.convert_fields hinv s.ditherDepth (s.din.take size)
  rw [hlen, hcalled] at hfields
  exact ⟨_, execPcConvert_accepted hready hch hframe hdin, rfl, rfl, hfields, hinv.convert _ _⟩

/-! ## A conversion cut in two -/

/-- The converter with the samples counted from `n` on, and with another PCMBUF and another flag of R404. -/
def Pc.counting (pc : Pc) (n : Nat) (buf : List F32) (called : Bool) : Pc :=
  { pc with pcmN := n + pc.pcmN, pcmBuf := buf, convertCalled := called }

theorem Pc.feedBits_counting (pc : Pc) (depth : Nat) (row : List Bool) (n : Nat) (buf : List F32) (called : Bool)
    (old out : List F32) :
    (pc.counting n buf called).feedBits depth row (out ++ old) =
      ((pc.feedBits depth row out).1.counting n buf called, (pc.feedBits depth row out).2 ++ old) := by
  rw [Pc.feedBits_eq, Pc.feedBits_eq, List.append_assoc]
  refine Prod.ext ?_ rfl
  show ({ ((pc.received row).advanced depth (pc.received row).due).counting n buf called with
    pcmN := n + pc.pcmN + (pc.received row).due } : Pc) = _
  rw [Nat.add_assoc]
  rfl

/-- What was counted and gathered before is carried along. -/
theorem feedRows_counting (depth n : Nat) (buf : List F32) (called : Bool) (old : List F32) :
    ∀ (rows : List (List Bool)) (pc : Pc) (out : List F32),
    feedRows depth rows (pc.counting n buf called) (out ++ old) =
      ((feedRows depth rows pc out).1.counting n buf called, (feedRows depth rows pc out).2 ++ old)
  | [], _, _ => rfl
  | row :: rows, pc, out => by
    rw [feedRows, Pc.feedBits_counting]
    exact feedRows_counting depth n buf called old rows _ _

/-- The flag of R404 after bytes of both runs. -/
theorem called_append (c : Bool) (m n : Nat) :
    (c || decide (m + n ≠ 0)) = (c || decide (m ≠ 0) || decide (n ≠ 0)) := by
  rcases c with _ | _
  · simp only [Bool.false_or, ← Bool.decide_or]
    exact decide_eq_decide.mpr (by omega)
  · rfl

/-- The rows of `a` and then those of `b`: the second run goes on from the converter that the first leaves. -/
theorem Pc.fed_append (pc : Pc) (depth : Nat) (a b : List Byte) (ha : a.length % pc.ch = 0) :
    pc.fed depth (a ++ b) =
      (((pc.convert depth a).fed depth b).1.counting (pc.convert depth a).pcmN pc.pcmBuf
          ((pc.convert depth a).fed depth b).1.convertCalled,
        ((pc.convert depth a).fed depth b).2 ++ (pc.fed depth a).2) := by
  have hch : (pc.convert depth a).ch = pc.ch := (pc.convert_mode depth a).ch
  have hdvd : pc.ch ∣ a.length := Nat.dvd_of_mod_eq_zero ha
  have hrows : inputRows pc.ch (a ++ b) = inputRows pc.ch a ++ inputRows pc.ch b := by
    rw [inputRows, List.length_append, Nat.add_div_of_dvd_right hdvd,
      bitRows_append pc.ch _ _ a b (Nat.div_mul_cancel hdvd).symm]
    rfl
  have hcalled : ((pc.convert depth a).fed depth b).1.convertCalled = (pc.begun (a ++ b)).convertCalled := by
    rw [((pc.convert depth a).fed_counts depth b).2.1, hch, Pc.convert_eq]
    show ((pc.fed depth a).1.convertCalled || _) = _
    rw [(pc.fed_counts depth a).2.1, Pc.begun, List.length_append, Nat.add_div_of_dvd_right hdvd, called_append]
  have hfirst : feedRows depth (inputRows pc.ch a) (pc.begun (a ++ b)) [] =
      ((pc.fed depth a).1.counting 0 pc.pcmBuf (pc.begun (a ++ b)).convertCalled, (pc.fed depth a).2) := by
    have hcount := feedRows_counting depth 0 pc.pcmBuf (pc.begun (a ++ b)).convertCalled [] (inputRows pc.ch a)
      (pc.begun a) []
    rw [List.append_nil, List.append_nil] at hcount
    exact hcount
  have hsecond : (pc.fed depth a).1.counting 0 pc.pcmBuf (pc.begun (a ++ b)).convertCalled =
      ((pc.convert depth a).begun b).counting (pc.convert depth a).pcmN pc.pcmBuf
        (pc.begun (a ++ b)).convertCalled := by
    rw [Pc.convert_eq]
    simp only [Pc.counting, Pc.begun, Nat.zero_add, Nat.add_zero]
  rw [Pc.fed, hrows, feedRows_append, hfirst, hcalled]
  dsimp only
  rw [hsecond, ← hch]
  exact feedRows_counting depth _ _ _ _ (inputRows (pc.convert depth a).ch b) ((pc.convert depth a).begun b) []

/-! ## The samples a conversion gathers -/

theorem length_hist_feedRows (depth ch : Nat) : ∀ (rows : List (List Bool)) (pc : Pc) (out : List F32),
    pc.hist.length = ch → (∀ row ∈ rows, row.length = ch) → (feedRows depth rows pc out).1.hist.length = ch ∧
    (feedRows depth rows pc out).2.length + pc.pcmN * ch = out.length + (feedRows depth rows pc out).1.pcmN * ch
  | [], _, _, hch, _ => ⟨hch, rfl⟩
  | row :: rows, pc, out, hch, hrows => by
    have hreceived : (pc.received row).hist.length = ch := length_zipWith_cons (hrows row List.mem_cons_self) hch
    have hdue : ((pc.received row).dueSamples depth).length = (pc.received row).due * ch := by
      simp [Pc.dueSamples, List.length_flatMap, hreceived]
    have ih := length_hist_feedRows depth ch rows (pc.feedBits depth row out).1 (pc.feedBits depth row out).2
    rw [Pc.feedBits_eq] at ih
    obtain ⟨hhist, hout⟩ := ih hreceived fun r hr => hrows r (List.mem_cons_of_mem row hr)
    rw [feedRows, Pc.feedBits_eq]
    refine ⟨hhist, ?_⟩
    have hpcmN : ((pc.received row).advanced depth (pc.received row).due).pcmN = pc.pcmN + (pc.received row).due := rfl
    rw [hpcmN, List.length_append, List.length_reverse, hdue, Nat.add_mul] at hout
    omega

/-- The samples a conversion stores are the ones its rows gather. -/
theorem converted_eq (pc : Pc) (depth : Nat) (bytes : List Byte) (hch : pc.hist.length = pc.ch) :
    converted pc depth bytes = (pc.fed depth bytes).2.reverse := by
  obtain ⟨_, hlen⟩ := length_hist_feedRows depth pc.ch (inputRows pc.ch bytes) (pc.begun bytes) [] hch
    fun row hrow => length_of_mem_inputRows hrow
  have hcount : (pc.fed depth bytes).2.reverse.length = (pc.fed depth bytes).1.pcmN * pc.ch := by
    have hbegun : (pc.begun bytes).pcmN = 0 := rfl
    rw [hbegun, Nat.zero_mul, List.length_nil, Nat.zero_add] at hlen
    rw [List.length_reverse]
    exact hlen
  rw [converted, Pc.convert_eq]
  dsimp only
  rw [← hcount, overwrite, List.take_left']
  rfl

/-- Settles O44: the rows of both runs are fed one after the other, cut or not. -/
theorem convertChunks : Obligations.ConvertChunks := by
  unfold Obligations.ConvertChunks
  intro pc depth a b hch ha
  have hfed := pc.fed_append depth a b ha
  have hch' : (pc.convert depth a).hist.length = (pc.convert depth a).ch := by
    have hlen := (length_hist_feedRows depth pc.ch (inputRows pc.ch a) (pc.begun a) [] hch
      fun row hrow => length_of_mem_inputRows hrow).1
    rw [(pc.convert_mode depth a).ch, Pc.convert_eq]
    exact hlen
  constructor
  · rw [converted_eq pc depth _ hch, converted_eq pc depth a hch, converted_eq _ depth b hch', hfed,
      List.reverse_append]
  · rw [Pc.convert_eq pc depth (a ++ b), Pc.convert_eq (pc.convert depth a) depth b, hfed]
    rfl

end Sys2Proof.Machine
end

section
/-! PROOFS (O45). The histories after a conversion are the input bits of its bytes, and a sample of a longer history is
the sum of 45_dsd_pcm.md R385 as the rule writes it: the taps of one phase in ascending order, each with the input
sample it meets, until the taps or the input end. -/

namespace Sys2Proof.Machine

open Claims

/-! ## The histories after a conversion -/

theorem getD_zipWith_cons {row : List Bool} {hists : List (List Bool)} {c : Nat} (hrow : c < row.length)
    (hhists : c < hists.length) :
    (List.zipWith List.cons row hists).getD c [] = row.getD c false :: hists.getD c [] := by
  rw [List.getD_eq_getElem _ _ (by rw [List.length_zipWith]; omega), List.getElem_zipWith,
    List.getD_eq_getElem _ _ hrow, List.getD_eq_getElem _ _ hhists]

/-- A channel's history grows by the channel's bit of every row, the newest in front. -/
theorem getD_hist_feedRows (depth ch c : Nat) (hc : c < ch) : ∀ (rows : List (List Bool)) (pc : Pc) (out : List F32),
    pc.hist.length = ch → (∀ row ∈ rows, row.length = ch) →
    (feedRows depth rows pc out).1.hist.getD c [] =
      (rows.map fun row => row.getD c false).reverse ++ pc.hist.getD c []
  | [], _, _, _, _ => rfl
  | row :: rows, pc, out, hch, hrows => by
    have hrow : row.length = ch := hrows row List.mem_cons_self
    have hreceived : (List.zipWith List.cons row pc.hist).length = ch := length_zipWith_cons hrow hch
    have hfed : (pc.feedBits depth row out).1.hist = List.zipWith List.cons row pc.hist := by
      rw [Pc.feedBits_eq]
      rfl
    rw [feedRows, getD_hist_feedRows depth ch c hc rows _ _ (by rw [hfed, hreceived])
      (fun r hr => hrows r (List.mem_cons_of_mem row hr)), hfed, getD_zipWith_cons (hrow ▸ hc) (hch ▸ hc),
      List.map_cons, List.reverse_cons, List.append_assoc, List.singleton_append]

/-- Bit `t` of channel `c` in the bytes (20_memory.md R101, R103). -/
def channelBit (ch c : Nat) (bytes : List Byte) (t : Nat) : Bool :=
  (bytes.getD (t / 8 * ch + c) 0).getLsbD (7 - t % 8)

theorem channelBit_add_eight (ch c : Nat) (bytes : List Byte) (t : Nat) :
    channelBit ch c bytes (8 + t) = channelBit ch c (bytes.drop ch) t := by
  have hdiv : (8 + t) / 8 * ch + c = ch + (t / 8 * ch + c) := by
    rw [Nat.add_div_left t (by decide : 0 < 8), Nat.succ_mul]
    omega
  rw [channelBit, channelBit, hdiv, Nat.add_mod_left, List.getD_eq_getElem?_getD, List.getD_eq_getElem?_getD,
    List.getElem?_drop]

/-- The bits of channel `c` in the rows of one byte of every channel. -/
theorem column_byteRows {ch c : Nat} (bytes : List Byte) (hc : c < ch) (hlen : ch ≤ bytes.length) :
    ((byteRows (bytes.take ch)).map fun row => row.getD c false) = (List.range 8).map (channelBit ch c bytes) := by
  rw [byteRows, List.map_map]
  refine List.map_congr_left fun k hk => ?_
  have hk8 := List.mem_range.mp hk
  have hrow : c < ((bytes.take ch).map fun b => byteBit b k).length := by
    rw [List.length_map, List.length_take]
    omega
  rw [Function.comp_apply, List.getD_eq_getElem _ _ hrow, List.getElem_map, List.getElem_take, channelBit,
    Nat.div_eq_of_lt hk8, Nat.mod_eq_of_lt hk8, Nat.zero_mul, Nat.zero_add, List.getD_eq_getElem _ _ (hc.trans_le hlen)]
  rfl

theorem column_bitRows {ch c : Nat} (hc : c < ch) : ∀ (n : Nat) (bytes : List Byte), n * ch ≤ bytes.length →
    ((bitRows ch n bytes).map fun row => row.getD c false) = (List.range (8 * n)).map (channelBit ch c bytes)
  | 0, _, _ => rfl
  | n + 1, bytes, hlen => by
    rw [Nat.add_mul, Nat.one_mul] at hlen
    rw [bitRows, List.map_append, column_byteRows bytes hc (by omega),
      column_bitRows hc n (bytes.drop ch) (by rw [List.length_drop]; omega), Nat.mul_add, Nat.mul_one, Nat.add_comm,
      List.range_add, List.map_append, List.map_map]
    congr 1
    exact List.map_congr_left fun t _ => (channelBit_add_eight ch c bytes t).symm

/-- The history of a channel after a conversion (45_dsd_pcm.md R386). -/
theorem Pc.convert_hist {pc : Pc} (hch : pc.hist.length = pc.ch) (depth : Nat) (bytes : List Byte) {c : Nat}
    (hc : c < pc.ch) :
    (pc.convert depth bytes).hist.getD c [] = (inputBits pc.ch c bytes).reverse ++ pc.hist.getD c [] := by
  have hhist := getD_hist_feedRows depth pc.ch c hc (inputRows pc.ch bytes) (pc.begun bytes) [] hch
    fun row hrow => length_of_mem_inputRows hrow
  rw [inputRows, column_bitRows hc _ bytes (Nat.div_mul_le_self _ _)] at hhist
  rw [Pc.convert_eq]
  exact hhist

/-! ## The filter sum (45_dsd_pcm.md R385) -/

section sum
variable (pc : Pc) (hist : List Bool) (phase q : Nat)

/-- The sum after tap index `j`: it ends with the taps of the phase and with the input. -/
def Pc.addTap (acc : F64) (j : Nat) : F64 :=
  if phase + j * pc.u < pc.t ∧ j ≤ q then
    f64Add acc (if inputAt hist (q - j) then pc.h.getD (phase + j * pc.u) 0
      else f64Neg (pc.h.getD (phase + j * pc.u) 0))
  else acc

variable {pc hist phase q}

theorem fir_eq_of_nil_left (stride : Nat) (acc : F64) (xs : List Bool) : fir stride acc [] xs = acc := by
  cases xs <;> rfl

theorem fir_eq_of_nil_right (stride : Nat) (acc : F64) (hs : List F64) : fir stride acc hs [] = acc := by
  cases hs <;> rfl

/-- Past the last tap or the first input sample nothing is added. -/
theorem fir_eq_of_past (ht : pc.h.length = pc.t) (hq : q < hist.length) (acc : F64) {j : Nat}
    (hj : ¬ (phase + j * pc.u < pc.t ∧ j ≤ q)) :
    fir pc.u acc (pc.h.drop (phase + j * pc.u)) (hist.drop (hist.length - 1 - q + j)) = acc := by
  rcases Nat.lt_or_ge (phase + j * pc.u) pc.t with htap | htap
  · have hinput : hist.drop (hist.length - 1 - q + j) = [] := List.drop_eq_nil_of_le (by omega)
    rw [hinput, fir_eq_of_nil_right]
  · rw [List.drop_eq_nil_of_le (ht.trans_le htap), fir_eq_of_nil_left]

/-- One tap with the input sample it meets. -/
theorem fir_eq_addTap (ht : pc.h.length = pc.t) (hu : 0 < pc.u) (hq : q < hist.length) (acc : F64) {j : Nat}
    (hj : phase + j * pc.u < pc.t ∧ j ≤ q) :
    fir pc.u acc (pc.h.drop (phase + j * pc.u)) (hist.drop (hist.length - 1 - q + j)) =
      fir pc.u (pc.addTap hist phase q acc j) (pc.h.drop (phase + (j + 1) * pc.u))
        (hist.drop (hist.length - 1 - q + (j + 1))) := by
  obtain ⟨htap, hinput⟩ := hj
  have htap' : phase + j * pc.u < pc.h.length := ht ▸ htap
  have hinput' : hist.length - 1 - q + j < hist.length := by omega
  have hnext : phase + j * pc.u + 1 + (pc.u - 1) = phase + (j + 1) * pc.u := by
    rw [Nat.add_mul, Nat.one_mul]
    omega
  have hat : inputAt hist (q - j) = hist[hist.length - 1 - q + j] := by
    rw [inputAt, show hist.length - 1 - (q - j) = hist.length - 1 - q + j by omega, List.getD_eq_getElem _ _ hinput']
  have hadd : pc.addTap hist phase q acc j = f64Add acc (if hist[hist.length - 1 - q + j] then
      pc.h[phase + j * pc.u] else f64Neg pc.h[phase + j * pc.u]) := by
    rw [Pc.addTap, if_pos ⟨htap, hinput⟩, hat, List.getD_eq_getElem _ _ htap']
  rw [hadd, List.drop_eq_getElem_cons htap', List.drop_eq_getElem_cons hinput', fir, List.drop_drop, hnext]
  rfl

/-- The sum from tap index `j` on is the loop of the rule from there on. -/
theorem fir_eq_foldl (ht : pc.h.length = pc.t) (hu : 0 < pc.u) (hq : q < hist.length) : ∀ (n j : Nat) (acc : F64),
    pc.t ≤ phase + (j + n) * pc.u →
    fir pc.u acc (pc.h.drop (phase + j * pc.u)) (hist.drop (hist.length - 1 - q + j)) =
      (List.range' j n).foldl (pc.addTap hist phase q) acc
  | 0, j, acc, hend => fir_eq_of_past ht hq acc fun hj => absurd hj.1 (Nat.not_lt.mpr hend)
  | n + 1, j, acc, hend => by
    have hrest : pc.t ≤ phase + (j + 1 + n) * pc.u := by rwa [Nat.add_right_comm, Nat.add_assoc j n 1]
    rw [List.range'_succ, List.foldl_cons, ← fir_eq_foldl ht hu hq n (j + 1) _ hrest]
    by_cases hj : phase + j * pc.u < pc.t ∧ j ≤ q
    · exact fir_eq_addTap ht hu hq acc hj
    · have hnext : ¬ (phase + (j + 1) * pc.u < pc.t ∧ j + 1 ≤ q) := by
        rw [Nat.add_mul]
        omega
      rw [Pc.addTap, if_neg hj, fir_eq_of_past ht hq acc hj, fir_eq_of_past ht hq acc hnext]

end sum

/-- A sample that has all its input is the sum of the rule over its history. -/
theorem Pc.outputOver_eq_outputAt {pc : Pc} (ht : pc.h.length = pc.t) (hu : 0 < pc.u) {hist : List Bool} {m : Nat}
    (hm : pc.newestInput m < hist.length) : pc.outputOver hist m = outputAt pc hist m := by
  have hend : pc.t ≤ ((m + 1) * pc.d - 1) % pc.u + (0 + (pc.t + 1)) * pc.u := by
    have htaps : pc.t + 1 ≤ (0 + (pc.t + 1)) * pc.u := by
      rw [Nat.zero_add]
      exact Nat.le_mul_of_pos_right _ hu
    omega
  have hsum := fir_eq_foldl (phase := ((m + 1) * pc.d - 1) % pc.u) ht hu hm (pc.t + 1) 0 0 hend
  rw [Nat.zero_mul, Nat.add_zero, Nat.add_zero, ← List.range_eq_range'] at hsum
  exact hsum

/-! ## The samples stored -/

/-- An element of a run of lists of one length. -/
theorem getElem?_flatMap_uniform {α β : Type} (f : α → List β) (n : Nat) {c : Nat} (hc : c < n) :
    ∀ (l : List α) (j : Nat), (∀ a ∈ l, (f a).length = n) → (l.flatMap f)[j * n + c]? = l[j]?.bind fun a => (f a)[c]?
  | [], _, _ => rfl
  | a :: l, 0, h => by
    have hfirst : 0 * n + c < (f a).length := by rw [h a List.mem_cons_self]; omega
    rw [List.flatMap_cons, List.getElem?_append_left hfirst, Nat.zero_mul, Nat.zero_add]
    rfl
  | a :: l, j + 1, h => by
    have hlen := h a List.mem_cons_self
    have hrest : (j + 1) * n + c - n = j * n + c := by rw [Nat.add_mul]; omega
    rw [List.flatMap_cons, List.getElem?_append_right (by rw [hlen, Nat.add_mul]; omega), hlen, hrest,
      getElem?_flatMap_uniform f n hc l j fun b hb => h b (List.mem_cons_of_mem a hb)]
    rfl

/-- Sample `j` of channel `c` in PCMBUF after a conversion (45_dsd_pcm.md R390, R395, R396). -/
theorem Pc.convert_sample {pc : Pc} (h : pc.Inv) (depth : Nat) (bytes : List Byte) {j c : Nat}
    (hj : j < (pc.convert depth bytes).pcmN) (hc : c < pc.ch) :
    (pc.convert depth bytes).pcmBuf[j * pc.ch + c]? = some (storedSample depth (j * pc.ch + c) pc.lcg
      (pc.outputOver ((pc.convert depth bytes).hist.getD c []) (pc.outCount + j))) := by
  have hg := Pc.fed_gathered h depth bytes
  rw [Pc.convert_eq] at hj ⊢
  dsimp only at hj ⊢
  have hindex : j * pc.ch + c < (pc.fed depth bytes).2.reverse.length := by
    have hlen : (pc.fed depth bytes).2.length = (pc.fed depth bytes).1.pcmN * pc.ch := hg.length_out
    have hrow : (j + 1) * pc.ch ≤ (pc.fed depth bytes).1.pcmN * pc.ch := Nat.mul_le_mul_right _ hj
    rw [List.length_reverse, hlen]
    rw [Nat.add_mul] at hrow
    omega
  have hhist : c < (pc.fed depth bytes).1.hist.length := hc.trans_eq hg.channels.symm
  rw [overwrite, List.getElem?_append_left hindex, hg.samples,
    getElem?_flatMap_uniform _ pc.ch hc _ _ fun i _ => (Pc.length_sampleOver ..).trans hg.channels,
    List.getElem?_range hj, Option.bind_some, Pc.sampleOver, List.getElem?_mapIdx, List.getElem?_eq_getElem hhist,
    List.getD_eq_getElem _ _ hhist]
  rfl

/-- Settles O45: the history is the input bits in front of the old one, and a stored sample is the sum of the rule over
it, since all the input it needs is there. -/
theorem convertedSamples : Obligations.ConvertedSamples := by
  unfold Obligations.ConvertedSamples
  rintro pc p depth bytes c hist hinv ht hu - rfl hc rfl
  have hhist := pc.convert_hist hinv.channels depth bytes hc
  refine ⟨hhist, fun j hj => ?_⟩
  have hafter := hinv.convert depth bytes
  have hmode := pc.convert_mode depth bytes
  have hlen : ((pc.convert depth bytes).hist.getD c []).length = (pc.convert depth bytes).rxCount := by
    have hbound : c < (pc.convert depth bytes).hist.length := by rwa [hafter.channels, hmode.ch]
    rw [List.getD_eq_getElem _ _ hbound]
    exact hafter.received _ (List.getElem_mem hbound)
  have hdue : pc.outCount + j < (pc.convert depth bytes).rxCount * pc.u / pc.d := by
    obtain ⟨hrx, -, hn, -, -⟩ := Pc.convert_counts hinv depth bytes
    rw [hn] at hj
    rw [hrx, hinv.produced]
    omega
  rw [Pc.convert_sample hinv depth bytes hj hc,
    Pc.outputOver_eq_outputAt ht hu (hlen ▸ Pc.newestInput_lt hdue), hhist]
  rfl

end Sys2Proof.Machine
end

section
/-! PROOFS (O41, O42, O46). The commands of the converter besides `PC_CONVERT` (45_dsd_pcm.md R370, R400 to R404, R410,
R422), each run once behind its checks. -/

namespace Sys2Proof.Machine

open Claims

/-! ## PC_INIT (45_dsd_pcm.md R370) -/

/-- The PCM rate of a code (30_encoding.md R142). -/
def pcmRateOf (pcm : Nat) : Nat := [88200, 96000, 176400, 192000].getD pcm 0

/-- What the mode table and the delays make of one row (45_dsd_pcm.md R371, R400 to R402). -/
abbrev ModeRow (dsd pcm u d tt spf delta fade : Nat) : Prop :=
  dsd ≤ 3 ∧ pcm ≤ 3 ∧
  mode (2 ^ dsd) (pcmRateOf pcm) = { resample := decide (u ≠ 1), u := u, d := d, t := tt, spf := spf } ∧
  clampDelay { num := tt, den := 2 * d } spf = { num := tt, den := 2 * d } ∧
  outDelta { num := tt, den := 2 * d } = delta ∧ ceilFrac { num := tt, den := 2 * d } = fade

/-- The check of one row. -/
def modeRowHolds : Nat × Nat × Nat × Nat × Nat × Nat × Nat × Nat → Bool
  | (dsd, pcm, u, d, tt, spf, delta, fade) => decide (ModeRow dsd pcm u d tt spf delta fade)

theorem modeRow_of_mem {dsd pcm u d tt spf delta fade : Nat} (h : (dsd, pcm, u, d, tt, spf, delta, fade) ∈ modeRows) :
    ModeRow dsd pcm u d tt spf delta fade := by
  have hrows : modeRows.all modeRowHolds = true := by decide +kernel
  exact of_decide_eq_true (List.all_eq_true.mp hrows _ h)

section pcInit
variable {s : State} {ch dsd pcm : Nat} (hsess : s.sess ≠ .track)
include hsess

/-- A channel count outside 1 to 6 is refused first. -/
theorem execPcInit_channels (hch : ch = 0 ∨ 6 < ch) : exec (.pcInit ch dsd pcm) s = .next (s.refusedWith 2 ch) := by
  have hlegal : channelsLegal ch = false := by
    refine Bool.eq_false_iff.mpr fun h => ?_
    obtain ⟨_, _⟩ := (channelsLegal_iff ch).mp h
    omega
  show execPcInit ch dsd pcm s = _
  rw [execPcInit, State.unlessOwned_free s _ hsess, if_pos hlegal]
  exact s.fail_eq .eOperand ch

/-- Behind the check of the channel count: the two codes, the DSD code first. -/
theorem execPcInit_codes (h1 : 1 ≤ ch) (h6 : ch ≤ 6) : exec (.pcInit ch dsd pcm) s =
    if 3 < dsd then .next (s.refusedWith 2 dsd)
    else if 3 < pcm then .next (s.refusedWith 2 pcm)
    else .next ((s.pcInitBody ch (2 ^ dsd) (pcmRateOf pcm)).okWith (val (mode (2 ^ dsd) (pcmRateOf pcm)).t)) := by
  have hlegal : ¬ channelsLegal ch = false := by
    rw [(channelsLegal_iff ch).mpr ⟨h1, h6⟩]
    exact Bool.noConfusion
  show execPcInit ch dsd pcm s = _
  rw [execPcInit, State.unlessOwned_free s _ hsess, if_neg hlegal, dsdOperand, pcmOperand_eq]
  rcases Nat.lt_or_ge 3 dsd with hdsd | hdsd
  · rw [if_neg (Nat.not_le.mpr hdsd), if_pos hdsd]
    exact s.fail_eq .eOperand dsd
  · rw [if_pos (show dsd ≤ 3 from hdsd), if_neg (Nat.not_lt.mpr hdsd)]
    rcases Nat.lt_or_ge 3 pcm with hpcm | hpcm
    · rw [if_neg (Nat.not_le.mpr hpcm), if_pos hpcm]
      exact s.fail_eq .eOperand pcm
    · rw [if_pos (show pcm ≤ 3 from hpcm), if_neg (Nat.not_lt.mpr hpcm)]
      rfl

end pcInit

/-- Settles O41: the mode is the row's, and so are the delays computed from it. -/
theorem pcInitSetsTheMode : Obligations.PcInitSetsTheMode := by
  unfold Obligations.PcInitSetsTheMode
  refine ⟨fun s ch dsd pcm u d tt spf delta fade hsess h1 h6 hrow => ?_, fun s ch dsd pcm hsess =>
    ⟨execPcInit_channels hsess, fun h1 h6 hdsd => ?_, fun h1 h6 hdsd hpcm => ?_⟩⟩
  · obtain ⟨hdsd, hpcm, hmode, hclamp, hdelta, hfade⟩ := modeRow_of_mem hrow
    refine ⟨_, (execPcInit_codes hsess h1 h6).trans ((if_neg (by omega)).trans (if_neg (by omega))), ?_, ?_⟩
    · rw [hmode]
      rfl
    · show s.pc.start ch (2 ^ dsd) (pcmRateOf pcm) s.ditherSeed = _
      unfold Pc.start
      rw [hmode]
      simp only [delayOf, hclamp, hdelta, hfade]
      rfl
  · rw [execPcInit_codes hsess h1 h6, if_pos hdsd]
  · rw [execPcInit_codes hsess h1 h6, if_neg (by omega), if_pos hpcm]

/-! ## The commands that read the converter -/

/-- The check of one delay. -/
def delayRowHolds : Nat × Nat × Nat → Bool
  | (num, den, bits) => decide (f64OfRatio num den = BitVec.ofNat 64 bits)

/-- The delays of the sixteen modes, each rounded (45_dsd_pcm.md R403). -/
theorem f64OfRatio_delay {num den bits : Nat} (h : (num, den, bits) ∈ delayRows) :
    f64OfRatio num den = BitVec.ofNat 64 bits := by
  have hrows : delayRows.all delayRowHolds = true := by decide +kernel
  have hrow := List.all_eq_true.mp hrows _ h
  rw [delayRowHolds] at hrow
  exact of_decide_eq_true hrow

theorem leBytes_four (v : F32) : leBytes 4 v.toNat =
    [v.extractLsb' 0 8, v.extractLsb' 8 8, v.extractLsb' 16 8, v.extractLsb' 24 8] := by
  have hbyte : ∀ i, BitVec.ofNat 8 (v.toNat / 2 ^ i) = v.extractLsb' i 8 := fun i => BitVec.eq_of_toNat_eq (by
    rw [BitVec.toNat_ofNat, BitVec.extractLsb'_toNat, Nat.shiftRight_eq_div_pow])
  simp only [leBytes, Nat.div_div_eq_div_mul, ← hbyte, Nat.pow_zero, Nat.div_one, Nat.reduceMul, Nat.reducePow]

/-- Elements of PCMBUF that are there. -/
theorem Pc.samples_eq (pc : Pc) (skip count : Nat) (h : (skip + count) * pc.ch ≤ pc.pcmBuf.length) :
    pc.samples skip count = (pc.pcmBuf.drop (skip * pc.ch)).take (count * pc.ch) := by
  rw [Nat.add_mul] at h
  exact sampleTake_take _ _ _ (by rw [List.length_drop]; omega)

section reads
variable {s : State}

theorem execPcGetDelay_some (ht : s.pc.t ≠ 0) : exec .pcGetDelay s =
    .next (s.okWith (f64OfRatio s.pc.delayClamped.num s.pc.delayClamped.den)) := by
  show execPcGetDelay s = _
  rw [execPcGetDelay, State.withConverter_some s _ ht]
  rfl

theorem execPcGetDelay_none (ht : s.pc.t = 0) : exec .pcGetDelay s = .next (s.refusedWith 3 0) := by
  show execPcGetDelay s = _
  rw [execPcGetDelay, State.withConverter_none s _ ht]

theorem execPcReadf_ready (hready : converterReady s) (hheld : s.pc.pcmN * s.pc.ch ≤ s.pc.pcmBuf.length) :
    exec .pcReadf s = .next
      (({ s with dout := s.dout ++ (s.pc.pcmBuf.take (s.pc.pcmN * s.pc.ch)).flatMap fun v => leBytes 4 v.toNat }
        : State).okWith (val s.pc.pcmN)) := by
  obtain ⟨hsess, ht⟩ := hready
  show execPcReadf s = _
  rw [execPcReadf, State.unlessOwned_free s _ hsess, State.withConverter_some s _ ht,
    Pc.samples_eq _ _ _ (by rwa [Nat.zero_add]), Nat.zero_mul, List.drop_zero]
  rfl

/-- Before `PC_INIT` a converter command that the session owns is refused (60_exceptions.md R602). -/
theorem State.converterCommand_none (hsess : s.sess ≠ .track) (ht : s.pc.t = 0) (k : Pc → Out) :
    s.unlessOwned (s.withConverter k) = .next (s.refusedWith 3 0) := by
  rw [State.unlessOwned_free s _ hsess, State.withConverter_none s k ht]

end reads

/-- Settles O42. -/
theorem converterReads : Obligations.ConverterReads := by
  unfold Obligations.ConverterReads
  refine ⟨fun s num den bits ht hdelay hrow => ?_, rfl, fun s => ?_, fun s hready hheld => ?_,
    fun s ht => execPcGetDelay_none ht, fun s a b hsess ht => ⟨?_, ?_, ?_, ?_⟩⟩
  · rw [execPcGetDelay_some ht, hdelay, f64OfRatio_delay hrow]
  · show s.ok (val s.pc.convertCalled.toNat) = _
    rw [State.ok_eq]
    cases s.pc.convertCalled <;> rfl
  · rw [execPcReadf_ready hready hheld]
    simp only [leBytes_four]
  · exact s.converterCommand_none hsess ht _
  · exact s.converterCommand_none hsess ht _
  · exact s.converterCommand_none hsess ht _
  · exact s.converterCommand_none hsess ht _

/-! ## PC_DEGIBBS (45_dsd_pcm.md R410) -/

/-- The side of an operand of 0 or 1. -/
theorem sideOperand_of_le {side : Nat} (h : side ≤ 1) : sideOperand side = some (decide (side = 1)) := by
  interval_cases side <;> rfl

theorem sideOperand_of_gt {side : Nat} (h : 1 < side) : sideOperand side = none := by
  rw [sideOperand, if_neg (by omega), if_neg (by omega)]

section degibbs
variable {s : State} {side n : Nat} (hready : converterReady s)
include hready

theorem execPcDegibbs_accepted (hside : side ≤ 1) (hn : n ≤ s.pc.pcmN) : exec (.pcDegibbs side n) s =
    .next (({ s with pc := (s.pc.degibbs 0 n (decide (side = 1))).2 } : State).okWith
      (val (s.pc.degibbs 0 n (decide (side = 1))).1)) := by
  obtain ⟨hsess, ht⟩ := hready
  show execPcDegibbs side n s = _
  rw [execPcDegibbs, State.unlessOwned_free s _ hsess, State.withConverter_some s _ ht, sideOperand_of_le hside]
  dsimp only
  rw [if_neg (Nat.not_lt.mpr hn)]
  rfl

theorem execPcDegibbs_refused (h : 1 < side ∨ s.pc.pcmN < n) :
    exec (.pcDegibbs side n) s = .next (s.refusedWith 2 n) := by
  obtain ⟨hsess, ht⟩ := hready
  show execPcDegibbs side n s = _
  rw [execPcDegibbs, State.unlessOwned_free s _ hsess, State.withConverter_some s _ ht]
  rcases Nat.lt_or_ge 1 side with hside | hside
  · rw [sideOperand_of_gt hside]
    exact s.fail_eq .eOperand n
  · rw [sideOperand_of_le hside]
    dsimp only
    rw [if_pos (h.resolve_left (Nat.not_lt.mpr hside))]
    exact s.fail_eq .eOperand n

end degibbs

/-- Sample `i` of a window at 0 is faded when it is within `len` samples of the edge of its side. -/
theorem faded_iff (n len i : Nat) (side : Bool) :
    faded 0 n len side i = true ↔ i < n ∧ (if side then n - 1 - i else i) < len := by
  unfold faded fadeIndex
  cases side <;> simp

/-- What a fade makes of one element of PCMBUF. -/
theorem Pc.degibbs_sample {pc : Pc} {n : Nat} (side : Bool) (hlong : 2 * pc.delayClamped.num ≤ n * pc.delayClamped.den)
    {i c : Nat} (hc : c < pc.ch) {v : F32} (hv : pc.pcmBuf[i * pc.ch + c]? = some v) :
    (pc.degibbs 0 n side).2.pcmBuf[i * pc.ch + c]? = some (
      if i < n ∧ (if side then n - 1 - i else i) < pc.fadeLen then
        scaled v (if side then n - 1 - i else i) pc.fadeLen
      else v) := by
  have hskip : ¬ pc.fadeSkipped n = true := by
    rw [Pc.fadeSkipped, decide_eq_true_eq]
    exact Nat.not_lt.mpr hlong
  have hindex : (i * pc.ch + c) / pc.ch = i := by
    rw [Nat.add_comm, Nat.add_mul_div_right _ _ (Nat.zero_lt_of_lt hc), Nat.div_eq_of_lt hc, Nat.zero_add]
  have hgain : fadeIndex 0 n side i = if side then n - 1 - i else i := by
    unfold fadeIndex
    rw [Nat.zero_add, Nat.sub_zero]
  rw [Pc.degibbs, if_neg hskip]
  dsimp only
  rw [List.getElem?_mapIdx, hv, Option.map_some, hindex, hgain]
  simp only [faded_iff]
  rfl

/-- Settles O46: a short window is left alone, and in a long one each element is scaled or kept by its own index. -/
theorem degibbsFadesTheEdge : Obligations.DegibbsFadesTheEdge := by
  unfold Obligations.DegibbsFadesTheEdge
  refine ⟨fun s side n hready hside hn => ⟨fun hshort => ?_, fun hlong => ?_⟩,
    fun s side n hready h => execPcDegibbs_refused hready h⟩
  · have hskip : s.pc.fadeSkipped n = true := decide_eq_true hshort
    rw [execPcDegibbs_accepted hready hside hn, Pc.degibbs, if_pos hskip]
    rfl
  · obtain ⟨hframe, hlength⟩ := s.pc.degibbs_frame 0 n (decide (side = 1))
    have hanswer : (s.pc.degibbs 0 n (decide (side = 1))).1 = s.pc.fadeLen := by
      rw [Pc.degibbs, if_neg]
      rw [Pc.fadeSkipped, decide_eq_true_eq]
      exact Nat.not_lt.mpr hlong
    refine ⟨_, execPcDegibbs_accepted hready hside hn, ?_, hlength, fun i c v hc hv => ?_⟩
    · rw [hanswer]
      exact congrArg (fun p => ({ s with pc := p } : State).okWith (val s.pc.fadeLen)) hframe
    · refine (Pc.degibbs_sample (decide (side = 1)) hlong hc hv).trans ?_
      interval_cases side
      · simp
      · simp

end Sys2Proof.Machine
end

section
/-! PROOFS (O48). Every sample stored is a number within [−1.0, 1.0] (45_dsd_pcm.md R396). A pattern is its sign and its
magnitude, and magnitudes are ordered as the numbers they stand for: those below `FloatFormat.infinity` are finite, and
rounding a number below 1 gives a magnitude of at most that of 1. No sum of R385 is a NaN, since a finite coefficient
added to anything but a NaN gives none, even when the sum has overflowed. -/

namespace Sys2Proof.Machine

open Claims

/-! ## Sign and magnitude -/

section format
variable (f : FloatFormat)

/-- The magnitude of 1.0. -/
def FloatFormat.one : Nat := (2 ^ (f.expo - 1) - 1) * 2 ^ f.frac

theorem FloatFormat.infinity_lt : f.infinity < 2 ^ (f.frac + f.expo) := by
  rw [FloatFormat.infinity, Nat.pow_add, Nat.mul_comm]
  exact Nat.mul_lt_mul_of_pos_left (Nat.sub_lt (Nat.two_pow_pos _) Nat.one_pos) (Nat.two_pow_pos _)

variable {f} {neg : Bool} {mag : Nat}

/-- What a sign and a magnitude stand for. -/
theorem FloatFormat.value_signed (h : mag < 2 ^ (f.frac + f.expo)) :
    f.value (f.signed neg mag) =
      if mag / 2 ^ f.frac = 2 ^ f.expo - 1 then (if mag % 2 ^ f.frac = 0 then .infinite neg else .nan)
      else if mag / 2 ^ f.frac = 0 then .finite neg (mag % 2 ^ f.frac) f.least
      else .finite neg (2 ^ f.frac + mag % 2 ^ f.frac) (f.least + (mag / 2 ^ f.frac - 1 : Nat)) := by
  have hsign : (f.signed neg mag).testBit (f.frac + f.expo) = neg := by
    rw [FloatFormat.signed, Nat.mul_comm, Nat.testBit_two_pow_mul_add _ h, if_neg (Nat.lt_irrefl _), Nat.sub_self]
    cases neg <;> rfl
  have hsplit : f.signed neg mag = mag + 2 ^ f.frac * (2 ^ f.expo * neg.toNat) := by
    rw [FloatFormat.signed, Nat.pow_add]
    ring
  have hfield : f.signed neg mag / 2 ^ f.frac % 2 ^ f.expo = mag / 2 ^ f.frac := by
    rw [hsplit, Nat.add_mul_div_left _ _ (Nat.two_pow_pos _), Nat.add_mul_mod_self_left]
    exact Nat.mod_eq_of_lt (Nat.div_lt_of_lt_mul (by rwa [← Nat.pow_add]))
  have hfrac : f.signed neg mag % 2 ^ f.frac = mag % 2 ^ f.frac := by rw [hsplit, Nat.add_mul_mod_self_left]
  unfold FloatFormat.value
  dsimp only
  rw [hsign, hfield, hfrac]

/-- Below infinity a magnitude is a number; its significand has `frac + 1` bits. -/
theorem FloatFormat.value_signed_finite (h : mag < f.infinity) : ∃ m e, f.value (f.signed neg mag) = .finite neg m e ∧
    m < 2 ^ (f.frac + 1) ∧ e ≤ f.least + (mag / 2 ^ f.frac - 1 : Nat) := by
  have hfield : mag / 2 ^ f.frac ≠ 2 ^ f.expo - 1 :=
    (Nat.div_lt_of_lt_mul (by rwa [Nat.mul_comm])).ne
  have hfrac : mag % 2 ^ f.frac < 2 ^ f.frac := Nat.mod_lt _ (Nat.two_pow_pos _)
  rw [FloatFormat.value_signed (h.trans f.infinity_lt), if_neg hfield]
  split
  · exact ⟨_, _, rfl, by rw [Nat.pow_succ]; omega, by omega⟩
  · exact ⟨_, _, rfl, by rw [Nat.pow_succ]; omega, le_refl _⟩

theorem FloatFormat.value_signed_infinity : f.value (f.signed neg f.infinity) = .infinite neg := by
  have hpos := Nat.two_pow_pos f.frac
  rw [FloatFormat.value_signed f.infinity_lt, FloatFormat.infinity, Nat.mul_div_left _ hpos, if_pos rfl,
    Nat.mul_mod_left, if_pos rfl]

end format

/-! ## Rounding -/

theorem lt_two_pow_bitlen (m : Nat) : m < 2 ^ bitlen m := by
  rw [bitlen_eq_size]
  exact Nat.lt_size_self m

theorem bitlen_le_of_lt {m n : Nat} (h : m < 2 ^ n) : bitlen m ≤ n := by
  rw [bitlen_eq_size]
  exact Nat.size_le.mpr h

/-- A number of `n + shift` bits rounds to at most `2^n`. -/
theorem roundShift_le {m n shift : Nat} (h : m < 2 ^ (n + shift)) : roundShift m shift ≤ 2 ^ n := by
  have hq : m / 2 ^ shift < 2 ^ n := Nat.div_lt_of_lt_mul (by rwa [← Nat.pow_add, Nat.add_comm])
  unfold roundShift
  dsimp only
  split
  · exact hq.le
  · split
    · exact hq
    · omega

section round
variable (f : FloatFormat) (neg : Bool)

theorem FloatFormat.roundMag_le_infinity (m : Nat) (e : Int) : f.roundMag m e ≤ f.infinity := Nat.min_le_left _ _

/-- The place of the last bit that rounding keeps. -/
def FloatFormat.lastBit (m : Nat) (e : Int) : Int := max (e + bitlen m - (f.frac + 1)) f.least

/-- The significand after rounding: `frac + 1` bits, or the next power of two. -/
theorem FloatFormat.roundedSignificand_le (m : Nat) (e : Int) :
    (if e ≤ f.lastBit m e then roundShift m (f.lastBit m e - e).toNat else m * 2 ^ (e - f.lastBit m e).toNat) ≤
      2 ^ (f.frac + 1) := by
  have hm := lt_two_pow_bitlen m
  have hlast : e + bitlen m - (f.frac + 1) ≤ f.lastBit m e := le_max_left _ _
  split
  · exact roundShift_le (hm.trans_le (Nat.pow_le_pow_right Nat.two_pos (by omega)))
  · calc m * 2 ^ (e - f.lastBit m e).toNat
        ≤ 2 ^ bitlen m * 2 ^ (e - f.lastBit m e).toNat := Nat.mul_le_mul_right _ hm.le
      _ = 2 ^ (bitlen m + (e - f.lastBit m e).toNat) := (Nat.pow_add _ _ _).symm
      _ ≤ 2 ^ (f.frac + 1) := Nat.pow_le_pow_right Nat.two_pos (by omega)

/-- A number of magnitude below 1 rounds to a magnitude of at most 1. -/
theorem FloatFormat.roundMag_le_one {m : Nat} {e : Int} (hf : 3 ≤ f.expo) (h : e + bitlen m ≤ 0) :
    f.roundMag m e ≤ f.one := by
  have hexpo : (2 : Nat) ^ (3 - 1) ≤ 2 ^ (f.expo - 1) := Nat.pow_le_pow_right Nat.two_pos (by omega)
  have hplace : (f.lastBit m e - f.least).toNat + 2 ≤ 2 ^ (f.expo - 1) - 1 := by
    rw [FloatFormat.lastBit, FloatFormat.least]
    omega
  refine (Nat.min_le_right _ _).trans ?_
  calc (f.lastBit m e - f.least).toNat * 2 ^ f.frac + _
      ≤ (f.lastBit m e - f.least).toNat * 2 ^ f.frac + 2 ^ (f.frac + 1) :=
        Nat.add_le_add_left (f.roundedSignificand_le m e) _
    _ = ((f.lastBit m e - f.least).toNat + 2) * 2 ^ f.frac := by ring
    _ ≤ f.one := Nat.mul_le_mul_right _ hplace

variable {f}

theorem FloatFormat.one_lt_infinity (hf : 3 ≤ f.expo) : f.one < f.infinity := by
  have hexpo : (2 : Nat) ^ (f.expo - 1) < 2 ^ f.expo := Nat.pow_lt_pow_right Nat.one_lt_two (by omega)
  have hpos := Nat.two_pow_pos (f.expo - 1)
  exact Nat.mul_lt_mul_of_pos_right (by omega) (Nat.two_pow_pos _)

/-- A rounded number is a sign and a magnitude of at most infinity; of at most 1 for a number below 1. -/
theorem FloatFormat.round_eq_signed (hf : 3 ≤ f.expo) (m : Nat) (e : Int) : ∃ mag, f.round neg m e = f.signed neg mag ∧
    mag ≤ f.infinity ∧ (e + bitlen m ≤ 0 → mag ≤ f.one) := by
  by_cases hm : m = 0
  · exact ⟨0, by rw [FloatFormat.round, if_pos hm], Nat.zero_le _, fun _ => Nat.zero_le _⟩
  · exact ⟨f.roundMag m e, by rw [FloatFormat.round, if_neg hm], f.roundMag_le_infinity m e, f.roundMag_le_one hf⟩

end round

/-! ## Magnitudes of binary64 -/

/-- The magnitude of a binary64. -/
def f64Mag (x : F64) : Nat := x.toNat % 2 ^ 63

theorem toNat_f64Abs (x : F64) : (f64Abs x).toNat = f64Mag x := by
  have hmask : (0x7FFFFFFFFFFFFFFF : F64).toNat = 2 ^ 63 - 1 := by decide
  rw [f64Abs, BitVec.toNat_and, hmask, Nat.and_two_pow_sub_one_eq_mod]
  rfl

theorem f64Finite_iff (x : F64) : f64Finite x = true ↔ f64Mag x < binary64.infinity := by
  rw [f64Finite, decide_eq_true_eq, toNat_f64Abs]

theorem signed_binary64 (neg : Bool) (mag : Nat) : binary64.signed neg mag = neg.toNat * 2 ^ 63 + mag := by
  simp [FloatFormat.signed, binary64]

theorem signed_binary32 (neg : Bool) (mag : Nat) : binary32.signed neg mag = neg.toNat * 2 ^ 31 + mag := by
  simp [FloatFormat.signed, binary32]

/-- A binary64 is its sign and its magnitude. -/
theorem toNat_eq_signed (x : F64) : ∃ neg, x.toNat = binary64.signed neg (f64Mag x) := by
  have hx := x.isLt
  refine ⟨decide (2 ^ 63 ≤ x.toNat), ?_⟩
  rw [signed_binary64, f64Mag]
  by_cases h : 2 ^ 63 ≤ x.toNat
  · rw [decide_eq_true h, Bool.toNat_true]
    omega
  · rw [decide_eq_false h, Bool.toNat_false]
    omega

/-- A pattern of a sign and a magnitude has that magnitude. -/
theorem f64Mag_ofNat (neg : Bool) {mag : Nat} (h : mag ≤ binary64.infinity) :
    f64Mag (BitVec.ofNat 64 (binary64.signed neg mag)) = mag := by
  have hmag : mag < 2 ^ 63 := h.trans_lt binary64.infinity_lt
  rw [f64Mag, BitVec.toNat_ofNat, signed_binary64]
  omega

theorem f64Mag_f64Round (neg : Bool) (m : Nat) (e : Int) : f64Mag (f64Round neg m e) ≤ binary64.infinity ∧
    (e + bitlen m ≤ 0 → f64Mag (f64Round neg m e) ≤ binary64.one) := by
  obtain ⟨mag, hround, hinf, hone⟩ := FloatFormat.round_eq_signed (f := binary64) neg (by decide) m e
  rw [f64Round, hround, f64Mag_ofNat neg hinf]
  exact ⟨hinf, hone⟩

theorem f64Mag_f64OfInt (zeroNeg : Bool) (n e : Int) : f64Mag (f64OfInt zeroNeg n e) ≤ binary64.infinity ∧
    (e + bitlen n.natAbs ≤ 0 → f64Mag (f64OfInt zeroNeg n e) ≤ binary64.one) := by
  unfold f64OfInt
  split
  · exact ⟨(f64Mag_f64Round zeroNeg 0 0).1, fun _ => (f64Mag_f64Round zeroNeg 0 0).2 (by decide)⟩
  · exact f64Mag_f64Round _ _ _

/-- A finite binary64 stands for a number, and one of magnitude below 1.0 for a number below 1. -/
theorem f64Value_of_finite {x : F64} (h : f64Mag x < binary64.infinity) : ∃ neg m e, f64Value x = .finite neg m e ∧
    (f64Mag x < binary64.one → e + bitlen m ≤ 0) := by
  obtain ⟨neg, hx⟩ := toNat_eq_signed x
  obtain ⟨m, e, hvalue, hm, he⟩ := FloatFormat.value_signed_finite (neg := neg) h
  refine ⟨neg, m, e, by rw [f64Value, hx, hvalue], fun hone => ?_⟩
  have hlen := bitlen_le_of_lt hm
  have hfield : f64Mag x / 2 ^ 52 < 1023 := Nat.div_lt_of_lt_mul (by rwa [Nat.mul_comm])
  have hleast : binary64.least = -1074 := by decide
  rw [hleast] at he
  change e ≤ -1074 + ((f64Mag x / 2 ^ 52 - 1 : Nat) : Int) at he
  change bitlen m ≤ 53 at hlen
  omega

/-- A pattern no larger than infinity is a number or an infinity. -/
theorem f64Value_of_le {x : F64} (h : f64Mag x ≤ binary64.infinity) :
    (∃ neg, f64Value x = .infinite neg) ∨ ∃ neg m e, f64Value x = .finite neg m e := by
  rcases Nat.lt_or_eq_of_le h with hlt | heq
  · obtain ⟨neg, m, e, hvalue, _⟩ := f64Value_of_finite hlt
    exact .inr ⟨neg, m, e, hvalue⟩
  · obtain ⟨neg, hx⟩ := toNat_eq_signed x
    exact .inl ⟨neg, by rw [f64Value, hx, heq, FloatFormat.value_signed_infinity]⟩

/-! ## Sums that are no NaN -/

/-- A finite number added to anything but a NaN gives no NaN: the infinities of an overflowed sum stay. -/
theorem f64Mag_f64Add {x y : F64} (hx : f64Mag x ≤ binary64.infinity) (hy : f64Mag y < binary64.infinity) :
    f64Mag (f64Add x y) ≤ binary64.infinity := by
  obtain ⟨b, n, e', hy, _⟩ := f64Value_of_finite hy
  rcases f64Value_of_le hx with ⟨a, hx⟩ | ⟨a, m, e, hx⟩
  · have hadd : f64Add x y = f64Infinity a := by rw [f64Add, hx, hy]
    rw [hadd]
    exact (f64Mag_ofNat a (le_refl _)).le
  · rw [f64Add, hx, hy]
    exact (f64Mag_f64OfInt _ _ _).1

theorem f64Mag_f64Neg (x : F64) : f64Mag (f64Neg x) = f64Mag x := by
  have hsign : (0x8000000000000000 : F64).toNat % 2 ^ 63 = 0 := by decide
  rw [f64Mag, f64Neg, BitVec.toNat_xor, Nat.xor_mod_two_pow, hsign, Nat.xor_zero]
  rfl

/-- No sum of R385 over finite coefficients is a NaN. -/
theorem f64Mag_fir (stride : Nat) : ∀ (xs : List Bool) (hs : List F64) (acc : F64), f64Mag acc ≤ binary64.infinity →
    (∀ h ∈ hs, f64Finite h = true) → f64Mag (fir stride acc hs xs) ≤ binary64.infinity
  | [], hs, acc, hacc, _ => by rwa [fir_eq_of_nil_right]
  | _ :: _, [], acc, hacc, _ => hacc
  | x :: xs, h :: hs, acc, hacc, hfin => by
    have hh : f64Mag h < binary64.infinity := (f64Finite_iff h).mp (hfin h List.mem_cons_self)
    have hterm : f64Mag (if x then h else f64Neg h) < binary64.infinity := by
      split
      · exact hh
      · rwa [f64Mag_f64Neg]
    exact f64Mag_fir stride xs _ _ (f64Mag_f64Add hacc hterm) fun h' hmem =>
      hfin h' (List.mem_cons_of_mem h (List.mem_of_mem_drop hmem))

/-- The dither of a sample is a number (45_dsd_pcm.md R395). -/
theorem f64Mag_dithered (depth i : Nat) (lcg : Word) {y : F64} (hy : f64Mag y ≤ binary64.infinity) :
    f64Mag (dithered depth i lcg y) ≤ binary64.infinity := by
  unfold dithered
  split
  · exact hy
  · next hdepth =>
    have h1 := (drawn (2 * i + 1) lcg).isLt
    have h2 := (drawn (2 * i + 2) lcg).isLt
    have hlen : bitlen (((drawn (2 * i + 1) lcg).toNat : Int) - (drawn (2 * i + 2) lcg).toNat).natAbs ≤ 32 :=
      bitlen_le_of_lt (by omega)
    refine f64Mag_f64Add hy (((f64Mag_f64OfInt _ _ _).2 ?_).trans_lt (FloatFormat.one_lt_infinity (by decide)))
    push_cast
    omega

/-! ## Clamping and narrowing (45_dsd_pcm.md R396) -/

/-- A clamped sample has a magnitude of at most 1.0. -/
theorem f64Mag_clamp1 {z : F64} (h : f64Mag z ≤ binary64.infinity) : f64Mag (clamp1 z) ≤ binary64.one := by
  have hz := z.isLt
  have hone : binary64.one = 0x3FF0000000000000 := by decide
  have hclamp : clamp1 z = if z.toNat < 2 ^ 63 ∧ 0x3FF0000000000000 < z.toNat then 0x3FF0000000000000
      else if 0xBFF0000000000000 < z.toNat then 0xBFF0000000000000 else z := by
    unfold clamp1
    rcases f64Value_of_le h with ⟨neg, hv⟩ | ⟨neg, m, e, hv⟩ <;> rw [hv]
  rw [hclamp, hone]
  split
  · exact (by decide : f64Mag 0x3FF0000000000000 ≤ 0x3FF0000000000000)
  · split
    · exact (by decide : f64Mag 0xBFF0000000000000 ≤ 0x3FF0000000000000)
    · unfold f64Mag
      omega

/-- Narrowing a magnitude of at most 1.0 gives one of at most 1.0. -/
theorem toF32_le_one {z : F64} (h : f64Mag z ≤ binary64.one) : (toF32 z).toNat % 2 ^ 31 ≤ 0x3F800000 := by
  have hone : binary32.one = 0x3F800000 := by decide
  have hfinite : f64Mag z < binary64.infinity := h.trans_lt (FloatFormat.one_lt_infinity (by decide))
  rcases Nat.lt_or_eq_of_le h with hlt | heq
  · obtain ⟨neg, m, e, hvalue, hlen⟩ := f64Value_of_finite hfinite
    obtain ⟨mag, hround, _, hmag⟩ := FloatFormat.round_eq_signed (f := binary32) neg (by decide) m e
    have hle := hmag (hlen hlt)
    rw [toF32, hvalue]
    dsimp only
    rw [hround, BitVec.toNat_ofNat, signed_binary32]
    omega
  · obtain ⟨neg, hz⟩ := toNat_eq_signed z
    have hz' : z = BitVec.ofNat 64 (binary64.signed neg binary64.one) := by
      rw [← heq, ← hz, BitVec.ofNat_toNat, BitVec.setWidth_eq]
    rw [hz']
    cases neg <;> decide +kernel

theorem storedSample_le_one (depth i : Nat) (lcg : Word) {y : F64} (hy : f64Mag y ≤ binary64.infinity) :
    (storedSample depth i lcg y).toNat % 2 ^ 31 ≤ 0x3F800000 :=
  toF32_le_one (f64Mag_clamp1 (f64Mag_dithered depth i lcg hy))

/-! ## The samples of a conversion -/

/-- What holds of every sample that a table makes holds of all that rows gather. -/
theorem forall_mem_feedRows {P : F32 → Prop} {h : List F64} (depth : Nat)
    (hP : ∀ (q : Pc) (hist : List Bool) (m i : Nat) (lcg : Word), q.h = h →
      P (storedSample depth i lcg (q.output hist m))) :
    ∀ (rows : List (List Bool)) (pc : Pc) (out : List F32), pc.h = h → (∀ v ∈ out, P v) →
    ∀ v ∈ (feedRows depth rows pc out).2, P v
  | [], _, _, _, hout => hout
  | row :: rows, pc, out, hh, hout => by
    rw [feedRows]
    refine forall_mem_feedRows depth hP rows _ _ ((pc.feedBits_mode depth row out).h.trans hh) fun v hv => ?_
    rw [Pc.feedBits_eq, List.mem_append, List.mem_reverse] at hv
    refine hv.elim (fun hv => ?_) (hout v)
    obtain ⟨j, _, hv⟩ := List.mem_flatMap.mp hv
    obtain ⟨c, hc, rfl⟩ := List.mem_mapIdx.mp hv
    exact hP (pc.received row) _ _ _ _ hh

/-- Settles O48: no filter sum is a NaN, and what is not a NaN is clamped to a magnitude of at most 1.0. -/
theorem samplesStayInRange : Obligations.SamplesStayInRange := by
  unfold Obligations.SamplesStayInRange
  intro pc depth bytes v hch hfinite hv
  rw [converted_eq pc depth bytes hch, List.mem_reverse] at hv
  refine forall_mem_feedRows (P := fun v => v.toNat % 2 ^ 31 ≤ 0x3F800000) (h := pc.h) depth
    (fun q hist m i lcg hq => storedSample_le_one depth i lcg ?_) (inputRows pc.ch bytes) (pc.begun bytes) [] rfl nofun
    v hv
  exact f64Mag_fir q.u _ _ 0 (by decide) fun x hx => hfinite x (hq ▸ List.mem_of_mem_drop hx)

end Sys2Proof.Machine
end

section
/-! PROOFS (O47). The packer (45_dsd_pcm.md R420): rounding a number of `shift` fraction bits gives an integer
nearest to it, the even one of two, and three bytes read back as the saturated integer. -/

namespace Sys2Proof.Machine

open Claims

/-! ## Rounding to an integer -/

/-- `i` is the integer nearest to `x`, and the even one where two are equally near. -/
def Nearest (i : Int) (x : ℚ) : Prop := |(i : ℚ) - x| ≤ 1 / 2 ∧ (|(i : ℚ) - x| = 1 / 2 → Even i)

/-- An integer is the nearest one to itself. -/
theorem Nearest.refl (i : Int) : Nearest i i := by
  rw [Nearest, sub_self, abs_zero]
  exact ⟨by norm_num, fun h => absurd h (by norm_num)⟩

theorem Nearest.neg {i : Int} {x : ℚ} (h : Nearest i x) : Nearest (-i) (-x) := by
  have hdist : |((-i : Int) : ℚ) - -x| = |(i : ℚ) - x| := by
    rw [Int.cast_neg, neg_sub_neg, abs_sub_comm]
  rw [Nearest, hdist]
  exact ⟨h.1, fun heq => (h.2 heq).neg⟩

section fraction
variable (q : Nat) {x : ℚ}

theorem Nearest.below (h0 : 0 ≤ x) (h : x < 1 / 2) : Nearest (q : Nat) (q + x) := by
  have hdist : |((q : Int) : ℚ) - (q + x)| = x := by
    rw [Int.cast_natCast, sub_add_cancel_left, abs_neg, abs_of_nonneg h0]
  rw [Nearest, hdist]
  exact ⟨h.le, fun heq => absurd heq h.ne⟩

theorem Nearest.above (h1 : x < 1) (h : 1 / 2 < x) : Nearest (q + 1 : Nat) (q + x) := by
  have hdist : |((q + 1 : Nat) : Int) - (q + x)| = 1 - x := by
    rw [Int.cast_natCast, Nat.cast_add_one, add_sub_add_left_eq_sub, abs_of_pos (by linarith)]
  rw [Nearest, hdist]
  exact ⟨by linarith, fun heq => by linarith⟩

/-- Half way between two integers the even one is taken. -/
theorem Nearest.tie (h : x = 1 / 2) : Nearest (q + q % 2 : Nat) (q + x) := by
  have heven : Even ((q + q % 2 : Nat) : Int) := by
    rw [Int.even_iff]
    omega
  have hdist : |((q + q % 2 : Nat) : Int) - (q + x)| = 1 / 2 := by
    rw [Int.cast_natCast, Nat.cast_add, add_sub_add_left_eq_sub, h]
    rcases Nat.mod_two_eq_zero_or_one q with hq | hq <;> rw [hq] <;> norm_num [abs_of_neg, abs_of_pos]
  exact ⟨hdist.le, fun _ => heven⟩

end fraction

theorem nearest_roundShift (m shift : Nat) : Nearest (roundShift m shift) ((m : ℚ) / 2 ^ shift) := by
  have hpos : (0 : ℚ) < 2 ^ shift := by positivity
  have hsplit : (m : ℚ) / 2 ^ shift = (m / 2 ^ shift : Nat) + ((m % 2 ^ shift : Nat) : ℚ) / 2 ^ shift := by
    have hm : (m : ℚ) = 2 ^ shift * (m / 2 ^ shift : Nat) + (m % 2 ^ shift : Nat) := by
      exact_mod_cast (Nat.div_add_mod m (2 ^ shift)).symm
    rw [hm]
    field_simp
  rw [hsplit]
  unfold roundShift
  dsimp only
  split
  · next h =>
    refine .below _ (by positivity) ?_
    rw [div_lt_div_iff₀ hpos two_pos, one_mul]
    exact_mod_cast (Nat.mul_comm _ _).trans_lt h
  · split
    · next h =>
      refine .above _ ?_ ?_
      · rw [div_lt_one hpos]
        exact_mod_cast Nat.mod_lt m (Nat.two_pow_pos shift)
      · rw [div_lt_div_iff₀ two_pos hpos, one_mul]
        exact_mod_cast h.trans_eq (Nat.mul_comm _ _)
    · refine .tie _ ?_
      have htie : m % 2 ^ shift * 2 = 2 ^ shift := by omega
      rw [div_eq_div_iff hpos.ne' two_ne_zero, one_mul]
      exact_mod_cast htie

/-- `±m · 2^e` rounded is the integer nearest to it (45_dsd_pcm.md R420). -/
theorem nearest_roundToInt (neg : Bool) (m : Nat) (e : Int) : Nearest (roundToInt neg m e) (rational neg m e) := by
  have hmag : Nearest (if e < 0 then roundShift m (-e).toNat else m * 2 ^ e.toNat : Nat) ((m : ℚ) * 2 ^ e) := by
    split
    · next he =>
      have hpow : (m : ℚ) * 2 ^ e = (m : ℚ) / 2 ^ (-e).toNat := by
        rw [div_eq_mul_inv, ← zpow_natCast, Int.toNat_of_nonneg (by omega), zpow_neg, inv_inv]
      rw [hpow]
      exact nearest_roundShift m _
    · next he =>
      have hpow : (m : ℚ) * 2 ^ e = ((m * 2 ^ e.toNat : Nat) : Int) := by
        push_cast
        rw [← zpow_natCast, Int.toNat_of_nonneg (by omega)]
      rw [hpow]
      exact .refl _
  unfold roundToInt signedInt rational
  cases neg
  · exact hmag
  · simpa using hmag.neg

/-! ## Three bytes -/

/-- The bytes of a number read back as it, modulo their width. -/
theorem leNat_leBytes : ∀ n v, leNat (leBytes n v) = v % 256 ^ n
  | 0, v => (Nat.mod_one v).symm
  | n + 1, v => by
    have hrest : leNat (leBytes (n + 1) v) = leNat (leBytes n (v / 256)) * 256 + v % 256 := by
      rw [leBytes, leNat, List.foldr_cons, BitVec.toNat_ofNat]
      rfl
    rw [hrest, leNat_leBytes n, Nat.pow_succ', Nat.mod_mul, Nat.mul_comm, Nat.add_comm]

theorem int24_leBytes {i : Int} (hmin : -8388608 ≤ i) (hmax : i ≤ 8388607) :
    int24 (leBytes 3 (i % 2 ^ 24).toNat) = i := by
  have hnat : (((i % 2 ^ 24).toNat % 256 ^ 3 : Nat) : Int) = i % (2 ^ 24 : Nat) := by omega
  rw [int24, leNat_leBytes, BitVec.toInt_ofNat', hnat, Int.emod_bmod]
  exact Int.bmod_eq_of_le (by omega) (by omega)

/-- The packer's bytes read back as the saturated integer (45_dsd_pcm.md R420). -/
theorem int24_pack24 {v : F32} {neg : Bool} {m : Nat} {e : Int} (hv : binary32.value v.toNat = .finite neg m e) :
    int24 (pack24 v) = max (-8388608) (min 8388607 (roundToInt neg m (e + 23))) := by
  have hint : packInt v = max (-8388608) (min 8388607 (roundToInt neg m (e + 23))) := by
    rw [packInt, hv, Config.pcmMin_eq, Config.pcmMax_eq]
  rw [pack24, int24_leBytes (by rw [hint]; omega) (by rw [hint]; omega), hint]

/-! ## PC_PACK -/

section pack
variable {s : State} {skip count : Nat} (hready : converterReady s)
include hready

theorem execPcPack_accepted (hcount : skip + count ≤ s.pc.pcmN) (hheld : s.pc.pcmN * s.pc.ch ≤ s.pc.pcmBuf.length) :
    exec (.pcPack skip count) s = .next
      (({ s with dout := s.dout ++ packedBytes s.pc skip count } : State).okWith (val count)) := by
  obtain ⟨hsess, ht⟩ := hready
  have hlen : (skip + count) * s.pc.ch ≤ s.pc.pcmBuf.length := (Nat.mul_le_mul_right _ hcount).trans hheld
  show execPcPack skip count s = _
  rw [execPcPack, State.unlessOwned_free s _ hsess, State.withConverter_some s _ ht, if_neg (Nat.not_lt.mpr hcount),
    Pc.packed, Pc.samples_eq _ _ _ hlen]
  rfl

theorem execPcPack_refused (hcount : s.pc.pcmN < skip + count) :
    exec (.pcPack skip count) s = .next (s.refusedWith 2 s.pc.pcmN) := by
  obtain ⟨hsess, ht⟩ := hready
  show execPcPack skip count s = _
  rw [execPcPack, State.unlessOwned_free s _ hsess, State.withConverter_some s _ ht, if_pos hcount]
  exact s.fail_eq .eOperand s.pc.pcmN

end pack

/-- Settles O47: the integer is the one `roundToInt` gives, and three bytes hold it saturated. -/
theorem packRoundsAndSaturates : Obligations.PackRoundsAndSaturates := by
  unfold Obligations.PackRoundsAndSaturates
  refine ⟨fun s skip count hready hcount hheld => execPcPack_accepted hready hcount hheld, fun v neg m e hv => ?_,
    fun s skip count hready hcount => execPcPack_refused hready hcount⟩
  obtain ⟨hnear, heven⟩ := nearest_roundToInt neg m (e + 23)
  exact ⟨roundToInt neg m (e + 23), hnear, heven, length_pack24 v, int24_pack24 hv⟩

end Sys2Proof.Machine
end

section
/-! PROOFS (O49). The two tables that `coef` chooses between meet the constraints of 45_dsd_pcm.md R375: the free table
where it is legal, and the table that is `pc_U` at the centre and 0 elsewhere. Both write an entry by its distance from
the centre, so they are symmetric, and both have exact zeros at the nodes. -/

namespace Sys2Proof.Machine

open Claims

/-! ## Entries by their distance from the centre -/

/-- The indices of a table of odd length are symmetric about the centre. -/
theorem centreDistance_symm {t i : Nat} (ht : t % 2 = 1) (hi : i < t) :
    centreDistance t (t - 1 - i) = centreDistance t i := by
  unfold centreDistance
  omega

theorem centreDistance_eq_natAbs (t i : Nat) : centreDistance t i = ((i : Int) - ((t - 1) / 2 : Nat)).natAbs := by
  unfold centreDistance
  omega

theorem centreDistance_eq_zero_iff (t i : Nat) : centreDistance t i = 0 ↔ i = (t - 1) / 2 := by
  unfold centreDistance
  omega

/-- A table whose entries are written by their distance from the centre. -/
def centred (t : Nat) (f : Nat → F64) : List F64 := (List.range t).map fun i => f (centreDistance t i)

theorem getElem?_centred {t i : Nat} (f : Nat → F64) (hi : i < t) :
    (centred t f)[i]? = some (f (centreDistance t i)) := by
  rw [centred, List.getElem?_map, List.getElem?_range hi, Option.map_some]

/-- Such a table is symmetric (45_dsd_pcm.md R375 (c)). -/
theorem centred_symm {t i : Nat} (f : Nat → F64) (ht : t % 2 = 1) (hi : i < t) :
    (centred t f)[i]? = (centred t f)[t - 1 - i]? := by
  rw [getElem?_centred f hi, getElem?_centred f (by omega), centreDistance_symm ht hi]

section tables
variable (k pcm : Nat)

/-- Both tables write an entry by its distance from the centre, and it is 0 at a node. -/
theorem coef_eq_centred : ∃ f, coef k pcm = centred (mode k pcm).t f ∧
    ∀ dist, nodal k pcm dist = true → f dist = 0 := by
  unfold coef
  split
  · exact ⟨fun dist => if nodal k pcm dist then 0 else Config.coefRaw k pcm dist, rfl, fun dist h => if_pos h⟩
  · refine ⟨fun dist => if dist = 0 then f64Round false (mode k pcm).u 0 else 0, rfl, fun dist h => if_neg fun h0 => ?_⟩
    rw [h0] at h
    exact absurd h (by simp [nodal])

theorem coef_symm {i : Nat} (ht : (mode k pcm).t % 2 = 1) (hi : i < (mode k pcm).t) :
    (coef k pcm)[i]? = (coef k pcm)[(mode k pcm).t - 1 - i]? := by
  obtain ⟨f, hf, _⟩ := coef_eq_centred k pcm
  rw [hf]
  exact centred_symm f ht hi

theorem coef_nodal {i : Nat} (hi : i < (mode k pcm).t) (h : nodal k pcm (centreDistance (mode k pcm).t i) = true) :
    (coef k pcm)[i]? = some 0 := by
  obtain ⟨f, hf, hzero⟩ := coef_eq_centred k pcm
  rw [hf, getElem?_centred f hi, hzero _ h]

/-- A node of the cut-off as the rule writes it is one of `nodal`. -/
theorem nodal_of_integer {i m : Nat} (hne : i ≠ m)
    (h : ∃ z : Int, 2 * (((cutOff k pcm).1 : ℚ) / (2 * (cutOff k pcm).2)) * ((i : ℚ) - m) = z) :
    nodal k pcm ((i : Int) - m).natAbs = true := by
  obtain ⟨z, hz⟩ := h
  obtain ⟨hnum, hlt⟩ : 0 < (cutOff k pcm).1 ∧ (cutOff k pcm).1 < (cutOff k pcm).2 := Config.fcNorm_bounds k pcm
  have hden : ((cutOff k pcm).2 : ℚ) ≠ 0 := Nat.cast_ne_zero.mpr (by omega)
  have hint : ((cutOff k pcm).1 : Int) * ((i : Int) - m) = (cutOff k pcm).2 * z := by
    field_simp at hz
    exact_mod_cast hz
  have hdvd : (cutOff k pcm).2 ∣ (cutOff k pcm).1 * ((i : Int) - m).natAbs := by
    have hnat := congrArg Int.natAbs hint
    rw [Int.natAbs_mul, Int.natAbs_mul, Int.natAbs_natCast, Int.natAbs_natCast] at hnat
    exact ⟨z.natAbs, hnat⟩
  rw [nodal, Nat.mod_eq_zero_of_dvd hdvd]
  simp only [decide_true, Bool.and_true, decide_eq_true_eq]
  omega

/-- `0 < FC_NORM < 1/2` (45_dsd_pcm.md R375 (d)). -/
theorem cutOff_bounds : 0 < ((cutOff k pcm).1 : ℚ) / (2 * (cutOff k pcm).2) ∧
    ((cutOff k pcm).1 : ℚ) / (2 * (cutOff k pcm).2) < 1 / 2 := by
  obtain ⟨hnum, hlt⟩ : 0 < (cutOff k pcm).1 ∧ (cutOff k pcm).1 < (cutOff k pcm).2 := Config.fcNorm_bounds k pcm
  have hden : (0 : ℚ) < (cutOff k pcm).2 := Nat.cast_pos.mpr (by omega)
  have hnum' : (0 : ℚ) < (cutOff k pcm).1 := Nat.cast_pos.mpr hnum
  have hlt' : ((cutOff k pcm).1 : ℚ) < (cutOff k pcm).2 := Nat.cast_lt.mpr hlt
  refine ⟨by positivity, ?_⟩
  rw [div_lt_div_iff₀ (by positivity) two_pos]
  linarith

end tables

/-! ## The gain (45_dsd_pcm.md R375 (e)) -/

/-- A power of two as a multiple of a smaller one. -/
theorem two_zpow_eq {lo e : Int} (h : lo ≤ e) : (2 : ℚ) ^ e = 2 ^ (e - lo).toNat * (2 : ℚ) ^ lo := by
  rw [← zpow_natCast, Int.toNat_of_nonneg (by omega), ← zpow_add₀ two_ne_zero, Int.sub_add_cancel]

theorem rational_eq_signedInt (neg : Bool) (m : Nat) (e : Int) : rational neg m e = signedInt neg m * (2 : ℚ) ^ e := by
  unfold rational signedInt
  cases neg <;> simp

/-- The check of a table's sum, as the inequality of the rule. -/
theorem gain_of_gainWithin {u t : Nat} {sum : F64} (hu : bitlen u ≤ 53) (h : gainWithin u t sum = true) :
    ∃ neg m e, f64Value sum = .finite neg m e ∧
      |rational neg m e - u| ≤ t * (2 : ℚ) ^ ((Nat.size u : Int) - 53) := by
  unfold gainWithin at h
  split at h
  · next neg m e hv =>
    refine ⟨neg, m, e, hv, ?_⟩
    have hplace : lastPlace u = (Nat.size u : Int) - 53 := by rw [lastPlace, bitlen_eq_size]
    have hplace0 : lastPlace u ≤ 0 := by
      rw [lastPlace]
      omega
    rw [← hplace]
    dsimp only at h
    have hle : min e (lastPlace u) ≤ e := min_le_left _ _
    have hlp : min e (lastPlace u) ≤ lastPlace u := min_le_right _ _
    generalize min e (lastPlace u) = lo at h hle hlp
    have hpos : (0 : ℚ) < (2 : ℚ) ^ lo := by positivity
    have hone : (1 : ℚ) = 2 ^ (-lo).toNat * (2 : ℚ) ^ lo := by
      have hzero := two_zpow_eq (hlp.trans hplace0)
      rwa [zpow_zero, zero_sub] at hzero
    have hdiff : rational neg m e - u =
        ((signedInt neg m * 2 ^ (e - lo).toNat - (u : Int) * 2 ^ (-lo).toNat : Int) : ℚ) * (2 : ℚ) ^ lo := by
      rw [rational_eq_signedInt, two_zpow_eq hle]
      push_cast
      rw [sub_mul, mul_assoc, mul_assoc, ← hone, mul_one]
    have hbound := of_decide_eq_true h
    rw [hdiff, two_zpow_eq hlp, abs_mul, abs_of_pos hpos, ← mul_assoc, ← Int.cast_abs, Int.abs_eq_natAbs]
    refine mul_le_mul_of_nonneg_right ?_ hpos.le
    exact_mod_cast hbound
  · exact absurd h Bool.false_ne_true

/-- A sum within fewer units is within more. -/
theorem gainWithin_mono {u t t' : Nat} {sum : F64} (ht : t ≤ t') (h : gainWithin u t sum = true) :
    gainWithin u t' sum = true := by
  unfold gainWithin at h ⊢
  split at h
  · refine decide_eq_true ((of_decide_eq_true h).trans (Nat.mul_le_mul_right _ ht))
  · exact absurd h Bool.false_ne_true

/-- Zeros add nothing. -/
theorem foldl_f64Add_zeros {acc : F64} (h : f64Add acc 0 = acc) : ∀ n, (List.replicate n 0).foldl f64Add acc = acc
  | 0 => rfl
  | n + 1 => by rw [List.replicate_succ, List.foldl_cons, h, foldl_f64Add_zeros h n]

/-- The table with one entry at the centre. -/
theorem centred_single {t : Nat} (ht : t % 2 = 1) (a : F64) : centred t (fun dist => if dist = 0 then a else 0) =
    List.replicate ((t - 1) / 2) 0 ++ a :: List.replicate ((t - 1) / 2) 0 := by
  refine List.ext_getElem (by simp [centred]; omega) fun i _ _ => ?_
  simp only [centred, List.getElem_map, List.getElem_range, centreDistance_eq_zero_iff, List.getElem_append,
    List.getElem_cons, List.getElem_replicate, List.length_replicate]
  rcases Nat.lt_trichotomy i ((t - 1) / 2) with hlt | heq | hgt
  · rw [if_neg hlt.ne, dif_pos hlt]
  · rw [if_pos heq, dif_neg (Nat.not_lt.mpr heq.ge), dif_pos (Nat.sub_eq_zero_of_le heq.le)]
  · rw [if_neg hgt.ne', dif_neg (Nat.not_lt.mpr hgt.le), dif_neg (Nat.sub_ne_zero_of_lt hgt)]

/-- What the sum of the delta table turns on, for one `pc_U`: it is finite, meets the gain, and zeros add nothing. -/
def deltaSumHolds (u : Nat) : Bool :=
  f64Finite (f64Round false u 0) && gainWithin u 0 (f64Round false u 0) &&
  decide (f64Add 0 (f64Round false u 0) = f64Round false u 0 ∧ f64Add (f64Round false u 0) 0 = f64Round false u 0)

/-- The table has finite entries and the gain of the rule (45_dsd_pcm.md R375 (b), (e)). -/
theorem coef_finite_gain {k pcm : Nat} (ht : (mode k pcm).t % 2 = 1) (hu : deltaSumHolds (mode k pcm).u = true) :
    (∀ x ∈ coef k pcm, f64Finite x = true) ∧
    gainWithin (mode k pcm).u (mode k pcm).t ((coef k pcm).foldl f64Add 0) = true := by
  unfold coef
  split
  · next hlegal =>
    simp only [tableLegal, Bool.and_eq_true, List.all_eq_true] at hlegal
    obtain ⟨⟨hfinite, hgain⟩, _⟩ := hlegal
    exact ⟨hfinite, hgain⟩
  · simp only [deltaSumHolds, Bool.and_eq_true, decide_eq_true_eq] at hu
    obtain ⟨⟨hfinite, hgain⟩, hleft, hright⟩ := hu
    have htable : deltaTable k pcm = List.replicate (((mode k pcm).t - 1) / 2) 0 ++
        f64Round false (mode k pcm).u 0 :: List.replicate (((mode k pcm).t - 1) / 2) 0 := centred_single ht _
    rw [htable]
    constructor
    · intro x hx
      rcases List.mem_append.mp hx with hx | hx
      · rw [List.eq_of_mem_replicate hx]
        decide
      · rcases List.mem_cons.mp hx with rfl | hx
        · exact hfinite
        · rw [List.eq_of_mem_replicate hx]
          decide
    · rw [List.foldl_append, foldl_f64Add_zeros (by decide +kernel), List.foldl_cons, hleft,
        foldl_f64Add_zeros hright]
      exact gainWithin_mono (Nat.zero_le _) hgain

/-! ## The sixteen modes -/

/-- The check of one row for its table. -/
def tableRowHolds : Nat × Nat × Nat × Nat × Nat × Nat × Nat × Nat → Bool
  | (_, _, u, _, tt, _, _, _) => decide (tt % 2 = 1 ∧ bitlen u ≤ 53 ∧ deltaSumHolds u = true)

theorem tableRow_of_mem {dsd pcm u d tt spf delta fade : Nat} (h : (dsd, pcm, u, d, tt, spf, delta, fade) ∈ modeRows) :
    tt % 2 = 1 ∧ bitlen u ≤ 53 ∧ deltaSumHolds u = true := by
  have hrows : modeRows.all tableRowHolds = true := by decide +kernel
  have hrow := List.all_eq_true.mp hrows _ h
  rw [tableRowHolds] at hrow
  exact of_decide_eq_true hrow

/-- Settles O49: each constraint is one of the lemmas above, at the mode of the row. -/
theorem coefficientTables : Obligations.CoefficientTables := by
  unfold Obligations.CoefficientTables
  rintro dsd pcm _ u d tt spf delta fade _ _ hrow rfl rfl rfl
  obtain ⟨-, -, hmode, -⟩ := modeRow_of_mem hrow
  obtain ⟨hodd, hlen, hsum⟩ := tableRow_of_mem hrow
  have ht : (mode (2 ^ dsd) (pcmRateOf pcm)).t = tt := by rw [hmode]
  have hu : (mode (2 ^ dsd) (pcmRateOf pcm)).u = u := by rw [hmode]
  obtain ⟨hpos, hhalf⟩ := cutOff_bounds (2 ^ dsd) (pcmRateOf pcm)
  obtain ⟨hfinite, hgain⟩ := coef_finite_gain (ht ▸ hodd) (hu ▸ hsum)
  rw [ht, hu] at hgain
  refine ⟨(length_coef _ _).trans ht, hfinite, fun i hi => ?_, hpos, hhalf, fun i hi hne hz => ?_,
    gain_of_gainWithin hlen hgain⟩
  · exact ht ▸ coef_symm _ _ (ht ▸ hodd) (ht ▸ hi)
  · refine coef_nodal (2 ^ dsd) (pcmRateOf pcm) (ht ▸ hi) ?_
    rw [ht, centreDistance_eq_natAbs]
    exact nodal_of_integer _ _ hne hz

end Sys2Proof.Machine
end

section
/-! PROOFS (O50, O18, O16). The commands that read the extractor, and the selection of a track, each run once behind its
checks (46_fx_files.md R452, R458 to R461, R467, R480; 47_fx_sector.md R506). -/

-- One thread: the check limits the memory of a compile, and each thread reserves its own.
set_option Elab.async false

open Sys2Proof.Claims

namespace Sys2Proof.Machine

/-! ## The commands that read the extractor -/

/-- A share in hundredths, as a saturated quotient where the whole is known (46_fx_files.md R461). -/
theorem percent_eq (part whole : Nat) : percent part whole = if 0 < whole then min 100 (100 * part / whole) else 0 := by
  unfold percent
  split
  · next h => rw [if_neg (by omega)]
  · next h => rw [if_pos (by omega)]

theorem Fx.progress_eq (fx : Fx) : fx.progress =
    if fx.kind = .sector then
      (if fx.trackSelected = true ∧ 0 < fx.sec.trackLenLsn then
        min 100 (100 * (fx.sec.curLsn - fx.sec.trackStartLsn) / fx.sec.trackLenLsn) else 0)
    else if 0 < fx.frameTotal then min 100 (100 * fx.frameIndex / fx.frameTotal) else 0 := by
  simp only [Fx.progress, percent_eq, ite_and]

/-- Settles O50: each command is the gate of R458 to R461 and its value. -/
theorem extractorReads : Obligations.ExtractorReads := by
  unfold Obligations.ExtractorReads
  refine ⟨fun s h => ?_, fun s h => ?_⟩
  · have hopen : ∀ v, s.withContainer (s.ok v) = .next (s.okWith v) := fun v => s.withContainer_some _ h
    rw [← Fx.progress_eq]
    exact ⟨hopen _, hopen _, hopen _, hopen _⟩
  · have hnone : ∀ v, s.withContainer (s.ok v) = .next (s.refusedWith 3 0) := fun v => s.withContainer_none _ h
    exact ⟨hnone _, hnone _, hnone _, hnone _⟩

/-! ## The operands of a selection -/

theorem areaOperand_reserved {area : Nat} (h : 3 ≤ area) : areaOperand area = none := by
  obtain ⟨n, rfl⟩ := Nat.exists_eq_add_of_le' h
  rfl

theorem areaOperand_isSome {area : Nat} (h : area ≤ 2) : ∃ a, areaOperand area = some a := by
  interval_cases area <;> exact ⟨_, rfl⟩

/-- An area operand's code is what was decoded (30_encoding.md R142). -/
theorem areaOperand_code {area : Nat} {a : AreaOperand} (h : areaOperand area = some a) : a.code = area := by
  unfold areaOperand at h
  split at h <;> cases h <;> rfl

/-! ## The track list (47_fx_sector.md R506) -/

/-- The sector of the track list of an area on a disc. -/
def State.trackListRead (s : State) (track : Nat) (a : AreaOperand) : List Byte × State :=
  s.sectorRead (s.fx.sec.place track a).1.trlLsn

theorem State.readTrackList_file {s : State} (h : s.fx.kind ≠ .sector) (track : Nat) (a : AreaOperand) :
    s.readTrackList track a = (.ok [], s) := if_neg h

theorem State.readTrackList_short {s : State} {track : Nat} {a : AreaOperand} (h : s.fx.kind = .sector)
    (hshort : (s.trackListRead track a).1.length < 2048) :
    s.readTrackList track a = (.error (s.fx.sec.place track a).1.trlLsn, (s.trackListRead track a).2) :=
  (if_pos h).trans (if_pos hshort)

theorem State.readTrackList_full {s : State} {track : Nat} {a : AreaOperand} (h : s.fx.kind = .sector)
    (hfull : (s.trackListRead track a).1.length = 2048) :
    s.readTrackList track a = (.ok (s.trackListRead track a).1, (s.trackListRead track a).2) :=
  (if_pos h).trans (if_neg (Nat.not_lt.mpr hfull.ge))

/-- A read of the track list uses up answers of the medium and nothing else. -/
theorem State.trackListRead_answers (s : State) (track : Nat) (a : AreaOperand) :
    ∃ rest, (s.trackListRead track a).2 = { s with answers := rest } := by
  obtain ⟨-, m, hm⟩ :=
    s.mediumRead_spec (sectorOffset s.fx.sec.psn (s.fx.sec.place track a).1.trlLsn) Config.sectorBytes
  exact ⟨_, hm⟩

/-! ## SET_TRACK (46_fx_files.md R452) -/

section setTrack
variable {s : State} {track area : Nat}

theorem execSetTrack_state (h : s.sess ≠ .opened) (h' : s.sess ≠ .track) :
    exec (.setTrack track area) s = .next (s.refusedWith 3 s.sess.code) := by
  show execSetTrack track area s = _
  rw [execSetTrack, State.unlessOwned_free s _ h', if_pos h]
  exact s.fail_eq .eState _

/-- Behind the check of the session, the two operands. -/
theorem execSetTrack_area (h : s.sess = .opened) (harea : areaOperand area = none) :
    exec (.setTrack track area) s = .next (s.refusedWith 2 area) := by
  show execSetTrack track area s = _
  rw [execSetTrack, State.unlessOwned_free s _ (by simp [h]), if_neg (by simp [h]), harea]
  exact s.fail_eq .eOperand _

variable {a : AreaOperand}

theorem execSetTrack_beyond (h : s.sess = .opened) (harea : areaOperand area = some a) (ht : s.fx.tracksIn a ≤ track) :
    exec (.setTrack track area) s = .next (s.refusedWith 2 track) := by
  show execSetTrack track area s = _
  rw [execSetTrack, State.unlessOwned_free s _ (by simp [h]), if_neg (by simp [h]), harea]
  exact (if_pos ht).trans (s.fail_eq .eOperand _)

section legal
variable (h : s.sess = .opened) (harea : areaOperand area = some a) (ht : track < s.fx.tracksIn a)
include h harea ht

theorem execSetTrack_error {lsn : Nat} {u : State} (hread : s.readTrackList track a = (.error lsn, u)) :
    exec (.setTrack track area) s = .next (u.refusedWith 0x12 lsn) := by
  show execSetTrack track area s = _
  rw [execSetTrack, State.unlessOwned_free s _ (by simp [h]), if_neg (by simp [h]), harea]
  simp only [if_neg (Nat.not_le.mpr ht), hread]
  exact u.fail_eq .badRead _

theorem execSetTrack_list {list : List Byte} {u : State} (hread : s.readTrackList track a = (.ok list, u)) :
    exec (.setTrack track area) s =
      .next ((u.setTrackBody track a list).okWith (val (u.setTrackBody track a list).fx.ch)) := by
  show execSetTrack track area s = _
  rw [execSetTrack, State.unlessOwned_free s _ (by simp [h]), if_neg (by simp [h]), harea]
  simp only [if_neg (Nat.not_le.mpr ht), hread]
  rfl

end legal
end setTrack

/-! ## INIT_TRACK (48_session.md R545, R546) -/

section initTrack
variable {s : State} {track area pcm : Nat} (h : s.sess ≠ .closed)
include h

theorem execInitTrack_area (harea : areaOperand area = none) :
    exec (.initTrack track area pcm) s = .next (s.refusedWith 2 area) := by
  show execInitTrack track area pcm s = _
  rw [execInitTrack, if_neg h, harea]
  exact s.fail_eq .eOperand _

variable {a : AreaOperand} (harea : areaOperand area = some a)
include harea

theorem execInitTrack_pcm (hpcm : 4 ≤ pcm) : exec (.initTrack track area pcm) s = .next (s.refusedWith 2 pcm) := by
  show execInitTrack track area pcm s = _
  rw [execInitTrack, if_neg h, harea, pcmOperand_eq, if_neg (by omega)]
  exact s.fail_eq .eOperand _

/-- Behind the checks of the operands: the track, the rate and the track list. -/
theorem execInitTrack_operands (hpcm : pcm ≤ 3) : exec (.initTrack track area pcm) s =
    if s.fx.tracksIn a ≤ track then .next (s.refusedWith 2 track)
    else if s.fx.unsupported = true then .next (s.refusedWith 2 8)
    else
      match s.readTrackList track a with
      | (.error lsn, u) => .next (u.refusedWith 0x12 lsn)
      | (.ok list, u) =>
        .next ((u.initTrackBody track a (pcmRateOf pcm) list).okWith
          (val (u.initTrackBody track a (pcmRateOf pcm) list).ch)) := by
  have hbad : ∀ (u : State) (lsn : Nat), u.fail .badRead (val lsn) = .next (u.refusedWith 0x12 lsn) :=
    fun u lsn => u.fail_eq .badRead lsn
  have hoperand : ∀ n : Nat, s.fail .eOperand (val n) = .next (s.refusedWith 2 n) := fun n => s.fail_eq .eOperand n
  show execInitTrack track area pcm s = _
  rw [execInitTrack, if_neg h, harea, pcmOperand_eq, if_pos hpcm]
  simp only [hbad, ← hoperand]
  rfl

end initTrack

/-- DST at 22579200 Hz (48_session.md R546). -/
theorem Fx.unsupported_iff (fx : Fx) :
    fx.unsupported = true ↔ fx.kind = .dsdiff ∧ fx.dst = true ∧ fx.rate = 22579200 := by
  simp [Fx.unsupported, and_assoc]

/-- Settles O18: the checks of the two commands in their order, and the track list that comes short. -/
theorem trackSelectionRefused : Obligations.TrackSelectionRefused := by
  unfold Obligations.TrackSelectionRefused
  refine ⟨fun s track area h h' => execSetTrack_state h h',
    fun s track area h harea => execSetTrack_area h (areaOperand_reserved harea),
    fun s track area a h harea ht => execSetTrack_beyond h harea ht,
    fun s track area pcm h => ⟨fun harea => execInitTrack_area h (areaOperand_reserved harea), fun harea hpcm => ?_⟩,
    fun s track area pcm a h harea hpcm => ?_⟩
  · obtain ⟨a, ha⟩ := areaOperand_isSome harea
    exact execInitTrack_pcm h ha hpcm
  · rw [execInitTrack_operands h harea hpcm]
    refine ⟨fun ht => if_pos ht, fun ht hkind hdst hrate => ?_, fun ht hkind hshort => ?_⟩
    · rw [if_neg (Nat.not_le.mpr ht), if_pos ((s.fx.unsupported_iff).mpr ⟨hkind, hdst, hrate⟩)]
    · have hsupported : ¬ s.fx.unsupported = true := by simp [Fx.unsupported_iff, hkind]
      have hread := State.readTrackList_short hkind hshort
      obtain ⟨rest, hrest⟩ := s.trackListRead_answers track a
      rw [hrest] at hread
      refine ⟨rest, ?_, fun hsess => execSetTrack_error hsess harea ht hread⟩
      rw [if_neg (Nat.not_le.mpr ht), if_neg hsupported, hread]

/-! ## What a selection leaves (46_fx_files.md R467, R480; 47_fx_sector.md R506) -/

/-- A number that fits its register is kept (00_scope.md R11). -/
theorem fitWidth_eq {w v : Nat} (h : v < 2 ^ w) : fitWidth w v = v := if_pos h

/-- What the kinds leave of the extractor is what the rules of `selectsTrack` say. -/
theorem selectsTrack_select {s u : State} {track area : Nat} {a : AreaOperand} {list : List Byte}
    (harea : areaOperand area = some a) (ht : track < s.fx.tracksIn a)
    (hfile : s.fx.kind ≠ .sector → u = s) (hdisc : s.fx.kind = .sector → (list, u) = s.trackListRead track a)
    (hfx : u.fx = s.fx) : selectsTrack s u (u.setTrackBody track a list).fx track area a := by
  refine ⟨s.fx.select track a list, ?_, ?_⟩
  · rw [← areaOperand_code harea, ← hfx]
    rfl
  · unfold Fx.select
    cases hkind : s.fx.kind with
    | none => simp [Fx.tracksIn, hkind] at ht
    | sector => exact ⟨list, _, _, _, _, rfl, hdisc hkind, rfl, rfl, rfl⟩
    | dsdiff =>
      refine ⟨hfile (by simp [hkind]), fun hdst => ⟨?_, ?_⟩, fun hdst => ?_⟩
      · simp only [Fx.selectDff, hdst, Fx.frameBytes_eq]
        rfl
      · rintro len size rfl rfl hfit
        simp only [Fx.selectDff, hdst, Fx.frameBytes_eq, ceilDiv]
        exact fitWidth_eq hfit
      · simp only [Fx.selectDff, hdst]
        rfl
    | dsf =>
      refine ⟨hfile (by simp [hkind]), rfl, ?_⟩
      rintro p fb rfl rfl hfit
      rw [← Fx.frameBytes_eq] at hfit ⊢
      exact fitWidth_eq hfit

/-- Settles O16: the track list is read where there is one, and the selection is the rule of the kind. -/
theorem setTrackSelects : Obligations.SetTrackSelects := by
  unfold Obligations.SetTrackSelects
  intro s track area a hsess harea ht hfull
  by_cases hkind : s.fx.kind = .sector
  · obtain ⟨rest, hrest⟩ := s.trackListRead_answers track a
    refine ⟨(s.trackListRead track a).2, _, selectsTrack_select harea ht (fun h => absurd hkind h) (fun _ => rfl)
      (by rw [hrest]), (execSetTrack_list hsess harea ht (State.readTrackList_full hkind (hfull hkind))).trans ?_⟩
    rw [hrest]
    rfl
  · exact ⟨s, _, selectsTrack_select harea ht (fun _ => rfl) (fun h => absurd h hkind) rfl,
      execSetTrack_list hsess harea ht (State.readTrackList_file hkind track a)⟩

end Sys2Proof.Machine
end

section
/-! PROOFS (O51 to O53). `READ_FRAME` in terms of the `read_frame` of the container's kind (46_fx_files.md R450, R451,
R455; 30_encoding.md R148). -/

-- One thread: the check limits the memory of a compile, and each thread reserves its own.
set_option Elab.async false

open Sys2Proof.Claims

namespace Sys2Proof.Machine

/-- A full frame is `fx_ch · FB` bytes (46_fx_files.md R453). -/
theorem fullFrame_eq (s : State) : fullFrame s = s.fx.ch * s.fx.frameBytes := by rw [Fx.frameBytes_eq]; rfl

theorem sess_ne_track_of_trackReady {s : State} (h : trackReady s) : s.sess ≠ .track := by simp [h.1]

/-! ## The response values (30_encoding.md R148) -/

theorem frameValue_dsd (bytes : List Byte) :
    frameValue { type := .dsd, bytes := bytes } = val (bytes.length + 2 ^ 27) := by
  simp [frameValue, FrameType.code]

theorem frameValue_dst (bytes : List Byte) :
    frameValue { type := .dst, bytes := bytes } = val (bytes.length + 2 ^ 24 + 2 ^ 27) := by
  simp [frameValue, FrameType.code]

theorem frameValue_invalid (bytes : List Byte) :
    frameValue { type := .invalid, bytes := bytes } = val (bytes.length + 2 * 2 ^ 24 + 2 ^ 27) := rfl

/-! ## The command -/

theorem execReadFrame_refused {s : State} (h : s.sess ≠ .track) (h' : ¬ trackReady s) :
    exec .readFrame s = .next (s.refusedWith 3 0) :=
  (State.unlessOwned_free s _ h).trans (s.withTrack_none _ h')

/-- What the command leaves of what the kind's reader gives: the end of the track is kept, a frame is delivered and
counted (46_fx_files.md R451, R455). -/
def deliveredOf : Option Frame × State → State
  | (none, t) => ({ t with fx := { t.fx with eot := true } } : State).okWith 0
  | (some f, t) => ({ t with
      fx := { t.fx with frameIndex := fitWidth 32 (t.fx.frameIndex + 1) }, dout := t.dout ++ f.bytes } : State).okWith
      (frameValue f)

section ready
variable {s : State} (h : trackReady s)
include h

/-- Behind the checks `READ_FRAME` is its body. -/
theorem execReadFrame_ready : exec .readFrame s =
    match s.readFrameBody with
    | (none, t) => .next (t.okWith 0)
    | (some f, t) => .next (({ t with dout := t.dout ++ f.bytes } : State).okWith (frameValue f)) :=
  (State.unlessOwned_free s _ (sess_ne_track_of_trackReady h)).trans ((s.withTrack_some _ h.1 h.2).trans rfl)

theorem execReadFrame_afterEnd (heot : s.fx.eot = true) : exec .readFrame s = .next (s.okWith 0) := by
  rw [execReadFrame_ready h, s.readFrameBody_ended heot]

/-- Before the end of the track `READ_FRAME` delivers what the kind's reader gives. -/
theorem execReadFrame_reads (heot : s.fx.eot = false) : exec .readFrame s = .next (deliveredOf s.readKind) := by
  rw [execReadFrame_ready h, State.readFrameBody, if_neg (by simp [heot])]
  obtain ⟨_ | f, t⟩ := s.readKind <;> rfl

end ready

end Sys2Proof.Machine
end

section
/-! PROOFS (O52). The frames of a DSF track on a medium that answers with its own bytes (46_fx_files.md R466, R470). A
group fetched, or held already, is the medium's; the bytes taken from it are rows of one byte per channel, and the rows
of one group after the other are the rows of the frame. -/

-- One thread: the check limits the memory of a compile, and each thread reserves its own.
set_option Elab.async false

open Sys2Proof.Claims

namespace Sys2Proof.Machine

/-! ## The bytes of the file -/

/-- Byte `q` of channel `c` in the file, in the bit order of a frame (46_fx_files.md R466, R470). -/
def State.dsfByte (s : State) (q c : Nat) : Byte :=
  let v := Memory.read s.medium (s.fx.dataStart + q / s.fx.dsf.blockSize * (s.fx.ch * s.fx.dsf.blockSize) +
    c * s.fx.dsf.blockSize + q % s.fx.dsf.blockSize)
  if s.fx.dsf.lsb = true then v.reverse else v

/-- Byte `q` of every channel. -/
def State.dsfRow (s : State) (q : Nat) : List Byte := (List.range s.fx.ch).map (s.dsfByte q)

/-- `n` rows of the file from byte `q` of every channel on. -/
def State.dsfRows (s : State) (q n : Nat) : List Byte := (List.range n).flatMap fun j => s.dsfRow (q + j)

theorem length_dsfRow (s : State) (q : Nat) : (s.dsfRow q).length = s.fx.ch := by simp [State.dsfRow]

theorem length_dsfRows (s : State) (q n : Nat) : (s.dsfRows q n).length = s.fx.ch * n := by
  simp [State.dsfRows, List.length_flatMap, length_dsfRow, Nat.mul_comm]

theorem getElem?_dsfRows (s : State) (q : Nat) {n j c : Nat} (hj : j < n) (hc : c < s.fx.ch) :
    (s.dsfRows q n)[j * s.fx.ch + c]? = some (s.dsfByte (q + j) c) := by
  rw [State.dsfRows, getElem?_flatMap_uniform _ _ hc _ _ fun _ _ => length_dsfRow s _]
  simp only [List.getElem?_range hj, Option.bind_some, State.dsfRow, List.getElem?_map, List.getElem?_range hc,
    Option.map_some]

/-- Rows of two stretches, one after the other. -/
theorem dsfRows_split (s : State) (q : Nat) {m n : Nat} (h : m ≤ n) :
    s.dsfRows q n = s.dsfRows q m ++ s.dsfRows (q + m) (n - m) := by
  have hsum := List.range_add (n := m) (m := n - m)
  rw [Nat.add_sub_cancel' h] at hsum
  simp only [State.dsfRows, hsum, List.flatMap_append, List.flatMap_map, Nat.add_assoc]

/-- Byte interleave is one row of bytes after the other (20_memory.md R103). -/
theorem interleave_eq_flatMap : ∀ (n : Nat) (runs : List (List Byte)),
    interleave n runs = (List.range n).flatMap fun j => runs.map fun r => r.getD j (Config.unspecByte 0)
  | 0, _ => rfl
  | n + 1, runs => by
    have hhead : ∀ r : List Byte, r.headD (Config.unspecByte 0) = r.getD 0 (Config.unspecByte 0) := by
      rintro (_ | _) <;> rfl
    have htail : ∀ (r : List Byte) j, r.tail.getD j (Config.unspecByte 0) = r.getD (j + 1) (Config.unspecByte 0) := by
      rintro (_ | _) j <;> simp
    rw [interleave, interleave_eq_flatMap n, List.range_succ_eq_map, List.flatMap_cons, List.flatMap_map]
    simp only [List.map_map, Function.comp_def, hhead, htail]

/-- What the bytes of a group are taken from: a medium without a script, and blocks that lie on it in whole groups
(46_fx_files.md R465). -/
structure State.DsfOnMedium (s : State) : Prop where
  answers : s.answers = []
  wf : Memory.wf s.medium = true
  channels : 0 < s.fx.ch
  block : 0 < s.fx.dsf.blockSize
  groups : (s.fx.dataEnd - s.fx.dataStart) % (s.fx.ch * s.fx.dsf.blockSize) = 0
  inside : s.fx.dataEnd ≤ s.mediumSize.toNat

/-- `t` is `s` but for the cursor, the position and the block group held. -/
def State.DsfOnly (s t : State) : Prop :=
  t = { s with fx := { s.fx with
    cursor := t.fx.cursor
    dsf := { s.fx.dsf with
      blockbuf := t.fx.dsf.blockbuf, pos := t.fx.dsf.pos, blkGroup := t.fx.dsf.blkGroup
      blkValid := t.fx.dsf.blkValid, blkBad := t.fx.dsf.blkBad } } }

theorem State.DsfOnly.refl (s : State) : s.DsfOnly s := rfl

theorem State.DsfOnly.trans {s t u : State} (h : s.DsfOnly t) (h' : t.DsfOnly u) : s.DsfOnly u := by
  unfold State.DsfOnly at h h' ⊢
  rw [h', h]

theorem State.DsfOnly.onMedium {s t : State} (h : s.DsfOnly t) (hs : s.DsfOnMedium) : t.DsfOnMedium := by
  rw [h]
  exact ⟨hs.answers, hs.wf, hs.channels, hs.block, hs.groups, hs.inside⟩

theorem State.DsfOnly.rows {s t : State} (h : s.DsfOnly t) : t.dsfRows = s.dsfRows := by rw [h]; rfl

theorem State.DsfOnly.blockSize {s t : State} (h : s.DsfOnly t) : t.fx.dsf.blockSize = s.fx.dsf.blockSize := by rw [h]

theorem State.DsfOnly.total {s t : State} (h : s.DsfOnly t) : t.fx.dsfTotal = s.fx.dsfTotal := by rw [h]; rfl

/-! ## One block group -/

/-- The group of a position of the file lies on the medium whole. -/
theorem State.DsfOnMedium.group_inside {s : State} (h : s.DsfOnMedium) {q : Nat} (hq : q < s.fx.dsfTotal) :
    s.fx.groupOffset (q / s.fx.dsf.blockSize) + s.fx.ch * s.fx.dsf.blockSize ≤ s.mediumSize.toNat := by
  obtain ⟨k, hk⟩ := Nat.dvd_of_mod_eq_zero h.groups
  have htotal : s.fx.dsfTotal = s.fx.dsf.blockSize * k := by
    rw [Fx.dsfTotal, hk, Nat.mul_assoc, Nat.mul_div_cancel_left _ h.channels]
  have hgroup : q / s.fx.dsf.blockSize + 1 ≤ k := Nat.div_lt_of_lt_mul (htotal ▸ hq)
  have hle := Nat.mul_le_mul_left (s.fx.ch * s.fx.dsf.blockSize) hgroup
  have hpos : 0 < s.fx.ch * s.fx.dsf.blockSize := Nat.mul_pos h.channels h.block
  have hinside := h.inside
  have hoffset : s.fx.groupOffset (q / s.fx.dsf.blockSize) =
      s.fx.dataStart + s.fx.ch * s.fx.dsf.blockSize * (q / s.fx.dsf.blockSize) := by
    rw [Fx.groupOffset]
    ring
  rw [hoffset]
  rw [Nat.mul_add, Nat.mul_one, ← hk] at hle
  omega

/-- A group on the medium comes in full, byte for byte. -/
theorem State.DsfOnMedium.read_group {s : State} (h : s.DsfOnMedium) {off n : Nat}
    (hin : off + n ≤ s.mediumSize.toNat) :
    s.mediumRead off n = ((List.range n).map fun i => Memory.read s.medium (off + i), s) := by
  rw [s.mediumRead_faithful off n h.answers, State.mediumBytes, Nat.min_eq_left (by omega), Memory.run_eq _ _ _ h.wf]

/-- After the fetch the group is held and is the medium's, whether it was there or had to be read. -/
theorem State.dsfFetch_held {s : State} (h : s.DsfOnMedium) (hheld : groupHeld s) {g : Nat}
    (hin : s.fx.groupOffset g + s.fx.ch * s.fx.dsf.blockSize ≤ s.mediumSize.toNat) :
    s.DsfOnly (s.dsfFetch g) ∧ groupHeld (s.dsfFetch g) ∧ (s.dsfFetch g).fx.dsf.blkValid = true ∧
      (s.dsfFetch g).fx.dsf.blkGroup = g ∧ (s.dsfFetch g).fx.dsf.pos = s.fx.dsf.pos := by
  unfold State.dsfFetch
  split
  · next hthere => exact ⟨.refl s, hheld, hthere.1, hthere.2, rfl⟩
  · simp only [h.read_group hin, List.length_map, List.length_range, Nat.lt_irrefl, if_false, decide_false]
    refine ⟨rfl, fun _ => ⟨rfl, fun i hi => ?_⟩, rfl, rfl, rfl⟩
    change i < s.fx.ch * s.fx.dsf.blockSize at hi
    change (overwrite _ _)[i]? = some (Memory.read s.medium (s.fx.dataStart + g * (s.fx.ch * s.fx.dsf.blockSize) + i))
    rw [overwrite, List.getElem?_append_left (by simp; omega), List.getElem?_append_left (by simpa using hi)]
    simp [hi, Fx.groupOffset, Nat.mul_assoc]

/-- The bytes taken from a group that is held are rows of the file (46_fx_files.md R470). -/
theorem dsfRun_held {s : State} (hheld : groupHeld s) (hvalid : s.fx.dsf.blkValid = true) {o n : Nat}
    (hn : o + n ≤ s.fx.dsf.blockSize) :
    s.fx.dsfRun o n = s.dsfRows (s.fx.dsf.blkGroup * s.fx.dsf.blockSize + o) n := by
  obtain ⟨-, hbytes⟩ := hheld hvalid
  rw [Fx.dsfRun, interleave_eq_flatMap, List.map_flatMap]
  refine List.flatMap_congr fun j hj => ?_
  rw [State.dsfRow, List.map_map, List.map_map]
  refine List.map_congr_left fun c hc => ?_
  rw [List.mem_range] at hj hc
  have hblock : c * s.fx.dsf.blockSize + s.fx.dsf.blockSize ≤ s.fx.ch * s.fx.dsf.blockSize := by
    rw [← Nat.succ_mul]
    exact Nat.mul_le_mul_right _ hc
  have hbyte := hbytes (c * s.fx.dsf.blockSize + (o + j)) (by omega)
  have hlt : o + j < s.fx.dsf.blockSize := by omega
  have hgroup : (s.fx.dsf.blkGroup * s.fx.dsf.blockSize + (o + j)) / s.fx.dsf.blockSize = s.fx.dsf.blkGroup := by
    rw [Nat.mul_comm, Nat.mul_add_div (Nat.zero_lt_of_lt hlt), Nat.div_eq_of_lt hlt, Nat.add_zero]
  have hplace : (s.fx.dsf.blkGroup * s.fx.dsf.blockSize + (o + j)) % s.fx.dsf.blockSize = o + j := by
    rw [Nat.mul_comm, Nat.mul_add_mod, Nat.mod_eq_of_lt hlt]
  simp only [Function.comp_apply, State.dsfByte, List.getD_eq_getElem?_getD, getElem?_bufBytes _ _ _ _ hj, bufByte,
    Nat.add_assoc, hbyte, Option.getD_some, swapByte, hgroup, hplace]

/-! ## The frame -/

/-- The position moved past `m` bytes of every channel. -/
def State.dsfAdvance (s : State) (m : Nat) : State :=
  s.setFx { s.fx with dsf := { s.fx.dsf with pos := s.fx.dsf.pos + m } }

/-- A turn of the byte loop: what is wanted of the group of the position, then the rest behind it. -/
theorem State.dsfRead_turn (s : State) (fuel : Nat) {n m : Nat} (bad : Option Nat) (hn : n ≠ 0)
    (hm : m = min n (s.fx.dsf.blockSize - s.fx.dsf.pos % s.fx.dsf.blockSize)) {u : State}
    (hu : u = s.dsfFetch (s.fx.dsf.pos / s.fx.dsf.blockSize)) {bad' : Option Nat}
    (hbad : bad' = if u.fx.dsf.blkBad then some (s.fx.groupOffset (s.fx.dsf.pos / s.fx.dsf.blockSize)) else bad) :
    State.dsfRead (fuel + 1) n bad s =
      (u.fx.dsfRun (s.fx.dsf.pos % s.fx.dsf.blockSize) m ++ (State.dsfRead fuel (n - m) bad' (u.dsfAdvance m)).1,
        (State.dsfRead fuel (n - m) bad' (u.dsfAdvance m)).2) := by
  subst hbad hu hm
  exact if_neg hn

/-- The byte loop delivers the rows of the file from the position on, by induction on the groups it passes. -/
theorem State.dsfRead_rows : ∀ (fuel n : Nat) (s : State), n ≤ fuel → s.DsfOnMedium → groupHeld s →
    s.fx.dsf.pos + n ≤ s.fx.dsfTotal → ∃ t, State.dsfRead fuel n none s = (s.dsfRows s.fx.dsf.pos n, none, t) ∧
    s.DsfOnly t ∧ t.fx.dsf.pos = s.fx.dsf.pos + n ∧ groupHeld t
  | 0, n, s, hfuel, _, hheld, _ => by
    obtain rfl : n = 0 := Nat.le_zero.mp hfuel
    exact ⟨s, rfl, .refl s, rfl, hheld⟩
  | fuel + 1, n, s, hfuel, h, hheld, hend => by
    rcases Nat.eq_zero_or_pos n with rfl | hn
    · exact ⟨s, if_pos rfl, .refl s, rfl, hheld⟩
    have hmod := Nat.mod_lt s.fx.dsf.pos h.block
    obtain ⟨m, hm⟩ : ∃ m, m = min n (s.fx.dsf.blockSize - s.fx.dsf.pos % s.fx.dsf.blockSize) := ⟨_, rfl⟩
    obtain ⟨u, hu⟩ : ∃ u, u = s.dsfFetch (s.fx.dsf.pos / s.fx.dsf.blockSize) := ⟨_, rfl⟩
    obtain ⟨honly, hheld', hvalid, hgroup, hpos⟩ :=
      hu ▸ State.dsfFetch_held h hheld (h.group_inside (q := s.fx.dsf.pos) (by omega))
    have hmoved : s.DsfOnly (u.dsfAdvance m) := honly.trans rfl
    have hmovedPos : (u.dsfAdvance m).fx.dsf.pos = s.fx.dsf.pos + m := congrArg (· + m) hpos
    obtain ⟨t, hrest, ht, htpos, htheld⟩ := State.dsfRead_rows fuel (n - m) (u.dsfAdvance m) (by omega)
      (hmoved.onMedium h) hheld' (by rw [hmovedPos, hmoved.total]; omega)
    have hrun : u.fx.dsfRun (s.fx.dsf.pos % s.fx.dsf.blockSize) m = s.dsfRows s.fx.dsf.pos m := by
      rw [dsfRun_held hheld' hvalid (by rw [honly.blockSize]; omega), honly.rows, hgroup, honly.blockSize,
        Nat.div_add_mod']
    have hgood : none = if u.fx.dsf.blkBad
        then some (s.fx.groupOffset (s.fx.dsf.pos / s.fx.dsf.blockSize)) else none := by
      rw [(hheld' hvalid).1, if_neg Bool.false_ne_true]
    refine ⟨t, ?_, hmoved.trans ht, by rw [htpos, hmovedPos]; omega, htheld⟩
    rw [State.dsfRead_turn s fuel none (by omega) hm hu hgood, hrest, hrun, hmoved.rows, hmovedPos,
      ← dsfRows_split s _ (by omega)]

/-- `read_frame` before the end of the track: a frame of rows (46_fx_files.md R470). -/
theorem State.readKind_dsf {s : State} {n : Nat} (hkind : s.fx.kind = .dsf) (h : s.DsfOnMedium) (hheld : groupHeld s)
    (hpos : s.fx.dsf.pos < s.fx.dsfTotal) (hn : n = min s.fx.frameBytes (s.fx.dsfTotal - s.fx.dsf.pos)) :
    ∃ t, s.readKind = (some { type := .dsd, bytes := s.dsfRows s.fx.dsf.pos n }, t) ∧
      s.DsfOnly t ∧ t.fx.dsf.pos = s.fx.dsf.pos + n ∧ groupHeld t := by
  obtain ⟨t, hrows, ht⟩ := State.dsfRead_rows n n s (Nat.le_refl n) h hheld (by omega)
  refine ⟨t, ?_, ht⟩
  rw [State.readKind, hkind]
  simp only [State.readDsf, if_neg (Nat.not_le.mpr hpos), ← hn, hrows]

/-- Settles O52: the frame is the rows of the file from the position on. -/
theorem dsfFramesInterleaveTheBlocks : Obligations.DsfFramesInterleaveTheBlocks := by
  unfold Obligations.DsfFramesInterleaveTheBlocks
  rintro s p n bs ch hready heot hkind hanswers hwf rfl rfl hch hbs hgroups hinside hheld rfl hp hindex hn
  have hn' : n = min s.fx.frameBytes (s.fx.dsfTotal - s.fx.dsf.pos) := by rw [Fx.frameBytes_eq]; exact hn
  obtain ⟨t, hread, honly, hpos, hheld'⟩ :=
    State.readKind_dsf hkind ⟨hanswers, hwf, hch, hbs, hgroups, hinside⟩ hheld hp hn'
  have hexec := execReadFrame_reads hready heot
  rw [hread, deliveredOf, frameValue_dsd, length_dsfRows] at hexec
  refine ⟨_, s.dsfRows s.fx.dsf.pos n, hexec, ?_, hpos, ?_, ?_, hheld', length_dsfRows s _ n, ?_⟩
  · rw [honly]
    rfl
  · rw [honly]
    exact fitWidth_eq hindex
  · rw [honly]
    exact heot
  · rintro j c _ hj hc rfl
    exact getElem?_dsfRows s _ hj hc

end Sys2Proof.Machine
end

section
/-! PROOFS (O53). The frames of a DSDIFF track, plain, by the index and by the chunks (46_fx_files.md R454, R485 to
R489): each reader said once along its checks, and what the command leaves of each way it can end. -/

-- One thread: the check limits the memory of a compile, and each thread reserves its own.
set_option Elab.async false

open Sys2Proof.Claims

namespace Sys2Proof.Machine

/-! ## What a read of the medium gives -/

/-- A read uses up answers of the medium and nothing else. -/
theorem State.mediumRead_answers (s : State) (off n : Nat) :
    ∃ rest, (s.mediumRead off n).2 = { s with answers := rest } := by
  obtain ⟨-, m, hm⟩ := s.mediumRead_spec off n
  exact ⟨_, hm⟩

theorem fx_of_mediumRead {s u : State} {bs : List Byte} {off n : Nat} (h : (bs, u) = s.mediumRead off n) :
    u.fx = s.fx := by
  rw [show u = _ from congrArg Prod.snd h, State.mediumRead_fx]

/-- A read gives no more than it is asked for: one that is not short is exact. -/
theorem State.mediumRead_full {s : State} {off n : Nat} (h : ¬ (s.mediumRead off n).1.length < n) :
    (s.mediumRead off n).1.length = n := Nat.le_antisymm (s.mediumRead_spec off n).1 (Nat.le_of_not_lt h)

/-- A field up to the end of a byte string. -/
theorem beField_rest {bs : List Byte} {i n : Nat} (h : bs.length = i + n) : beField bs i n = beNat (bs.drop i) := by
  rw [beField, slice, List.take_of_length_le (by rw [List.length_drop]; omega)]

/-! ## What the command leaves of a frame that is no good, or of a DST frame -/

theorem State.countBadRead_eq (s : State) : s.countBadRead = { s with fx := oneMoreBad s.fx } := by
  rw [State.countBadRead, satInc_eq]
  rfl

section delivered
variable {u : State} (hfit : u.fx.frameIndex + 1 < 2 ^ 32)
include hfit

theorem deliveredOf_invalidFrame (e : Exc) (info : Nat) :
    deliveredOf (u.invalidFrame e info) = invalidDelivered u u.fx (fullFrame u) e.code info := by
  rw [invalidDelivered, errorCounted, ← satInc_eq, fullFrame_eq, ← fitWidth_eq hfit]
  have hvalue := frameValue_invalid (zeroBytes (u.fx.ch * u.fx.frameBytes))
  rw [zeroBytes, List.length_replicate] at hvalue
  rw [← hvalue]
  rfl

theorem deliveredOf_badFrame (info : Nat) :
    deliveredOf (u.badFrame info) = invalidDelivered u (oneMoreBad u.fx) (fullFrame u) 0x12 info := by
  rw [State.badFrame, State.countBadRead_eq]
  exact deliveredOf_invalidFrame (u := { u with fx := oneMoreBad u.fx }) hfit .badRead info

/-- The bad frame that ends the track as well (46_fx_files.md R487). -/
theorem deliveredOf_lastFrame (info : Nat) :
    deliveredOf ((u.badFrame info).1, (u.badFrame info).2.setFx { (u.badFrame info).2.fx with eot := true }) =
      invalidDelivered u { oneMoreBad u.fx with eot := true } (fullFrame u) 0x12 info := by
  rw [State.badFrame, State.countBadRead_eq]
  exact deliveredOf_invalidFrame (u := { u with fx := { oneMoreBad u.fx with eot := true } }) hfit .badRead info

theorem deliveredOf_readDstBytes (off n next : Nat) :
    deliveredOf (u.readDstBytes off n next) = dstDelivered u off n next := by
  obtain ⟨rest, hrest⟩ := u.mediumRead_answers off n
  unfold State.readDstBytes dstDelivered
  dsimp only
  split
  · rw [hrest]
    exact deliveredOf_badFrame (u := ({ u with answers := rest } : State).moveCursor next) hfit off
  · next hfull =>
    rw [deliveredOf, frameValue_dst, State.mediumRead_full hfull, hrest, ← fitWidth_eq hfit]
    rfl

end delivered

/-! ## Plain data (46_fx_files.md R485) -/

theorem State.readDffDsd_ended {s : State} (h : s.fx.dataEnd ≤ s.fx.cursor) : s.readDffDsd = (none, s) := if_pos h

/-- Before the end of the data a run of whole rows is read, and the cursor moves past it whatever the medium gave. -/
theorem State.readDffDsd_run {s : State} {most want : Nat}
    (hmost : most = min s.fx.dff.frameBytes (s.fx.dataEnd - s.fx.cursor)) (hwant : want = most - most % s.fx.ch)
    (hpos : 0 < want) : s.readDffDsd =
      if (s.mediumRead s.fx.cursor want).1.length < want then
        ((s.mediumRead s.fx.cursor want).2.moveCursor (s.fx.cursor + want)).badFrame s.fx.cursor
      else (some { type := .dsd, bytes := (s.mediumRead s.fx.cursor want).1 },
        (s.mediumRead s.fx.cursor want).2.moveCursor (s.fx.cursor + want)) := by
  have hleft : ¬ s.fx.dataEnd ≤ s.fx.cursor := by omega
  have hwant0 : ¬ want = 0 := by omega
  subst hmost hwant
  exact (if_neg hleft).trans (if_neg hwant0)

/-! ## DST frames by the index (46_fx_files.md R486) -/

theorem State.readDffIndexed_ended {s : State} (h : s.fx.dff.dstiCount ≤ s.fx.frameIndex) :
    s.readDffIndexed = (none, s) := if_pos h

section indexed
variable {s u : State} {e : List Byte} {entry : Nat} (h : s.fx.frameIndex < s.fx.dff.dstiCount)
  (hentry : entry = s.fx.dff.dstiOff + 12 * s.fx.frameIndex) (hread : (e, u) = s.mediumRead entry 12)
include h hentry hread

theorem State.readDffIndexed_short (hshort : e.length < 12) : s.readDffIndexed = u.badFrame entry := by
  subst hentry
  simp only [State.readDffIndexed, if_neg (Nat.not_le.mpr h), ← hread, if_pos hshort]

/-- The entry came in full: the frame it names, unless that is declared too large. -/
theorem State.readDffIndexed_full (hfull : e.length = 12) : s.readDffIndexed =
    if 112897 < beNat (e.drop 8) ∨ s.mediumSize.toNat < beNat (e.take 8) + beNat (e.drop 8) then
      u.invalidFrame .bufferOverflow (beNat (e.drop 8))
    else u.readDstBytes (beNat (e.take 8)) (beNat (e.drop 8)) (beNat (e.take 8) + beNat (e.drop 8)) := by
  subst hentry
  have hshort : ¬ e.length < 12 := by omega
  simp only [State.readDffIndexed, if_neg (Nat.not_le.mpr h), ← hread, if_neg hshort, Config.inCap_eq,
    beField_rest (i := 8) (n := 4) hfull]
  rfl

end indexed

/-! ## DST frames by the chunks (46_fx_files.md R487) -/

theorem State.readDffWalk_ended {s : State} (fuel : Nat) (h : s.fx.dataEnd < s.fx.cursor + 12) :
    State.readDffWalk (fuel + 1) s = (none, s) := if_pos h

theorem oversizeDstf_iff (c : Chunk) (p dataEnd : Nat) :
    oversizeDstf c p dataEnd = true ↔ 112897 < c.size ∨ dataEnd < p + 12 + c.size := by
  simp [oversizeDstf]

section walk
variable {s u : State} {hd : List Byte} {n : Nat} (h : s.fx.cursor + 12 ≤ s.fx.dataEnd)
  (hread : (hd, u) = s.mediumRead s.fx.cursor 12) (fuel : Nat)
include h hread

theorem State.readDffWalk_short (hshort : hd.length < 12) : State.readDffWalk (fuel + 1) s =
    ((u.badFrame s.fx.cursor).1,
      (u.badFrame s.fx.cursor).2.setFx { (u.badFrame s.fx.cursor).2.fx with eot := true }) := by
  rw [State.readDffWalk, if_neg (Nat.not_lt.mpr h), ← hread]
  exact if_pos hshort

/-- The header came in full: the frame of a `DSTF` chunk, unless that is declared too large, and the walk past any other
chunk. -/
theorem State.readDffWalk_full (hfull : hd.length = 12) (hn : n = beNat (hd.drop 4)) : State.readDffWalk (fuel + 1) s =
    if hd.take 4 = magicDstf then
      if 112897 < n ∨ s.fx.dataEnd < s.fx.cursor + 12 + n then
        (u.moveCursor s.fx.dataEnd).invalidFrame .bufferOverflow n
      else u.readDstBytes (s.fx.cursor + 12) n (s.fx.cursor + 12 + n + n % 2)
    else State.readDffWalk fuel (u.moveCursor (s.fx.cursor + 12 + n + n % 2)) := by
  have hsize : (Chunk.ofBytes hd).size = n := (beField_rest (i := 4) (n := 8) hfull).trans hn.symm
  rw [State.readDffWalk, if_neg (Nat.not_lt.mpr h), ← hread]
  simp only [hfull, Nat.lt_irrefl, if_false, oversizeDstf_iff, Chunk.next, hsize]
  rfl

end walk

/-- The walk does not depend on its fuel, if that is more than the bytes left: each turn takes 12 of them or more. -/
theorem State.readDffWalk_fuel : ∀ (fuel fuel' : Nat) (s : State), s.fx.dataEnd - s.fx.cursor < fuel →
    s.fx.dataEnd - s.fx.cursor < fuel' → State.readDffWalk fuel s = State.readDffWalk fuel' s
  | 0, _, _, h, _ => absurd h (Nat.not_lt_zero _)
  | _, 0, _, _, h => absurd h (Nat.not_lt_zero _)
  | fuel + 1, fuel' + 1, s, h, h' => by
    rcases Nat.lt_or_ge s.fx.dataEnd (s.fx.cursor + 12) with hend | hleft
    · rw [State.readDffWalk_ended fuel hend, State.readDffWalk_ended fuel' hend]
    by_cases hshort : (s.mediumRead s.fx.cursor 12).1.length < 12
    · rw [State.readDffWalk_short hleft rfl fuel hshort, State.readDffWalk_short hleft rfl fuel' hshort]
    have hfull := State.mediumRead_full hshort
    rw [State.readDffWalk_full hleft rfl fuel hfull rfl, State.readDffWalk_full hleft rfl fuel' hfull rfl,
      State.readDffWalk_fuel fuel fuel'] <;>
    · show (s.mediumRead s.fx.cursor 12).2.fx.dataEnd - _ < _
      rw [State.mediumRead_fx]
      show s.fx.dataEnd - (s.fx.cursor + 12 + _ + _) < _
      omega

/-! ## The command -/

section command
variable {s : State} (hready : trackReady s) (heot : s.fx.eot = false) (hkind : s.fx.kind = .dsdiff)
include hready heot hkind

theorem execReadFrame_dsdiff : exec .readFrame s = .next (deliveredOf s.readDff) := by
  rw [execReadFrame_reads hready heot, State.readKind, hkind]

theorem execReadFrame_plain (hdst : s.fx.dst = false) : exec .readFrame s = .next (deliveredOf s.readDffDsd) := by
  rw [execReadFrame_dsdiff hready heot hkind, State.readDff, if_pos hdst]

theorem execReadFrame_indexed (hdst : s.fx.dst = true) (hindex : s.fx.dff.dstiOff ≠ 0) :
    exec .readFrame s = .next (deliveredOf s.readDffIndexed) := by
  rw [execReadFrame_dsdiff hready heot hkind, State.readDff, if_neg (by simp [hdst]), if_pos hindex]

theorem execReadFrame_walk (hdst : s.fx.dst = true) (hindex : s.fx.dff.dstiOff = 0) :
    exec .readFrame s = .next (deliveredOf (State.readDffWalk (s.fx.dataEnd - s.fx.cursor + 1) s)) := by
  rw [execReadFrame_dsdiff hready heot hkind, State.readDff, if_neg (by simp [hdst]), if_neg (by simp [hindex])]

end command

/-- The walk of a chunk that is no frame is the walk from behind it. -/
theorem execReadFrame_otherChunk {s u : State} {hd : List Byte} {n : Nat} (hready : trackReady s)
    (heot : s.fx.eot = false) (hkind : s.fx.kind = .dsdiff) (hdst : s.fx.dst = true) (hindex : s.fx.dff.dstiOff = 0)
    (hleft : s.fx.cursor + 12 ≤ s.fx.dataEnd) (hread : (hd, u) = s.mediumRead s.fx.cursor 12)
    (hfull : hd.length = 12) (hn : n = beNat (hd.drop 4)) (hother : hd.take 4 ≠ magicDstf) :
    exec .readFrame s = exec .readFrame (u.moveCursor (s.fx.cursor + 12 + n + n % 2)) := by
  have hu : u = (s.mediumRead s.fx.cursor 12).2 := congrArg Prod.snd hread
  obtain ⟨rest, hrest⟩ := s.mediumRead_answers s.fx.cursor 12
  rw [execReadFrame_walk hready heot hkind hdst hindex, State.readDffWalk_full hleft hread _ hfull hn, if_neg hother]
  rw [hrest] at hu
  subst hu
  have hmoved := execReadFrame_walk
    (s := ({ s with answers := rest } : State).moveCursor (s.fx.cursor + 12 + n + n % 2)) hready heot hkind hdst hindex
  rw [hmoved, State.readDffWalk_fuel]
  · show s.fx.dataEnd - (s.fx.cursor + 12 + n + n % 2) < s.fx.dataEnd - s.fx.cursor
    omega
  · exact Nat.lt_succ_self _

/-- Settles O53: each way a reader can end, and what the command leaves of it. -/
theorem dffFramesAndBadReads : Obligations.DffFramesAndBadReads := by
  unfold Obligations.DffFramesAndBadReads
  refine ⟨?_, fun s hready heot hkind hdst hend => ?_, ?_, ?_⟩
  · intro s most want got u hready heot hkind hdst hmost hwant hpos hfit hread
    obtain ⟨rfl, rfl⟩ := Prod.ext_iff.mp hread
    obtain ⟨rest, hrest⟩ := s.mediumRead_answers s.fx.cursor want
    rw [execReadFrame_plain hready heot hkind hdst, State.readDffDsd_run hmost hwant hpos, hrest]
    refine ⟨fun hfull => ?_, fun hshort => ?_⟩
    · rw [if_neg (by omega), deliveredOf, frameValue_dsd, hfull, ← fitWidth_eq hfit]
      rfl
    · rw [if_pos hshort,
        deliveredOf_badFrame (u := ({ s with answers := rest } : State).moveCursor (s.fx.cursor + want)) hfit]
      rfl
  · rw [execReadFrame_plain hready heot hkind hdst, State.readDffDsd_ended hend]
    rfl
  · intro s e u entry off len hready heot hkind hdst hindex hfit hentry hread hoff hlen
    rw [execReadFrame_indexed hready heot hkind hdst hindex]
    have hfx : u.fx = s.fx := fx_of_mediumRead hread
    have hfitu : u.fx.frameIndex + 1 < 2 ^ 32 := by rw [hfx]; exact hfit
    have hframe : fullFrame u = fullFrame s := by rw [fullFrame, hfx, fullFrame]
    refine ⟨fun hend => ?_, fun hleft => ⟨fun hshort => ?_, fun hfull hlarge => ?_, fun hfull hcap hsize => ?_⟩⟩
    · rw [State.readDffIndexed_ended hend]
      rfl
    · rw [State.readDffIndexed_short hleft hentry hread hshort, deliveredOf_badFrame hfitu, hframe, hfx]
    · rw [State.readDffIndexed_full hleft hentry hread hfull, ← hoff, ← hlen, if_pos hlarge,
        deliveredOf_invalidFrame hfitu, hframe, hfx]
      rfl
    · rw [State.readDffIndexed_full hleft hentry hread hfull, ← hoff, ← hlen, if_neg (by omega),
        deliveredOf_readDstBytes hfitu]
  · rintro s hd u _ n _ hready heot hkind hdst hindex hfit rfl hread hn rfl
    have hfx : u.fx = s.fx := fx_of_mediumRead hread
    have hfitu : u.fx.frameIndex + 1 < 2 ^ 32 := by rw [hfx]; exact hfit
    have hframe : fullFrame u = fullFrame s := by rw [fullFrame, hfx, fullFrame]
    refine ⟨fun hend => ?_, fun hleft => ⟨fun hshort => ?_,
      fun hfull hmagic => ⟨fun hlarge => ?_, fun hcap hsize => ?_⟩, fun hfull hother => ?_⟩⟩
    · rw [execReadFrame_walk hready heot hkind hdst hindex, State.readDffWalk_ended _ hend]
      rfl
    · rw [execReadFrame_walk hready heot hkind hdst hindex, State.readDffWalk_short hleft hread _ hshort,
        deliveredOf_lastFrame hfitu, hframe, hfx]
    · rw [execReadFrame_walk hready heot hkind hdst hindex, State.readDffWalk_full hleft hread _ hfull hn,
        if_pos hmagic, if_pos hlarge, deliveredOf_invalidFrame (u := u.moveCursor s.fx.dataEnd) hfitu, ← hframe, ← hfx]
      rfl
    · rw [execReadFrame_walk hready heot hkind hdst hindex, State.readDffWalk_full hleft hread _ hfull hn,
        if_pos hmagic, if_neg (by omega), deliveredOf_readDstBytes hfitu]
    · rw [execReadFrame_otherChunk hready heot hkind hdst hindex hleft hread hfull hn hother, ← hfx]
      rfl

end Sys2Proof.Machine
end

section
/-! PROOFS (O54). `SEEK` for every kind of container (46_fx_files.md R457, R471, R488; 47_fx_sector.md R525). The walk
over the `DSTF` chunks of a medium that answers with its own bytes arrives where `FramesBetween` says the frames end,
and fails where there are too few. -/

-- One thread: the check limits the memory of a compile, and each thread reserves its own.
set_option Elab.async false

open Sys2Proof.Claims

namespace Sys2Proof.Machine

/-! ## The command -/

theorem execSeek_refused {s : State} {frame : Nat} (h : s.sess ≠ .track) (h' : ¬ trackReady s) :
    exec (.seek frame) s = .next (s.refusedWith 3 0) :=
  (State.unlessOwned_free s _ h).trans (s.withTrack_none _ h')

section ready
variable {s t : State} {frame : Nat} (h : trackReady s)
include h

/-- A reader that takes the position. -/
theorem execSeek_done (hseek : s.seekKind frame = (true, t)) : exec (.seek frame) s =
    .next (({ t with fx := { t.fx with frameIndex := frame, eot := false } } : State).okWith (val frame)) := by
  show execSeek frame s = _
  rw [execSeek, State.unlessOwned_free s _ (sess_ne_track_of_trackReady h), State.withTrack_some s _ h.1 h.2, hseek]
  rfl

/-- A reader that does not. -/
theorem execSeek_beyond (hseek : s.seekKind frame = (false, t)) :
    exec (.seek frame) s = .next (t.refusedWith 2 frame) := by
  show execSeek frame s = _
  rw [execSeek, State.unlessOwned_free s _ (sess_ne_track_of_trackReady h), State.withTrack_some s _ h.1 h.2, hseek]
  exact t.fail_eq .eOperand frame

end ready

/-! ## The readers -/

section readers
variable {s : State} {frame : Nat}

theorem State.seekKind_dsf (hkind : s.fx.kind = .dsf) (hframe : frame ≤ s.fx.frameTotal) :
    s.seekKind frame = (true, s.setFx { s.fx with dsf := { s.fx.dsf with
      pos := min (frame * s.fx.frameBytes) s.fx.dsfTotal, blkValid := false } }) := by
  rw [State.seekKind, hkind]
  simp only [State.seekDsf, if_neg (Nat.not_lt.mpr hframe), Option.isSome_some, Option.getD_some]

theorem State.seekKind_dsf_beyond (hkind : s.fx.kind = .dsf) (hframe : s.fx.frameTotal < frame) :
    s.seekKind frame = (false, s) := by
  rw [State.seekKind, hkind]
  simp only [State.seekDsf, if_pos hframe, Option.isSome_none, Option.getD_none]

theorem State.seekKind_sector_zero (hkind : s.fx.kind = .sector) :
    s.seekKind 0 = (true, s.setFx s.fx.rewindSector) := by
  rw [State.seekKind, hkind]
  rfl

theorem State.seekKind_sector_beyond (hkind : s.fx.kind = .sector) (hframe : frame ≠ 0) :
    s.seekKind frame = (false, s) := by
  rw [State.seekKind, hkind]
  simp only [State.seekSector, if_neg hframe, Option.isSome_none, Option.getD_none]

section dsdiff
variable (hkind : s.fx.kind = .dsdiff)
include hkind

theorem State.seekKind_dff_beyond (hframe : s.fx.frameTotal < frame) : s.seekKind frame = (false, s) := by
  rw [State.seekKind, hkind]
  exact if_pos hframe

theorem State.seekKind_dff_plain (hframe : frame ≤ s.fx.frameTotal) (hdst : s.fx.dst = false) : s.seekKind frame =
    (true, s.moveCursor (min (s.fx.dataStart + frame * s.fx.dff.frameBytes) s.fx.dataEnd)) := by
  rw [State.seekKind, hkind]
  exact (if_neg (Nat.not_lt.mpr hframe)).trans (if_pos hdst)

theorem State.seekKind_dff_indexed (hframe : frame ≤ s.fx.frameTotal) (hdst : s.fx.dst = true)
    (hindex : s.fx.dff.dstiOff ≠ 0) : s.seekKind frame = (true, s) := by
  rw [State.seekKind, hkind]
  exact (if_neg (Nat.not_lt.mpr hframe)).trans ((if_neg (by simp [hdst])).trans (if_pos hindex))

/-- Without an index the chunks are walked from the start of the data; the cursor is put back where they do not
suffice (46_fx_files.md R488). -/
theorem State.seekKind_dff_walk (hframe : frame ≤ s.fx.frameTotal) (hdst : s.fx.dst = true)
    (hindex : s.fx.dff.dstiOff = 0) {r : Bool × State}
    (hr : r = State.skipFrames (s.fx.dataEnd - s.fx.dataStart + 1) frame (s.moveCursor s.fx.dataStart)) :
    s.seekKind frame = if r.1 then r else (false, r.2.moveCursor s.fx.cursor) := by
  subst hr
  rw [State.seekKind, hkind]
  exact (if_neg (Nat.not_lt.mpr hframe)).trans ((if_neg (by simp [hdst])).trans (if_neg (by simp [hindex])))

end dsdiff
end readers

/-! ## The frames between two places (46_fx_files.md R488; assumption log 15) -/

/-- Where the walk goes on behind a chunk of `len` bytes at `p` that is a frame. -/
def State.behindFrame (s : State) (p len : Nat) : Nat :=
  if 112897 < len ∨ s.fx.dataEnd < p + 12 + len then s.fx.dataEnd else p + 12 + len + len % 2

section between
variable {s : State} {n p q : Nat}

theorem framesBetween_zero : FramesBetween s 0 p q ↔ q = p := by
  constructor
  · rintro ⟨⟩
    rfl
  · rintro rfl
    exact .here q

/-- Where no header fits, or the medium ends within it, there is no frame. -/
theorem not_framesBetween (h : s.fx.dataEnd < p + 12 ∨ (s.mediumBytes p 12).length < 12) :
    ¬ FramesBetween s (n + 1) p q := by
  have hnone : ∀ id len, ¬ chunkHeader s p id len := by
    rintro id len ⟨hfits, hfull, -⟩
    omega
  rintro (_ | ⟨_, _, _, len, hhead, _⟩ | ⟨_, _, _, len, id, hhead, _⟩)
  · exact hnone _ _ hhead
  · exact hnone _ _ hhead

variable (hleft : p + 12 ≤ s.fx.dataEnd) (hfull : (s.mediumBytes p 12).length = 12) {len : Nat}
  (hlen : len = beNat ((s.mediumBytes p 12).drop 4))
include hleft hfull hlen

/-- A `DSTF` chunk is one of the frames. -/
theorem framesBetween_frame (hmagic : (s.mediumBytes p 12).take 4 = magicDstf) :
    FramesBetween s (n + 1) p q ↔ FramesBetween s n (s.behindFrame p len) q := by
  constructor
  · rintro (_ | ⟨_, _, _, _, ⟨-, -, -, rfl⟩, hrest⟩ | ⟨_, _, _, _, _, ⟨-, -, rfl, -⟩, hother, _⟩)
    · rw [hlen]
      exact hrest
    · exact absurd hmagic hother
  · exact .frame n p q len ⟨hleft, hfull, hmagic.symm, hlen⟩

/-- Any other chunk is passed. -/
theorem framesBetween_other (hother : (s.mediumBytes p 12).take 4 ≠ magicDstf) :
    FramesBetween s (n + 1) p q ↔ FramesBetween s (n + 1) (p + 12 + len + len % 2) q := by
  constructor
  · rintro (_ | ⟨_, _, _, _, ⟨-, -, hmagic, -⟩, _⟩ | ⟨_, _, _, _, _, ⟨-, -, -, rfl⟩, _, hrest⟩)
    · exact absurd hmagic.symm hother
    · rw [hlen]
      exact hrest
  · exact .other n p q len _ ⟨hleft, hfull, rfl, hlen⟩ hother

end between

/-! ## The walk -/

section walk
variable (s : State) (hanswers : s.answers = [])

theorem State.skipFrames_zero (fuel : Nat) : State.skipFrames (fuel + 1) 0 s = (true, s) := by
  rw [State.skipFrames]
  exact if_pos rfl

include hanswers

/-- A turn of the walk on a medium that answers with its own bytes. -/
theorem State.skipFrames_turn (fuel n p : Nat) : State.skipFrames (fuel + 1) (n + 1) (s.moveCursor p) =
    if s.fx.dataEnd < p + 12 ∨ (s.mediumBytes p 12).length < 12 then (false, s.moveCursor p)
    else if (s.mediumBytes p 12).take 4 = magicDstf then
      State.skipFrames fuel n (s.moveCursor (s.behindFrame p (beNat ((s.mediumBytes p 12).drop 4))))
    else State.skipFrames fuel (n + 1) (s.moveCursor (p + 12 + beNat ((s.mediumBytes p 12).drop 4) +
      beNat ((s.mediumBytes p 12).drop 4) % 2)) := by
  have hread : (s.moveCursor p).mediumRead p 12 = (s.mediumBytes p 12, s.moveCursor p) :=
    (s.moveCursor p).mediumRead_faithful p 12 hanswers
  have hcursor : (s.moveCursor p).fx.cursor = p := rfl
  have hend : (s.moveCursor p).fx.dataEnd = s.fx.dataEnd := rfl
  have hlength := s.length_mediumBytes p 12
  rw [State.skipFrames]
  simp only [hcursor, hend, hread, Nat.succ_ne_zero, if_false]
  split
  · next h => rw [if_pos (.inl h)]
  · next hleft =>
    split
    · next h => rw [if_pos (.inr h)]
    · next hfull =>
      have hsize : (Chunk.ofBytes (s.mediumBytes p 12)).size = beNat ((s.mediumBytes p 12).drop 4) :=
        beField_rest (i := 4) (n := 8) (by omega)
      rw [if_neg (not_or.mpr ⟨hleft, hfull⟩)]
      simp only [oversizeDstf_iff, Chunk.next, hsize]
      rfl

/-- The walk is over where the frames end, or fails somewhere: by induction on the fuel, which exceeds the bytes
left. -/
theorem State.skipFrames_between : ∀ (fuel n p : Nat), s.fx.dataEnd - p < fuel →
    (∃ q, FramesBetween s n p q ∧ State.skipFrames fuel n (s.moveCursor p) = (true, s.moveCursor q)) ∨
    (∀ q, ¬ FramesBetween s n p q) ∧ ∃ q, State.skipFrames fuel n (s.moveCursor p) = (false, s.moveCursor q)
  | 0, _, _, h => absurd h (Nat.not_lt_zero _)
  | fuel + 1, 0, p, _ => .inl ⟨p, .here p, State.skipFrames_zero _ fuel⟩
  | fuel + 1, n + 1, p, h => by
    rw [State.skipFrames_turn s hanswers]
    split
    · next hend => exact .inr ⟨fun q => not_framesBetween hend, p, rfl⟩
    · next hend =>
      have hleft : p + 12 ≤ s.fx.dataEnd := by omega
      have hfull : (s.mediumBytes p 12).length = 12 := by
        have hlength := s.length_mediumBytes p 12
        omega
      split
      · next hmagic =>
        simp only [framesBetween_frame hleft hfull rfl hmagic]
        refine State.skipFrames_between fuel n _ ?_
        unfold State.behindFrame
        split <;> omega
      · next hother =>
        simp only [framesBetween_other hleft hfull rfl hother]
        exact State.skipFrames_between fuel (n + 1) _ (by omega)

end walk

/-- Frames end at one place. -/
theorem framesBetween_unique {s : State} {n p q q' : Nat} (h : FramesBetween s n p q) (h' : FramesBetween s n p q') :
    q = q' := by
  induction h with
  | here p => exact (framesBetween_zero.mp h').symm
  | frame n p q len hhead _ ih =>
    obtain ⟨hleft, hfull, hmagic, hlen⟩ := hhead
    exact ih ((framesBetween_frame hleft hfull hlen hmagic.symm).mp h')
  | other n p q len id hhead hother _ ih =>
    obtain ⟨hleft, hfull, rfl, hlen⟩ := hhead
    exact ih ((framesBetween_other hleft hfull hlen hother).mp h')

/-- Settles O54: what the reader of the kind does, and the walk over the chunks where there is no index. -/
theorem seekCompletes : Obligations.SeekCompletes := by
  unfold Obligations.SeekCompletes
  refine ⟨fun s frame hready => ⟨fun hkind hframe => ?_, fun hkind hdst hframe => ?_,
    fun hkind hdst hindex hframe => ?_, fun hkind hdst hindex => ?_, fun hkind hdst hindex hanswers hframe => ?_, fun hkind => ?_, fun hkind hframe => ?_,
    fun hkind hframe => ?_⟩, fun s frame => execSeek_refused⟩
  · rw [execSeek_done hready (State.seekKind_dsf hkind hframe), Fx.frameBytes_eq]
    rfl
  · exact execSeek_done hready (State.seekKind_dff_plain hkind hframe hdst)
  · exact execSeek_done hready (State.seekKind_dff_indexed hkind hframe hdst hindex)
  · have hseek := State.seekKind_dff_walk hkind (Nat.zero_le _) hdst hindex rfl
    rw [State.skipFrames_zero, if_pos rfl] at hseek
    exact execSeek_done hready hseek
  · have hseek := State.seekKind_dff_walk hkind hframe hdst hindex rfl
    rcases State.skipFrames_between s hanswers (s.fx.dataEnd - s.fx.dataStart + 1) frame s.fx.dataStart (by omega) with
      ⟨q, hq, hwalk⟩ | ⟨hnone, q, hwalk⟩
    · rw [hwalk, if_pos rfl] at hseek
      refine ⟨fun q' hq' => ?_, fun hnone => absurd hq (hnone q)⟩
      rw [framesBetween_unique hq' hq]
      exact execSeek_done hready hseek
    · rw [hwalk, if_neg Bool.false_ne_true] at hseek
      exact ⟨fun q' hq' => absurd hq' (hnone q'), fun _ => execSeek_beyond hready hseek⟩
  · exact execSeek_done hready (State.seekKind_sector_zero hkind)
  · rcases hkind with hkind | hkind
    · exact execSeek_beyond hready (State.seekKind_dsf_beyond hkind hframe)
    · exact execSeek_beyond hready (State.seekKind_dff_beyond hkind hframe)
  · exact execSeek_beyond hready (State.seekKind_sector_beyond hkind hframe)

end Sys2Proof.Machine
end

section
/-! PROOFS (O51). Whatever the container and the medium, `read_frame` ends the track, gives a good frame and leaves the
counters alone, or gives an `INVALID` frame and counts it once (46_fx_files.md R451, R454, R455, R489). What the readers
keep of the state is gathered in `State.standing`, so that most of their steps are equations. -/

-- One thread: the check limits the memory of a compile, and each thread reserves its own.
set_option Elab.async false

open Sys2Proof.Claims

namespace Sys2Proof.Machine

/-! ## What a read keeps -/

/-- The size of a frame, the frames counted and the error counters. -/
structure Standing where
  ch : Nat
  rate : Nat
  frameIndex : Nat
  errCount : Word
  lastError : Word
  badReads : Word

/-- The standing of a state. -/
def State.standing (s : State) : Standing :=
  { ch := s.fx.ch, rate := s.fx.rate, frameIndex := s.fx.frameIndex, errCount := s.errCount, lastError := s.lastError,
    badReads := s.fx.badReads }

theorem State.mediumRead_standing (s : State) (off n : Nat) : (s.mediumRead off n).2.standing = s.standing := by
  obtain ⟨rest, h⟩ := s.mediumRead_answers off n
  rw [h]
  rfl

theorem State.setSec_standing (s : State) (sec : Sec) : (s.setSec sec).standing = s.standing := rfl

theorem fullFrame_of_standing {s t : State} {b : Word} (h : t.standing = { s.standing with badReads := b }) :
    fullFrame t = fullFrame s := by
  have hch : t.fx.ch = s.fx.ch := congrArg Standing.ch h
  have hrate : t.fx.rate = s.fx.rate := congrArg Standing.rate h
  rw [fullFrame, fullFrame, hch, hrate]

/-- How a `read_frame` from `s` can end: with the end of the track or a good frame and everything as it stood, or with a
full frame of zeros, one error more and its record. -/
inductive ReadOutcome (s : State) : Option Frame × State → Prop where
  | ended {t : State} (h : t.standing = s.standing) : ReadOutcome s (none, t)
  | good {type : FrameType} {bytes : List Byte} {t : State} (hf : type ≠ .invalid) (h : t.standing = s.standing) :
      ReadOutcome s (some { type := type, bytes := bytes }, t)
  | spoiled {t : State} {e : Exc} {info : Nat} {b : Word} (he : e.code ∈ [0x11, 0x12, 0x13])
      (h : t.standing = { s.standing with errCount := errorCounted s, lastError := errorWord e info, badReads := b }) :
      ReadOutcome s (some { type := .invalid, bytes := zeroBytes (fullFrame s) }, t)

/-- A reader that has gone on from `s` to `t` with nothing changed may end as from `s`. -/
theorem ReadOutcome.after {s t : State} {r : Option Frame × State} (ht : t.standing = s.standing)
    (h : ReadOutcome t r) : ReadOutcome s r := by
  have hcount : errorCounted t = errorCounted s := by
    rw [errorCounted, errorCounted, show t.errCount = s.errCount from congrArg Standing.errCount ht]
  have hframe : fullFrame t = fullFrame s := fullFrame_of_standing (b := s.fx.badReads) ht
  rcases h with h | ⟨hf, h⟩ | ⟨he, h⟩
  · exact .ended (h.trans ht)
  · exact .good hf (h.trans ht)
  · rw [hframe]
    exact .spoiled he (by rw [h, ht, hcount])

section spoiled
variable {s u : State} {b : Word}

/-- An `INVALID` frame, whatever bad reads were counted before it. -/
theorem ReadOutcome.invalid (h : u.standing = { s.standing with badReads := b }) {e : Exc}
    (he : e.code ∈ [0x11, 0x12, 0x13]) (info : Nat) : ReadOutcome s (u.invalidFrame e info) := by
  have hcount : satInc u.errCount = errorCounted s := by
    rw [satInc_eq, show u.errCount = s.errCount from congrArg Standing.errCount h]
    rfl
  have hspoiled : (u.invalidFrame e info).2.standing =
      { s.standing with errCount := errorCounted s, lastError := errorWord e info, badReads := b } := by
    rw [← hcount]
    exact congrArg (fun x : Standing => { x with errCount := satInc u.errCount, lastError := errorWord e info }) h
  have hframe : (u.invalidFrame e info).1 = some { type := .invalid, bytes := zeroBytes (fullFrame s) } := by
    rw [← fullFrame_of_standing h, fullFrame_eq]
    rfl
  have := ReadOutcome.spoiled he hspoiled
  rwa [← hframe] at this

theorem ReadOutcome.bad (h : u.standing = s.standing) (info : Nat) : ReadOutcome s (u.badFrame info) :=
  .invalid (u := u.countBadRead) (b := satInc u.fx.badReads)
    (congrArg (fun x : Standing => { x with badReads := satInc u.fx.badReads }) h) (by decide) info

end spoiled

/-! ## DSF (46_fx_files.md R470) -/

/-- A fetch counts a bad read only for a group it marks as bad. -/
theorem State.dsfFetch_standing (s : State) (g : Nat) : (s.dsfFetch g).standing = s.standing ∨
    (s.dsfFetch g).fx.dsf.blkBad = true ∧ ∃ b, (s.dsfFetch g).standing = { s.standing with badReads := b } := by
  obtain ⟨rest, h⟩ := s.mediumRead_answers (s.fx.groupOffset g) (s.fx.ch * s.fx.dsf.blockSize)
  unfold State.dsfFetch
  split
  · exact .inl rfl
  · dsimp only
    rw [h]
    split
    · next hbad => exact .inr ⟨decide_eq_true hbad, _, rfl⟩
    · exact .inl rfl

/-- The byte loop counts bad reads only where it remembers a bad group. -/
theorem State.dsfRead_standing : ∀ (fuel n : Nat) (bad : Option Nat) (s : State),
    (∃ b, (State.dsfRead fuel n bad s).2.2.standing = { s.standing with badReads := b }) ∧
    ((State.dsfRead fuel n bad s).2.1 = none → bad = none ∧ (State.dsfRead fuel n bad s).2.2.standing = s.standing)
  | 0, _, _, _ => ⟨⟨_, rfl⟩, fun h => ⟨h, rfl⟩⟩
  | fuel + 1, n, bad, s => by
    by_cases hn : n = 0
    · subst hn
      exact ⟨⟨_, rfl⟩, fun h => ⟨h, rfl⟩⟩
    rw [State.dsfRead_turn s fuel bad hn rfl rfl rfl]
    obtain ⟨⟨b, hrest⟩, hgood⟩ := State.dsfRead_standing fuel
      (n - min n (s.fx.dsf.blockSize - s.fx.dsf.pos % s.fx.dsf.blockSize))
      (if (s.dsfFetch (s.fx.dsf.pos / s.fx.dsf.blockSize)).fx.dsf.blkBad
        then some (s.fx.groupOffset (s.fx.dsf.pos / s.fx.dsf.blockSize)) else bad)
      ((s.dsfFetch (s.fx.dsf.pos / s.fx.dsf.blockSize)).dsfAdvance
        (min n (s.fx.dsf.blockSize - s.fx.dsf.pos % s.fx.dsf.blockSize)))
    rcases s.dsfFetch_standing (s.fx.dsf.pos / s.fx.dsf.blockSize) with hfetch | ⟨hbad, b', hfetch⟩
    · refine ⟨⟨b, hrest.trans (congrArg (fun x : Standing => { x with badReads := b }) hfetch)⟩, fun hnone => ?_⟩
      obtain ⟨hbad, hkept⟩ := hgood hnone
      refine ⟨?_, hkept.trans hfetch⟩
      split at hbad
      · exact nomatch hbad
      · exact hbad
    · refine ⟨⟨b, hrest.trans (congrArg (fun x : Standing => { x with badReads := b }) hfetch)⟩, fun hnone => ?_⟩
      obtain ⟨hgroup, -⟩ := hgood hnone
      rw [if_pos hbad] at hgroup
      exact nomatch hgroup

theorem State.readDsf_outcome (s : State) : ReadOutcome s s.readDsf := by
  unfold State.readDsf
  split
  · exact .ended rfl
  · dsimp only
    obtain ⟨⟨b, hspoiled⟩, hgood⟩ := State.dsfRead_standing (min s.fx.frameBytes (s.fx.dsfTotal - s.fx.dsf.pos))
      (min s.fx.frameBytes (s.fx.dsfTotal - s.fx.dsf.pos)) none s
    split
    · next hr =>
      rw [hr] at hspoiled
      exact .invalid hspoiled (by decide) _
    · next hr =>
      rw [hr] at hgood
      exact .good (by decide) (hgood rfl).2

/-! ## DSDIFF (46_fx_files.md R485 to R487) -/

theorem State.readDffDsd_outcome (s : State) : ReadOutcome s s.readDffDsd := by
  unfold State.readDffDsd
  split
  · exact .ended rfl
  · dsimp only
    have hread : ∀ n p, ((s.mediumRead s.fx.cursor n).2.moveCursor p).standing = s.standing := fun n p =>
      s.mediumRead_standing s.fx.cursor n
    split
    · exact .ended rfl
    · split
      · exact .bad (hread _ _) _
      · exact .good (by decide) (hread _ _)

theorem State.readDstBytes_outcome (s : State) (off n next : Nat) : ReadOutcome s (s.readDstBytes off n next) := by
  have hread : ((s.mediumRead off n).2.moveCursor next).standing = s.standing := s.mediumRead_standing off n
  unfold State.readDstBytes
  dsimp only
  split
  · exact .bad hread _
  · exact .good (by decide) hread

theorem State.readDffIndexed_outcome (s : State) : ReadOutcome s s.readDffIndexed := by
  unfold State.readDffIndexed
  split
  · exact .ended rfl
  · dsimp only
    have hread := s.mediumRead_standing (s.fx.dff.dstiOff + 12 * s.fx.frameIndex) 12
    split
    · exact .bad hread _
    · split
      · exact .invalid (b := s.fx.badReads) hread (by decide) _
      · exact (State.readDstBytes_outcome _ _ _ _).after hread

theorem State.readDffWalk_outcome : ∀ (fuel : Nat) (s : State), ReadOutcome s (State.readDffWalk fuel s)
  | 0, _ => .ended rfl
  | fuel + 1, s => by
    have hread := s.mediumRead_standing s.fx.cursor 12
    have hmoved : ∀ p, ((s.mediumRead s.fx.cursor 12).2.moveCursor p).standing = s.standing := fun _ => hread
    rw [State.readDffWalk]
    dsimp only
    split
    · exact .ended rfl
    · split
      · exact .bad (u := (s.mediumRead s.fx.cursor 12).2.setFx { (s.mediumRead s.fx.cursor 12).2.fx with eot := true })
          hread _
      · split
        · split
          · exact .invalid (b := s.fx.badReads) (hmoved _) (by decide) _
          · exact (State.readDstBytes_outcome _ _ _ _).after hread
        · exact (State.readDffWalk_outcome fuel _).after (hmoved _)

theorem State.readDff_outcome (s : State) : ReadOutcome s s.readDff := by
  unfold State.readDff
  split
  · exact s.readDffDsd_outcome
  · split
    · exact s.readDffIndexed_outcome
    · exact State.readDffWalk_outcome _ s

/-! ## Discs (47_fx_sector.md R520 to R524) -/

theorem State.finishFrame_outcome (s : State) : ReadOutcome s s.finishFrame := by
  unfold State.finishFrame
  dsimp only
  split
  · refine .invalid (b := s.fx.badReads) (s.setSec_standing _) ?_ _
    decide
  · refine .good ?_ (s.setSec_standing _)
    split <;> decide

theorem State.endOfSectors_outcome (s : State) : ReadOutcome s s.endOfSectors := by
  unfold State.endOfSectors
  split
  · exact s.finishFrame_outcome
  · exact .ended rfl

/-- A turn of the loop that goes on keeps everything, one that ends the call ends it as `read_frame` may. -/
def TurnOutcome (s : State) : Option (Option Frame × State) × State → Prop
  | (some r, _) => ReadOutcome s r
  | (none, t) => t.standing = s.standing

theorem State.passSector_standing (s : State) : s.passSector.standing = s.standing := by
  obtain ⟨rest, h⟩ := s.mediumRead_answers (sectorOffset s.fx.sec.psn s.fx.sec.curLsn) Config.sectorBytes
  rw [State.passSector, State.sectorRead, h]
  rfl

theorem State.fetchSector_outcome (s : State) : TurnOutcome s s.fetchSector := by
  have hpass : ∀ sec, (s.passSector.setSec sec).standing = s.standing := fun _ => s.passSector_standing
  obtain ⟨bytes, ⟨bad, hbad, hfetch⟩ | ⟨bad, hbad, hfetch⟩ | hfetch⟩ := s.fetchSector_cases <;> rw [hfetch]
  · exact .bad (hbad ▸ hpass _) _
  · exact .invalid (b := s.fx.badReads) (hbad ▸ hpass _) (by decide) _
  · exact hpass _

theorem State.takePacket_outcome (s : State) : TurnOutcome s s.takePacket := by
  unfold State.takePacket
  dsimp only
  split
  · exact s.setSec_standing _
  · split
    · exact s.finishFrame_outcome
    · split
      · exact s.setSec_standing _
      · split
        · refine ReadOutcome.invalid (b := s.fx.badReads) (s.setSec_standing _) ?_ _
          decide
        · exact s.setSec_standing _

theorem State.sectorLoop_outcome : ∀ (fuel : Nat) (s : State), ReadOutcome s (State.sectorLoop fuel s)
  | 0, _ => .ended rfl
  | fuel + 1, s => by
    have hfetch := s.fetchSector_outcome
    have htake := s.takePacket_outcome
    rw [State.sectorLoop]
    split
    · split
      · exact s.endOfSectors_outcome
      · split
        · next r _ hr =>
          rw [hr] at hfetch
          exact hfetch
        · next t hr =>
          rw [hr] at hfetch
          exact (State.sectorLoop_outcome fuel t).after hfetch
    · split
      · next r _ hr =>
        rw [hr] at htake
        exact htake
      · next t hr =>
        rw [hr] at htake
        exact (State.sectorLoop_outcome fuel t).after htake

/-! ## The command -/

/-- Every `read_frame` ends in one of the three ways, whatever the container. -/
theorem State.readKind_outcome (s : State) : ReadOutcome s s.readKind := by
  unfold State.readKind
  split
  · exact .ended rfl
  · exact State.sectorLoop_outcome _ s
  · exact s.readDff_outcome
  · exact s.readDsf_outcome

/-- What O51 says of the answer of any `READ_FRAME` from `s` that leaves `t`. -/
def ReadAnswered (s t : State) (more type : Nat) (bytes : List Byte) : Prop :=
  t = { s with
    errCount := t.errCount, lastError := t.lastError, fx := t.fx, answers := t.answers, dout := s.dout ++ bytes
    rsp := s.rsp ++ [{ status := 0, value := val (bytes.length + type * 2 ^ 24 + more * 2 ^ 27) }] } ∧
  (s.fx.eot = true → more = 0 ∧ t.fx = s.fx ∧ t.answers = s.answers) ∧
  (more = 0 ∧ type = 0 ∧ bytes = [] ∧ t.fx.eot = true ∨
    more = 1 ∧ type ≤ 2 ∧ (s.fx.frameIndex + 1 < 2 ^ 32 → t.fx.frameIndex = s.fx.frameIndex + 1)) ∧
  (type = 2 → bytes = List.replicate (fullFrame s) 0 ∧ t.errCount = errorCounted s ∧
    t.lastError.toNat % 2 ^ 8 ∈ [0x11, 0x12, 0x13]) ∧
  (type ≠ 2 → t.errCount = s.errCount ∧ t.lastError = s.lastError ∧ t.fx.badReads = s.fx.badReads)

/-- The low byte of `LAST_ERROR` is the code (60_exceptions.md R601). -/
theorem errorWord_code (e : Exc) (info : Nat) : (errorWord e info).toNat % 2 ^ 8 = e.code := by
  have hcode := e.code_lt
  rw [errorWord, BitVec.toNat_ofNat]
  omega

theorem frameType_code_eq_two {f : FrameType} : f.code = 2 ↔ f = .invalid := by cases f <;> decide

theorem frameType_code_le (f : FrameType) : f.code ≤ 2 := by cases f <;> decide

section answered
variable {s t : State} (heot : s.fx.eot = false) (honly : s.FxOnly t)
include heot honly

theorem readAnswered_ended (h : t.standing = s.standing) : ReadAnswered s (deliveredOf (none, t)) 0 0 [] := by
  simp only [State.standing, Standing.mk.injEq] at h
  obtain ⟨-, -, -, herr, hlast, hbad⟩ := h
  refine ⟨?_, fun h => absurd h (by simp [heot]), .inl ⟨rfl, rfl, rfl, rfl⟩, fun h => absurd h (by decide), fun _ =>
    ⟨herr, hlast, hbad⟩⟩
  rw [honly.frame, deliveredOf, List.append_nil]
  rfl

/-- A frame delivered, good or not: the counters are those of `t`. -/
theorem readAnswered_frame {f : Frame} (hindex : t.fx.frameIndex = s.fx.frameIndex)
    (hbad : f.type = .invalid → f.bytes = List.replicate (fullFrame s) 0 ∧ t.errCount = errorCounted s ∧
      t.lastError.toNat % 2 ^ 8 ∈ [0x11, 0x12, 0x13])
    (hgood : f.type ≠ .invalid → t.errCount = s.errCount ∧ t.lastError = s.lastError ∧ t.fx.badReads = s.fx.badReads) :
    ReadAnswered s (deliveredOf (some f, t)) 1 f.type.code f.bytes := by
  refine ⟨?_, fun h => absurd h (by simp [heot]), .inr ⟨rfl, frameType_code_le _, fun hfit => ?_⟩,
    fun h => hbad (frameType_code_eq_two.mp h), fun h => hgood fun hf => h (frameType_code_eq_two.mpr hf)⟩
  · rw [honly.frame, deliveredOf, Nat.one_mul]
    rfl
  · show fitWidth 32 (t.fx.frameIndex + 1) = _
    rw [hindex, fitWidth_eq hfit]

theorem ReadOutcome.answered {o : Option Frame} (h : ReadOutcome s (o, t)) :
    ∃ more type bytes, ReadAnswered s (deliveredOf (o, t)) more type bytes := by
  rcases h with h | ⟨hf, h⟩ | ⟨he, h⟩
  · exact ⟨_, _, _, readAnswered_ended heot honly h⟩
  · refine ⟨_, _, _, readAnswered_frame heot honly (congrArg Standing.frameIndex h) (fun hinvalid => absurd hinvalid hf)
      fun _ => ⟨congrArg Standing.errCount h, congrArg Standing.lastError h, congrArg Standing.badReads h⟩⟩
  · refine ⟨_, _, _, readAnswered_frame heot honly (congrArg Standing.frameIndex h)
      (fun _ => ⟨rfl, congrArg Standing.errCount h, ?_⟩) fun hgood => absurd rfl hgood⟩
    rw [show t.lastError = _ from congrArg Standing.lastError h, errorWord_code]
    exact he

end answered

/-- `READ_FRAME` always answers OK, in one of the ways of O51. -/
theorem execReadFrame_answered {s : State} (h : trackReady s) : ∃ t more type bytes,
    exec .readFrame s = .next t ∧ ReadAnswered s t more type bytes := by
  cases heot : s.fx.eot with
  | true =>
    refine ⟨_, 0, 0, [], execReadFrame_afterEnd h heot, ?_, fun _ => ⟨rfl, rfl, rfl⟩, .inl ⟨rfl, rfl, rfl, heot⟩,
      fun h => absurd h (by decide), fun _ => ⟨rfl, rfl, rfl⟩⟩
    rw [List.append_nil]
    rfl
  | false =>
    obtain ⟨more, type, bytes, hanswered⟩ := s.readKind_outcome.answered heot s.readKind_only
    exact ⟨_, more, type, bytes, execReadFrame_reads h heot, hanswered⟩

end Sys2Proof.Machine
end

section
/-! PROOFS (O51, discs). The read loop of a disc (47_fx_sector.md R510, R520 to R524) follows `nextDiscFrame` over the
items that are left: every turn either leaves what `nextDiscFrame` comes to as it was, with fewer turns to go, or ends
the call as it says. -/

-- One thread: the check limits the memory of a compile, and each thread reserves its own.
set_option Elab.async false

open Sys2Proof.Claims

namespace Sys2Proof.Machine

/-! ## The items left -/

/-- The items of packet `j` of a sector: one if it is an audio packet (47_fx_sector.md R510). -/
def packetItems (lsn : Nat) (b : List Byte) (j : Nat) : List DiscItem :=
  if beField b (1 + 2 * j) 2 / 2 ^ 11 % 8 = 2 then
    [.packet lsn (beField b (1 + 2 * j) 2 / 2 ^ 15 = 1) (beField b 0 1 % 2 = 1)
      (slice b (packetOffset b j) (packetLength b j))]
  else []

theorem audioPackets_none {lsn i : Nat} {b : List Byte} (h : beField b 0 1 / 2 ^ 5 ≤ i) :
    audioPackets lsn b i = [] := by
  rw [audioPackets, List.drop_of_length_le (by rw [List.length_range]; exact h)]
  rfl

theorem audioPackets_first {lsn i : Nat} {b : List Byte} (h : i < beField b 0 1 / 2 ^ 5) :
    audioPackets lsn b i = packetItems lsn b i ++ audioPackets lsn b (i + 1) := by
  rw [audioPackets, List.drop_eq_getElem_cons (by rw [List.length_range]; exact h), List.getElem_range,
    List.flatMap_cons]
  rfl

/-- Where the data of the next packet begin. -/
theorem packetOffset_succ (b : List Byte) (i : Nat) : packetOffset b (i + 1) = packetOffset b i + packetLength b i := by
  simp only [packetOffset, List.range_succ, List.map_append, List.sum_append, List.map_cons, List.map_nil,
    List.sum_cons, List.sum_nil]
  omega

theorem packetOffset_mono (b : List Byte) {i j : Nat} (h : i ≤ j) : packetOffset b i ≤ packetOffset b j := by
  induction h with
  | refl => exact Nat.le_refl _
  | step _ ih => rw [packetOffset_succ]; omega

/-- What a sector read depends on. -/
def State.discPort (s : State) : List Host.Cell × BitVec 64 × List MediumAnswer × Bool :=
  (s.medium, s.mediumSize, s.answers, s.fx.sec.psn)

theorem sectorRead_congr {s t : State} (h : s.discPort = t.discPort) (lsn : Nat) :
    (s.sectorRead lsn).1 = (t.sectorRead lsn).1 ∧ (s.sectorRead lsn).2.discPort = (t.sectorRead lsn).2.discPort := by
  simp only [State.discPort, Prod.mk.injEq] at h
  obtain ⟨hmedium, hsize, hanswers, hpsn⟩ := h
  simp only [State.sectorRead, State.mediumRead, State.mediumBytes, State.discPort, hmedium, hsize, hanswers, hpsn]
  split <;> simp [hmedium, hsize, hanswers, hpsn]

theorem itemsAhead_congr : ∀ (n lsn : Nat) {s t : State}, s.discPort = t.discPort →
    itemsAhead n s lsn = itemsAhead n t lsn
  | 0, _, _, _, _ => rfl
  | n + 1, lsn, s, t, h => by
    obtain ⟨hbytes, hport⟩ := sectorRead_congr h lsn
    rw [itemsAhead, itemsAhead, hbytes, itemsAhead_congr n (lsn + 1) hport]

/-- The packets not used of the sector held. -/
def Sec.items (sec : Sec) : List DiscItem :=
  if sec.pktCount ≤ sec.pktIdx then [] else audioPackets (sec.curLsn - 1) sec.secbuf sec.pktIdx

/-- How many sectors of the track are to come. -/
def Sec.sectorsLeft (sec : Sec) : Nat := sec.trackStartLsn + sec.trackLenLsn - sec.curLsn

theorem discItems_eq (s : State) :
    discItems s = s.fx.sec.items ++ itemsAhead s.fx.sec.sectorsLeft s s.fx.sec.curLsn := rfl

/-- The registers of the sector held are those of its bytes (47_fx_sector.md R510, R520). -/
def Sec.Holds (sec : Sec) : Prop :=
  sec.secbuf.length = 2048 ∧ sec.pktCount = beField sec.secbuf 0 1 / 2 ^ 5 ∧
  sec.secDst = decide (beField sec.secbuf 0 1 % 2 = 1) ∧
  sec.pkt = (List.range sec.pktCount).map (fun i =>
    { frameStart := decide (beField sec.secbuf (1 + 2 * i) 2 / 2 ^ 15 = 1)
      dataType := beField sec.secbuf (1 + 2 * i) 2 / 2 ^ 11 % 8, length := packetLength sec.secbuf i }) ∧
  sec.bufOff = packetOffset sec.secbuf sec.pktIdx ∧ packetOffset sec.secbuf sec.pktCount ≤ 2048

/-- The reader without the frame in progress: all that the items left depend on. -/
def Sec.forget (sec : Sec) : Sec := { sec with asmBuf := [], asmSize := 0, asmStarted := false, asmDst := false }

/-- The items left depend on the medium and on where the reader stands, not on the frame in progress. -/
theorem discItems_congr {s t : State} (hport : s.discPort = t.discPort) (hsec : s.fx.sec.forget = t.fx.sec.forget) :
    discItems s = discItems t := by
  show s.fx.sec.forget.items ++ itemsAhead s.fx.sec.forget.sectorsLeft s s.fx.sec.forget.curLsn =
    t.fx.sec.forget.items ++ itemsAhead t.fx.sec.forget.sectorsLeft t t.fx.sec.forget.curLsn
  rw [hsec, itemsAhead_congr _ _ hport]

theorem Sec.begin_forget (sec : Sec) : sec.begin.forget = sec.forget := by
  unfold Sec.begin
  split <;> rfl

/-! ## The sector held -/

namespace Sec.Holds

variable {sec : Sec} (h : sec.Holds) (hleft : sec.pktIdx < sec.pktCount)
include h

theorem of_forget {sec' : Sec} (hsec : sec'.forget = sec.forget) : sec'.Holds := by
  have hholds : sec'.forget.Holds = sec.forget.Holds := congrArg Sec.Holds hsec
  exact hholds.mpr h

include hleft

/-- The packet in hand is the one the sector's bytes describe. -/
theorem packet : sec.packet =
    { frameStart := decide (beField sec.secbuf (1 + 2 * sec.pktIdx) 2 / 2 ^ 15 = 1)
      dataType := beField sec.secbuf (1 + 2 * sec.pktIdx) 2 / 2 ^ 11 % 8
      length := packetLength sec.secbuf sec.pktIdx } := by
  obtain ⟨-, -, -, hpkt, -, -⟩ := h
  rw [Sec.packet, hpkt, List.getD_eq_getElem?_getD, List.getElem?_map, List.getElem?_range hleft]
  rfl

theorem consume : sec.consume.Holds := by
  have hpacket := h.packet hleft
  obtain ⟨hlen, hcount, hdst, hpkt, hoff, hinside⟩ := h
  refine ⟨hlen, hcount, hdst, hpkt, ?_, hinside⟩
  show sec.bufOff + sec.packet.length = packetOffset sec.secbuf (sec.pktIdx + 1)
  rw [hoff, packetOffset_succ, hpacket]

/-- The data of the packet in hand lie in the sector (47_fx_sector.md R523). -/
theorem data : bufBytes sec.secbuf sec.bufOff sec.packet.length =
    slice sec.secbuf (packetOffset sec.secbuf sec.pktIdx) (packetLength sec.secbuf sec.pktIdx) := by
  have hpacket := h.packet hleft
  obtain ⟨hlen, -, -, -, hoff, hinside⟩ := h
  have hmono := packetOffset_mono sec.secbuf (Nat.succ_le_of_lt hleft)
  rw [packetOffset_succ] at hmono
  rw [hpacket, hoff, bufBytes_eq _ _ _ (by dsimp only; omega)]
  rfl

/-- The items left of the sector are those of the packet in hand and the rest. -/
theorem items_cons :
    sec.items = packetItems (sec.curLsn - 1) sec.secbuf sec.pktIdx ++ sec.consume.items := by
  obtain ⟨-, hcount, -⟩ := h
  have hrest : sec.consume.items = audioPackets (sec.curLsn - 1) sec.secbuf (sec.pktIdx + 1) := by
    show (if sec.pktCount ≤ sec.pktIdx + 1 then [] else _) = _
    split
    · next hlast => rw [audioPackets_none (hcount ▸ hlast)]
    · rfl
  rw [Sec.items, if_neg (Nat.not_le.mpr hleft), audioPackets_first (hcount ▸ hleft), hrest]

end Sec.Holds

/-- A sector that has just been read and claims no more than it holds. -/
theorem Sec.withSector_holds (sec : Sec) {b : List Byte} (hlen : b.length = 2048)
    (hclaim : packetOffset b (beField b 0 1 / 2 ^ 5) ≤ 2048) : (sec.withSector b).Holds :=
  ⟨hlen, rfl, rfl, rfl, rfl, hclaim⟩

theorem Sec.withSector_items (sec : Sec) (b : List Byte) :
    (sec.withSector b).items = audioPackets (sec.curLsn - 1) b 0 := by
  show (if beField b 0 1 / 2 ^ 5 ≤ 0 then [] else _) = _
  split
  · next h => rw [audioPackets_none h]
  · rfl

/-- What the descriptors claim, as where the data behind the last packet would begin. -/
theorem Sec.withSector_claimed (sec : Sec) (b : List Byte) :
    (sec.withSector b).claimed = packetOffset b (beField b 0 1 / 2 ^ 5) := by
  have hlengths : (sec.withSector b).pkt.map Packet.length =
      (List.range (beField b 0 1 / 2 ^ 5)).map (packetLength b) := by
    show ((List.range _).map (packetAt b)).map Packet.length = _
    rw [List.map_map]
    rfl
  rw [Sec.claimed, hlengths]
  rfl

/-! ## The frame in progress -/

/-- The frame so far: whether of DST data, and its bytes. -/
def Sec.begun (sec : Sec) : Option (Bool × List Byte) :=
  if sec.asmStarted = true then some (sec.asmDst, sec.asmBuf.take sec.asmSize) else none

/-- The reader's registers say what is left of the track and of the frame in progress. -/
structure State.DiscReading (s : State) : Prop where
  held : sectorHeld s
  assembled : s.fx.sec.asmStarted = true → s.fx.sec.asmSize ≤ s.fx.sec.asmBuf.length

/-- What the call comes to from here, and what it leaves (47_fx_sector.md R520). -/
def State.discFrame (s : State) : DiscFrame × List DiscItem :=
  nextDiscFrame (fun dst => if dst then 112897 else fullFrame s) s.fx.sec.begun (discItems s)

/-- What a call keeps of the extractor. -/
def Fx.discKept (fx : Fx) : Fx :=
  { fx with
    badReads := 0, cursor := 0
    sec := { Fx.reset.sec with
      psn := fx.sec.psn, area1 := fx.sec.area1, area2 := fx.sec.area2, trackStartLsn := fx.sec.trackStartLsn
      trackLenLsn := fx.sec.trackLenLsn } }

/-! ## How a call ends -/

/-- An error counted and recorded (60_exceptions.md R601, R607). -/
def Standing.recorded (x : Standing) : Option (Nat × Nat) → Standing
  | none => x
  | some (code, info) => { x with
      errCount := satInc x.errCount, lastError := BitVec.ofNat 32 (code + info % 2 ^ 24 * 2 ^ 8)
      badReads := if code = 0x12 then satInc x.badReads else x.badReads }

/-- The frame `o` given and the standing `y` left are as the answer says, from the standing `x`. -/
def DiscAnswered (x y : Standing) (o : Option Frame) : Option (Nat × List Byte × Option (Nat × Nat)) → Prop
  | none => o = none ∧ y = x
  | some (type, bytes, exc) => ∃ f, o = some f ∧ f.type.code = type ∧ f.bytes = bytes ∧ y = x.recorded exc

/-- The call from `s` ended with `r`, as `d` says. -/
structure DiscEnds (s : State) (d : DiscFrame × List DiscItem) (r : Option Frame × State) : Prop where
  items : discItems r.2 = d.2
  held : sectorHeld r.2
  idle : r.2.fx.sec.asmStarted = false
  kept : r.2.fx.discKept = s.fx.discKept
  answer : DiscAnswered s.standing r.2.standing r.1 (discAnswer (fullFrame s) d.1)

theorem DiscEnds.after {s t : State} {d : DiscFrame × List DiscItem} {r : Option Frame × State} (h : DiscEnds t d r)
    (hkept : t.fx.discKept = s.fx.discKept) (hstanding : t.standing = s.standing) : DiscEnds s d r := by
  have hfull : fullFrame t = fullFrame s := fullFrame_of_standing (b := s.fx.badReads) hstanding
  exact ⟨h.items, h.held, h.idle, h.kept.trans hkept, hstanding ▸ hfull ▸ h.answer⟩

/-- An `INVALID` frame of any information but that of a bad read. -/
theorem State.invalidFrame_recorded (s : State) {e : Exc} (he : e.code ≠ 0x12) (info : Nat) :
    (s.invalidFrame e info).2.standing = s.standing.recorded (some (e.code, info)) := by
  rw [Standing.recorded, if_neg he]
  rfl

theorem State.badFrame_recorded (s : State) (info : Nat) :
    (s.badFrame info).2.standing = s.standing.recorded (some (0x12, info)) := rfl

/-- A call that gives up in state `t`, with an exception other than a bad read. -/
theorem DiscEnds.invalid {t : State} {d : DiscFrame} {rest : List DiscItem} {e : Exc} {info : Nat} (he : e.code ≠ 0x12)
    (hanswer : discAnswer (fullFrame t) d = some (2, List.replicate (fullFrame t) 0, some (e.code, info)))
    (hitems : discItems t = rest) (hheld : sectorHeld t) (hidle : t.fx.sec.asmStarted = false) :
    DiscEnds t (d, rest) (t.invalidFrame e info) := by
  have hsame : discItems (t.invalidFrame e info).2 = discItems t := discItems_congr rfl rfl
  refine ⟨hsame.trans hitems, hheld, hidle, rfl, ?_⟩
  rw [hanswer]
  exact ⟨_, rfl, rfl, by rw [fullFrame_eq]; rfl, t.invalidFrame_recorded he info⟩

/-- A call that gives up in state `t` with a bad read. -/
theorem DiscEnds.bad {t : State} {rest : List DiscItem} {lsn : Nat} (hitems : discItems t = rest) (hheld : sectorHeld t)
    (hidle : t.fx.sec.asmStarted = false) : DiscEnds t (.lost true lsn, rest) (t.badFrame lsn) := by
  have hsame : discItems (t.badFrame lsn).2 = discItems t := discItems_congr rfl rfl
  refine ⟨hsame.trans hitems, hheld, hidle, rfl, ?_⟩
  exact ⟨_, rfl, rfl, by rw [fullFrame_eq]; rfl, t.badFrame_recorded lsn⟩

/-! ## The end of a frame (47_fx_sector.md R520, R524) -/

section finish
variable {s : State} (h : s.DiscReading) (hstarted : s.fx.sec.asmStarted = true)
include h hstarted

theorem State.finishFrame_ends :
    DiscEnds s (.frame s.fx.sec.asmDst (s.fx.sec.asmBuf.take s.fx.sec.asmSize), discItems s) s.finishFrame := by
  have hitems : discItems (s.setSec { s.fx.sec with asmStarted := false }) = discItems s := discItems_congr rfl rfl
  have hheld : sectorHeld (s.setSec { s.fx.sec with asmStarted := false }) := h.held
  have hlength : (s.fx.sec.asmBuf.take s.fx.sec.asmSize).length = s.fx.sec.asmSize :=
    List.length_take_of_le (h.assembled hstarted)
  have hbytes : bufBytes s.fx.sec.asmBuf 0 s.fx.sec.asmSize = s.fx.sec.asmBuf.take s.fx.sec.asmSize := by
    rw [bufBytes_eq _ _ _ (by rw [Nat.zero_add]; exact h.assembled hstarted), List.drop_zero]
  unfold State.finishFrame
  dsimp only
  rw [← fullFrame_eq]
  split
  · next hshort =>
    refine (DiscEnds.invalid (by decide) ?_ hitems hheld rfl).after rfl rfl
    rw [discAnswer, if_neg (by simp [hshort.1]), hlength]
    exact if_neg hshort.2
  · next hfull =>
    refine ⟨hitems, hheld, rfl, rfl, ?_⟩
    rw [discAnswer, hlength]
    split
    · exact ⟨_, rfl, rfl, hbytes, rfl⟩
    · next hdst =>
      rw [Bool.not_eq_true] at hdst
      rw [if_pos (by_contra fun hne => hfull ⟨hdst, hne⟩)]
      exact ⟨_, rfl, rfl, hbytes, rfl⟩

/-- Nothing is left, or the packet in hand begins another frame: `nextDiscFrame` ends with the frame in progress. -/
theorem State.finishFrame_discFrame
    (hitems : discItems s = [] ∨ ∃ lsn dst data rest, discItems s = .packet lsn true dst data :: rest) :
    DiscEnds s s.discFrame s.finishFrame := by
  have hends := State.finishFrame_ends h hstarted
  rw [State.discFrame, Sec.begun, if_pos hstarted]
  rcases hitems with hitems | ⟨lsn, dst, data, rest, hitems⟩ <;>
  · rw [hitems] at hends ⊢
    exact hends

end finish

end Sys2Proof.Machine
end

section
/-! PROOFS (O51, end). The turns of a disc's read loop (47_fx_sector.md R520), the call by induction on them, and what
`READ_FRAME` answers. -/

-- One thread: the check limits the memory of a compile, and each thread reserves its own.
set_option Elab.async false

open Sys2Proof.Claims

namespace Sys2Proof.Machine

/-- A turn of the loop: it ends the call as `nextDiscFrame` says, or goes on with the same to come to, in fewer
turns. -/
def DiscTurn (s : State) : Option (Option Frame × State) × State → Prop
  | (some r, _) => DiscEnds s s.discFrame r
  | (none, t) => t.DiscReading ∧ t.discFrame = s.discFrame ∧ t.fx.discKept = s.fx.discKept ∧ t.standing = s.standing ∧
      t.fx.sec.turns < s.fx.sec.turns

/-! ## A packet is taken -/

section packet
variable {s : State} (h : s.DiscReading) (hleft : s.fx.sec.pktIdx < s.fx.sec.pktCount)

include h hleft in
theorem State.DiscReading.holds : s.fx.sec.Holds := h.held.resolve_left (Nat.not_le.mpr hleft)

/-- The audio packet in hand, as an item. -/
def Sec.packetItem (sec : Sec) : DiscItem :=
  .packet (sec.curLsn - 1) sec.packet.frameStart sec.secDst (bufBytes sec.secbuf sec.bufOff sec.packet.length)

section items
variable {sec : Sec} (hholds : sec.Holds) (hidx : sec.pktIdx < sec.pktCount)
include hholds hidx

theorem packetItems_other (hdata : sec.packet.dataType ≠ 2) :
    packetItems (sec.curLsn - 1) sec.secbuf sec.pktIdx = [] := by
  rw [hholds.packet hidx] at hdata
  exact if_neg hdata

theorem packetItems_audio (hdata : sec.packet.dataType = 2) :
    packetItems (sec.curLsn - 1) sec.secbuf sec.pktIdx = [sec.packetItem] := by
  obtain ⟨-, -, hdst, -⟩ := id hholds
  rw [Sec.packetItem, hholds.data hidx, hdst]
  rw [hholds.packet hidx] at hdata ⊢
  exact if_pos hdata

end items

include h hleft in
/-- What is left is the packet in hand and what is left behind it. -/
theorem discItems_cons : discItems s =
    packetItems (s.fx.sec.curLsn - 1) s.fx.sec.secbuf s.fx.sec.pktIdx ++ discItems (s.setSec s.fx.sec.consume) := by
  have hahead : itemsAhead s.fx.sec.sectorsLeft s s.fx.sec.curLsn =
      itemsAhead s.fx.sec.sectorsLeft (s.setSec s.fx.sec.consume) s.fx.sec.curLsn := itemsAhead_congr _ _ rfl
  rw [discItems_eq, (h.holds hleft).items_cons hleft, List.append_assoc, hahead]
  rfl

/-- Beside the frame in progress, two sector readers at the same place. -/
theorem discItems_setSec {sec sec' : Sec} (hsec : sec'.forget = sec.forget) :
    discItems (s.setSec sec') = discItems (s.setSec sec) := by
  refine discItems_congr ?_ hsec
  have hpsn := congrArg Sec.psn hsec
  change sec'.psn = sec.psn at hpsn
  show (s.medium, s.mediumSize, s.answers, sec'.psn) = (s.medium, s.mediumSize, s.answers, sec.psn)
  rw [hpsn]

theorem discKept_setSec {sec : Sec} (hsec : sec.forget = s.fx.sec.consume.forget) :
    (s.setSec sec).fx.discKept = s.fx.discKept := by
  show ({ s.fx with sec := sec.forget } : Fx).discKept = _
  rw [hsec]
  rfl

include h hleft in
/-- The packet in hand is used up and the loop goes on, whatever became of the frame in progress. -/
theorem DiscTurn.goesOn {sec : Sec} (hsec : sec.forget = s.fx.sec.consume.forget)
    (hassembled : sec.asmStarted = true → sec.asmSize ≤ sec.asmBuf.length)
    (hframe : nextDiscFrame (fun dst => if dst then 112897 else fullFrame s) sec.begun
      (discItems (s.setSec s.fx.sec.consume)) = s.discFrame) : DiscTurn s (none, s.setSec sec) := by
  have hheld := ((h.holds hleft).consume hleft).of_forget hsec
  refine ⟨⟨.inr hheld, hassembled⟩, ?_, discKept_setSec hsec, rfl, ?_⟩
  · rw [← hframe, ← discItems_setSec hsec]
    rfl
  · have hturns := congrArg Sec.turns hsec
    change sec.turns = s.fx.sec.consume.turns at hturns
    show sec.turns < _
    rw [hturns]
    show 8 * (s.fx.sec.trackStartLsn + s.fx.sec.trackLenLsn - s.fx.sec.curLsn) +
      (s.fx.sec.pktCount - (s.fx.sec.pktIdx + 1)) + 1 < s.fx.sec.turns
    rw [Sec.turns]
    omega

/-- The capacity of a frame (47_fx_sector.md R520). -/
theorem capacity_eq (sec : Sec) :
    ({ s.fx with sec := sec } : Fx).capacity = if sec.asmDst then 112897 else fullFrame s := by
  rw [fullFrame_eq, Fx.capacity, Config.inCap_eq]
  rfl

include h in
/-- The packet in hand begins a frame or continues the one in progress: it is added, unless that is too much. -/
theorem nextDiscFrame_begin (cap : Bool → Nat) (rest : List DiscItem)
    (hnext : ¬ (s.fx.sec.packet.frameStart = true ∧ s.fx.sec.asmStarted = true))
    (hstarted : s.fx.sec.begin.asmStarted = true) :
    nextDiscFrame cap s.fx.sec.begun (s.fx.sec.packetItem :: rest) =
      if cap s.fx.sec.begin.asmDst < s.fx.sec.begin.asmSize + s.fx.sec.packet.length then
        (.overflow (s.fx.sec.curLsn - 1), rest)
      else nextDiscFrame cap (some (s.fx.sec.begin.asmDst, s.fx.sec.begin.asmBuf.take s.fx.sec.begin.asmSize ++
        bufBytes s.fx.sec.secbuf s.fx.sec.bufOff s.fx.sec.packet.length)) rest := by
  by_cases hfirst : s.fx.sec.packet.frameStart = true
  · have hidle : ¬ s.fx.sec.asmStarted = true := fun hrun => hnext ⟨hfirst, hrun⟩
    simp [Sec.packetItem, Sec.begun, Sec.begin, hfirst, hidle, nextDiscFrame]
  · rw [Sec.begin, if_neg hfirst] at hstarted ⊢
    have hlength := List.length_take_of_le (h.assembled hstarted)
    simp [Sec.packetItem, Sec.begun, hfirst, hstarted, nextDiscFrame, hlength]

/-- Bytes written behind others read back with them. -/
theorem take_append_overwrite {α : Type} (bs old new : List α) :
    (bs ++ overwrite old new).take (bs.length + new.length) = bs ++ new := by
  rw [overwrite, ← List.append_assoc, List.take_left' List.length_append]

theorem Sec.append_begun (sec : Sec) (hstarted : sec.asmStarted = true) (hassembled : sec.asmSize ≤ sec.asmBuf.length) :
    sec.append.consume.begun =
      some (sec.asmDst, sec.asmBuf.take sec.asmSize ++ bufBytes sec.secbuf sec.bufOff sec.packet.length) := by
  have htake := take_append_overwrite (sec.asmBuf.take sec.asmSize) (sec.asmBuf.drop sec.asmSize)
    (bufBytes sec.secbuf sec.bufOff sec.packet.length)
  rw [List.length_take_of_le hassembled, length_bufBytes] at htake
  rw [← htake]
  exact if_pos hstarted

theorem Sec.append_assembled (sec : Sec) (hassembled : sec.asmSize ≤ sec.asmBuf.length) :
    sec.append.consume.asmSize ≤ sec.append.consume.asmBuf.length := by
  show sec.asmSize + sec.packet.length ≤ (_ ++ overwrite _ _ : List Byte).length
  rw [List.length_append, List.length_take_of_le hassembled, length_overwrite, length_bufBytes]
  omega

include h in
theorem Sec.begin_assembled :
    s.fx.sec.begin.asmStarted = true → s.fx.sec.begin.asmSize ≤ s.fx.sec.begin.asmBuf.length := by
  unfold Sec.begin
  split
  · exact fun _ => Nat.zero_le _
  · exact h.assembled

include h hleft in
/-- Taking a packet is a turn (47_fx_sector.md R520, R523). -/
theorem State.takePacket_turn : DiscTurn s s.takePacket := by
  have hholds := h.holds hleft
  have hitems := discItems_cons h hleft
  unfold State.takePacket
  dsimp only
  split
  · next hother =>
    rw [packetItems_other hholds hleft hother, List.nil_append] at hitems
    refine .goesOn h hleft rfl h.assembled ?_
    rw [State.discFrame, hitems]
    rfl
  next hdata =>
  rw [packetItems_audio hholds hleft (not_not.mp hdata), List.singleton_append] at hitems
  have hbegin := s.fx.sec.begin_forget
  split
  · next hnext =>
    rw [Sec.packetItem, hnext.1] at hitems
    exact State.finishFrame_discFrame h hnext.2 (.inr ⟨_, _, _, _, hitems⟩)
  next hnext =>
  have hconsume : s.fx.sec.begin.consume.forget = s.fx.sec.consume.forget := congrArg Sec.consume hbegin
  split
  · next hidle =>
    have hfirst : ¬ s.fx.sec.packet.frameStart = true := fun hfirst => by simp [Sec.begin, hfirst] at hidle
    rw [Sec.begin, if_neg hfirst] at hidle ⊢
    refine .goesOn h hleft rfl h.assembled ?_
    rw [State.discFrame, hitems]
    simp [Sec.begun, Sec.consume, hidle, Sec.packetItem, hfirst, nextDiscFrame]
  next hstarted =>
  rw [Bool.not_eq_false] at hstarted
  have hframe := nextDiscFrame_begin h (fun dst => if dst then 112897 else fullFrame s)
    (discItems (s.setSec s.fx.sec.consume)) hnext hstarted
  rw [← hitems] at hframe
  have hassembled := Sec.begin_assembled h hstarted
  rw [capacity_eq]
  by_cases hover : (if s.fx.sec.begin.asmDst then 112897 else fullFrame s) <
      s.fx.sec.begin.asmSize + s.fx.sec.packet.length
  · rw [if_pos hover] at hframe ⊢
    have hgone : (s.fx.sec.begin.consume.abandon false).forget = s.fx.sec.consume.forget := hconsume
    show DiscEnds s s.discFrame _
    rw [State.discFrame, hframe]
    refine (DiscEnds.invalid (by decide) rfl (discItems_setSec hgone) ?_ rfl).after (discKept_setSec hgone) rfl
    exact .inr ((hholds.consume hleft).of_forget hgone)
  · rw [if_neg hover] at hframe ⊢
    refine .goesOn h hleft hconsume (fun _ => s.fx.sec.begin.append_assembled hassembled) ?_
    rw [Sec.append_begun _ hstarted hassembled, Sec.begin_packet, State.discFrame, hframe]
    unfold Sec.begin
    split <;> rfl

end packet

/-! ## A sector is fetched -/

section fetch
variable {s : State} (hnone : s.fx.sec.pktCount ≤ s.fx.sec.pktIdx)
  (hmore : s.fx.sec.curLsn < s.fx.sec.trackStartLsn + s.fx.sec.trackLenLsn)

/-- What is left behind the next sector. -/
def State.itemsBehind (s : State) : List DiscItem :=
  itemsAhead (s.fx.sec.sectorsLeft - 1) (s.sectorRead s.fx.sec.curLsn).2 (s.fx.sec.curLsn + 1)

include hnone hmore in
theorem discItems_fetch :
    discItems s = sectorItems s.fx.sec.curLsn (s.sectorRead s.fx.sec.curLsn).1 ++ s.itemsBehind := by
  obtain ⟨n, hn⟩ : ∃ n, s.fx.sec.sectorsLeft = n + 1 := Nat.exists_eq_succ_of_ne_zero (by rw [Sec.sectorsLeft]; omega)
  rw [discItems_eq, Sec.items, if_pos hnone, State.itemsBehind, hn]
  rfl

/-- What is left once the sector has been passed, whatever is held of it. -/
theorem discItems_passed {sec : Sec} (hpsn : sec.psn = s.fx.sec.psn) (hlsn : sec.curLsn = s.fx.sec.curLsn + 1)
    (hstart : sec.trackStartLsn = s.fx.sec.trackStartLsn) (hlen : sec.trackLenLsn = s.fx.sec.trackLenLsn) :
    discItems (s.passSector.setSec sec) = sec.items ++ s.itemsBehind := by
  have hport : (s.passSector.setSec sec).discPort = (s.sectorRead s.fx.sec.curLsn).2.discPort := by
    have hfx : (s.sectorRead s.fx.sec.curLsn).2.fx = s.fx := s.mediumRead_fx _ _
    show (_, _, _, sec.psn) = (_, _, _, (s.sectorRead s.fx.sec.curLsn).2.fx.sec.psn)
    rw [hfx, hpsn]
    rfl
  have hleft : sec.sectorsLeft = s.fx.sec.sectorsLeft - 1 := by
    rw [Sec.sectorsLeft, Sec.sectorsLeft, hlsn, hstart, hlen]
    omega
  show sec.items ++ itemsAhead sec.sectorsLeft (s.passSector.setSec sec) sec.curLsn = _
  rw [itemsAhead_congr _ _ hport, hleft, hlsn]
  rfl

/-- The bytes of the next sector. -/
def State.nextSector (s : State) : List Byte := (s.sectorRead s.fx.sec.curLsn).1

/-- The reader with the next sector in hand. -/
def State.nextHeld (s : State) : Sec := s.passSector.fx.sec.withSector s.nextSector

theorem State.nextHeld_claimed (s : State) :
    s.nextHeld.claimed = packetOffset s.nextSector (beField s.nextSector 0 1 / 2 ^ 5) := Sec.withSector_claimed _ _

theorem State.fetchSector_short (hshort : s.nextSector.length < 2048) :
    s.fetchSector = (some ((s.passSector.setSec (s.passSector.fx.sec.abandon true)).badFrame s.fx.sec.curLsn),
      s.passSector.setSec (s.passSector.fx.sec.abandon true)) := if_pos hshort

theorem State.fetchSector_over (hfull : ¬ s.nextSector.length < 2048) (hover : 2048 < s.nextHeld.claimed) :
    s.fetchSector =
      (some ((s.passSector.setSec (s.nextHeld.abandon true)).invalidFrame .bufferOverflow s.fx.sec.curLsn),
        s.passSector.setSec (s.nextHeld.abandon true)) := (if_neg hfull).trans (if_pos hover)

theorem State.fetchSector_held (hfull : ¬ s.nextSector.length < 2048) (hroom : ¬ 2048 < s.nextHeld.claimed) :
    s.fetchSector = (none, s.passSector.setSec s.nextHeld) := (if_neg hfull).trans (if_neg hroom)

/-- A sector in hand leaves fewer turns than the fetch: it has at most 7 packets. -/
theorem State.nextHeld_turns (hmore : s.fx.sec.curLsn < s.fx.sec.trackStartLsn + s.fx.sec.trackLenLsn) :
    s.nextHeld.turns < s.fx.sec.turns := by
  have hcount : s.nextHeld.pktCount ≤ 7 := Sec.withSector_pktCount_le _ _
  show 8 * (s.fx.sec.trackStartLsn + s.fx.sec.trackLenLsn - (s.fx.sec.curLsn + 1)) + (s.nextHeld.pktCount - 0) + 1 <
    8 * (s.fx.sec.trackStartLsn + s.fx.sec.trackLenLsn - s.fx.sec.curLsn) + (s.fx.sec.pktCount - s.fx.sec.pktIdx) + 1
  omega

/-- A sector that is lost ends the call, whatever frame is in progress (47_fx_sector.md R522, R523). -/
theorem discFrame_lost {short : Bool} {lsn : Nat} {rest : List DiscItem} (h : discItems s = .lost short lsn :: rest) :
    s.discFrame = (.lost short lsn, rest) := by
  rw [State.discFrame, h]
  cases s.fx.sec.begun <;> rfl

/-- Fetching a sector is a turn (47_fx_sector.md R520, R522, R523). -/
theorem State.fetchSector_turn (h : s.DiscReading) (hnone : s.fx.sec.pktCount ≤ s.fx.sec.pktIdx)
    (hmore : s.fx.sec.curLsn < s.fx.sec.trackStartLsn + s.fx.sec.trackLenLsn) : DiscTurn s s.fetchSector := by
  have hitems : discItems s = sectorItems s.fx.sec.curLsn s.nextSector ++ s.itemsBehind := discItems_fetch hnone hmore
  have hstanding : ∀ sec, (s.passSector.setSec sec).standing = s.standing := fun _ => s.passSector_standing
  have hclaimed := s.nextHeld_claimed
  unfold sectorItems at hitems
  split at hitems
  · next hshort =>
    rw [State.fetchSector_short hshort]
    show DiscEnds s s.discFrame _
    rw [discFrame_lost hitems]
    refine DiscEnds.after (DiscEnds.bad ?_ ?_ ?_) ?_ (hstanding _)
    · exact discItems_passed rfl rfl rfl rfl
    · exact .inl (Nat.le_refl 0)
    · rfl
    · rfl
  next hfull =>
  split at hitems
  · next hover =>
    rw [State.fetchSector_over hfull (hclaimed ▸ hover)]
    show DiscEnds s s.discFrame _
    rw [discFrame_lost hitems]
    refine DiscEnds.after (DiscEnds.invalid ?_ ?_ ?_ ?_ ?_) ?_ (hstanding _)
    · decide
    · rfl
    · exact discItems_passed rfl rfl rfl rfl
    · exact .inl (Nat.le_refl 0)
    · rfl
    · rfl
  · next hroom =>
    have hlength : s.nextSector.length = 2048 :=
      Nat.le_antisymm (s.mediumRead_spec _ _).1 (Nat.le_of_not_lt hfull)
    have hpassed : discItems (s.passSector.setSec s.nextHeld) = s.nextHeld.items ++ s.itemsBehind :=
      discItems_passed rfl rfl rfl rfl
    have hheld : s.nextHeld.items = audioPackets s.fx.sec.curLsn s.nextSector 0 := Sec.withSector_items _ _
    rw [State.fetchSector_held hfull (hclaimed ▸ hroom)]
    refine ⟨⟨.inr (Sec.withSector_holds _ hlength (Nat.le_of_not_lt hroom)), h.assembled⟩, ?_, rfl, hstanding _,
      State.nextHeld_turns hmore⟩
    rw [State.discFrame, State.discFrame, hpassed, hheld, hitems]
    rfl

end fetch

/-! ## The call -/

/-- The track's sectors are over (47_fx_sector.md R520). -/
theorem State.endOfSectors_ends {s : State} (h : s.DiscReading) (hnone : s.fx.sec.pktCount ≤ s.fx.sec.pktIdx)
    (hend : s.fx.sec.trackStartLsn + s.fx.sec.trackLenLsn ≤ s.fx.sec.curLsn) :
    DiscEnds s s.discFrame s.endOfSectors := by
  have hitems : discItems s = [] := by
    rw [discItems_eq, Sec.items, if_pos hnone, Sec.sectorsLeft, Nat.sub_eq_zero_of_le hend]
    rfl
  unfold State.endOfSectors
  split
  · next hstarted =>
    exact State.finishFrame_discFrame h hstarted (.inl hitems)
  · next hidle =>
    rw [State.discFrame, Sec.begun, if_neg hidle, hitems]
    exact ⟨hitems, h.held, Bool.eq_false_iff.mpr hidle, rfl, rfl, rfl⟩

/-- The loop ends as `nextDiscFrame` says, by induction on the turns it can take. -/
theorem State.sectorLoop_ends : ∀ (fuel : Nat) (s : State), s.fx.sec.turns ≤ fuel → s.DiscReading →
    DiscEnds s s.discFrame (State.sectorLoop fuel s)
  | 0, _, hfuel, _ => absurd hfuel (Nat.not_succ_le_zero _)
  | fuel + 1, s, hfuel, h => by
    have hgo : ∀ {o : Option (Option Frame × State) × State}, DiscTurn s o → DiscEnds s s.discFrame
        (match o with
          | (some r, _) => r
          | (none, t) => State.sectorLoop fuel t) := by
      rintro ⟨_ | r, t⟩ hturn
      · obtain ⟨hreading, hframe, hkept, hstanding, hturns⟩ := hturn
        exact hframe ▸ (State.sectorLoop_ends fuel t (by omega) hreading).after hkept hstanding
      · exact hturn
    rw [State.sectorLoop]
    split
    · next hnone =>
      split
      · next hend => exact State.endOfSectors_ends h hnone hend
      · next hmore => exact hgo (State.fetchSector_turn h hnone (Nat.lt_of_not_le hmore))
    · next hleft => exact hgo (State.takePacket_turn h (Nat.lt_of_not_le hleft))

/-! ## READ_FRAME on a disc -/

/-- What is kept, as the fields that may change. -/
theorem Fx.eq_of_discKept {fx fx' : Fx} (h : fx'.discKept = fx.discKept) : fx' = { fx with
    badReads := fx'.badReads, cursor := fx'.cursor
    sec := { fx'.sec with
      psn := fx.sec.psn, area1 := fx.sec.area1, area2 := fx.sec.area2, trackStartLsn := fx.sec.trackStartLsn
      trackLenLsn := fx.sec.trackLenLsn } } :=
  congrArg (fun kept : Fx => { kept with
    badReads := fx'.badReads, cursor := fx'.cursor
    sec := { fx'.sec with
      psn := kept.sec.psn, area1 := kept.sec.area1, area2 := kept.sec.area2, trackStartLsn := kept.sec.trackStartLsn
      trackLenLsn := kept.sec.trackLenLsn } }) h

/-- What O51 says of the extractor after `READ_FRAME` on a disc. -/
def DiscFxLeft (s t : State) : Prop :=
  t.fx = { s.fx with
    frameIndex := t.fx.frameIndex, eot := t.fx.eot, badReads := t.fx.badReads, cursor := t.fx.cursor
    sec := { t.fx.sec with
      psn := s.fx.sec.psn, area1 := s.fx.sec.area1, area2 := s.fx.sec.area2, trackStartLsn := s.fx.sec.trackStartLsn
      trackLenLsn := s.fx.sec.trackLenLsn } }

/-- What O51 says of the answer of `READ_FRAME` on a disc. -/
def DiscReplied (s t : State) : Option (Nat × List Byte × Option (Nat × Nat)) → Prop
  | none => t = { s with
      fx := t.fx, answers := t.answers, rsp := s.rsp ++ [{ status := 0, value := 0 }] } ∧
      t.fx.eot = true ∧ t.fx.frameIndex = s.fx.frameIndex ∧ t.fx.badReads = s.fx.badReads
  | some (type, bytes, exc) => t = { s with
      fx := t.fx, answers := t.answers, dout := s.dout ++ bytes
      errCount := if exc.isSome then errorCounted s else s.errCount
      lastError := match exc with
        | none => s.lastError
        | some (code, info) => BitVec.ofNat 32 (code + info % 2 ^ 24 * 2 ^ 8)
      rsp := s.rsp ++ [{ status := 0, value := val (bytes.length + type * 2 ^ 24 + 2 ^ 27) }] } ∧
      t.fx.eot = false ∧ t.fx.frameIndex = s.fx.frameIndex + 1 ∧
      t.fx.badReads = if exc.map Prod.fst = some 0x12 then (oneMoreBad s.fx).badReads else s.fx.badReads

/-- `LAST_ERROR` after an exception, or after none (60_exceptions.md R601). -/
def recordedWord (last : Word) : Option (Nat × Nat) → Word
  | none => last
  | some (code, info) => BitVec.ofNat 32 (code + info % 2 ^ 24 * 2 ^ 8)

/-- The counters of an error recorded, or of none, as the statement writes them. -/
theorem recorded_counters {s u : State} {exc : Option (Nat × Nat)} (h : u.standing = s.standing.recorded exc) :
    u.errCount = (if exc.isSome then errorCounted s else s.errCount) ∧
    u.lastError = recordedWord s.lastError exc ∧
    u.fx.badReads = if exc.map Prod.fst = some 0x12 then (oneMoreBad s.fx).badReads else s.fx.badReads := by
  have herr : u.errCount = (s.standing.recorded exc).errCount := congrArg Standing.errCount h
  have hlast : u.lastError = (s.standing.recorded exc).lastError := congrArg Standing.lastError h
  have hbad : u.fx.badReads = (s.standing.recorded exc).badReads := congrArg Standing.badReads h
  rw [herr, hlast, hbad]
  rcases exc with _ | ⟨code, info⟩
  · exact ⟨rfl, rfl, rfl⟩
  · refine ⟨satInc_eq s.errCount, rfl, ?_⟩
    simp only [Standing.recorded, satInc_eq, Option.map_some, Option.some.injEq]
    rfl

section delivered
variable {s u : State} {d : DiscFrame × List DiscItem} {o : Option Frame} (h : DiscEnds s d (o, u))
include h

/-- The delivery keeps what is left of the track. -/
theorem DiscEnds.left : discItems (deliveredOf (o, u)) = d.2 ∧ sectorHeld (deliveredOf (o, u)) ∧
    (deliveredOf (o, u)).fx.sec.asmStarted = false ∧ DiscFxLeft s (deliveredOf (o, u)) := by
  have hfx := Fx.eq_of_discKept h.kept
  dsimp only at hfx
  cases o with
  | none =>
    have hsame : discItems (deliveredOf (none, u)) = discItems u := discItems_congr rfl rfl
    exact ⟨hsame.trans h.items, h.held, h.idle,
      (congrArg (fun fx : Fx => { fx with frameIndex := u.fx.frameIndex, eot := true }) hfx :)⟩
  | some f =>
    have hsame : discItems (deliveredOf (some f, u)) = discItems u := discItems_congr rfl rfl
    exact ⟨hsame.trans h.items, h.held, h.idle,
      (congrArg (fun fx : Fx => { fx with frameIndex := fitWidth 32 (u.fx.frameIndex + 1), eot := u.fx.eot }) hfx :)⟩

/-- The answer is the one of `discAnswer`. -/
theorem DiscEnds.replied (honly : s.FxOnly u) (heot : s.fx.eot = false) (hfit : s.fx.frameIndex + 1 < 2 ^ 32) :
    DiscReplied s (deliveredOf (o, u)) (discAnswer (fullFrame s) d.1) := by
  have hanswer := h.answer
  have hindex : u.fx.frameIndex = s.fx.frameIndex := (congrArg Fx.frameIndex h.kept :)
  have hgoes : u.fx.eot = s.fx.eot := (congrArg Fx.eot h.kept :)
  rcases hcase : discAnswer (fullFrame s) d.1 with _ | ⟨type, bytes, exc⟩ <;> rw [hcase] at hanswer
  · obtain ⟨rfl, hstanding⟩ := hanswer
    obtain ⟨herr, hlast, hbad⟩ := recorded_counters (exc := none) hstanding
    refine ⟨?_, rfl, hindex, hbad⟩
    rw [honly.frame, show u.errCount = s.errCount from herr, show u.lastError = s.lastError from hlast]
    rfl
  · obtain ⟨f, rfl, rfl, rfl, hstanding⟩ := hanswer
    obtain ⟨herr, hlast, hbad⟩ := recorded_counters hstanding
    refine ⟨?_, hgoes.trans heot, ?_, hbad⟩
    · rw [honly.frame, show u.errCount = _ from herr, show u.lastError = _ from hlast]
      rcases exc with _ | ⟨code, info⟩ <;> rfl
    · show fitWidth 32 (u.fx.frameIndex + 1) = _
      rw [hindex, fitWidth_eq hfit]

end delivered

/-- Settles O51: any `read_frame` ends in one of three ways, and that of a disc as `nextDiscFrame` says. -/
theorem readFrameCompletes : Obligations.ReadFrameCompletes := by
  unfold Obligations.ReadFrameCompletes
  refine ⟨fun s hready => ?_, ?_, fun s => execReadFrame_refused⟩
  · obtain ⟨t, more, type, bytes, hexec, hanswered⟩ := execReadFrame_answered hready
    exact ⟨t, more, type, bytes, hexec, hanswered⟩
  · rintro s _ hready heot hkind hidle hheld hfit rfl
    have hreading : s.DiscReading := ⟨hheld, fun hstarted => absurd hstarted (by simp [hidle])⟩
    have hbegun : s.fx.sec.begun = none := if_neg (by simp [hidle])
    have hends := State.sectorLoop_ends s.fx.sec.turns s (Nat.le_refl _) hreading
    have hread : s.readKind = State.sectorLoop s.fx.sec.turns s := by
      rw [State.readKind, hkind]
      rfl
    rw [← hread, State.discFrame, hbegun] at hends
    obtain ⟨hitems, hheld', hidle', hfx⟩ := hends.left
    exact ⟨_, _, execReadFrame_reads hready heot, rfl, hitems, hheld', hidle', hfx,
      hends.replied s.readKind_only heot hfit⟩

end Sys2Proof.Machine
end

section
/-! PROOFS (O14, O20, O23). The unit commands behind the session's ownership and the check of the selected slot
(48_session.md R542, 40_bitreader.md R200 (a)), and the commands of the session that no state refuses: `CLOSE`, `NOP` and
`RESET` (48_session.md R558, R562, R563). -/

-- One thread: the check limits the memory of a compile, and each thread reserves its own.
set_option Elab.async false

open Sys2Proof.Claims

namespace Sys2Proof.Machine

/-! ## Unit commands (48_session.md R542) -/

/-- Settles O14: every unit command stands behind `unlessOwned`, those on the selected slot behind `withFreeSlot` too. -/
theorem unitCommandsAreRefused : Obligations.UnitCommandsAreRefused := by
  unfold Obligations.UnitCommandsAreRefused
  refine ⟨fun s i hsess hunit => ?_, fun s i hsess hslot hunit => ?_⟩
  · cases i with
    | setTrack | readFrame | seek | poolInit | submit | submitDsd | collect | dstDecode | slotRead | brLoad | brReadBit
    | brReadBits | brReadSigned | brReadByteAligned | brRice | acStart | acDecode | pcInit | pcConvert | pcDegibbs | pcPack
    | pcReadf => exact s.unlessOwned_track _ hsess
    | _ => exact hunit.elim
  · cases i with
    | dstDecode | slotRead | brLoad | brReadBit | brReadBits | brReadSigned | brReadByteAligned | brRice | acStart
    | acDecode => exact (s.unlessOwned_free _ hsess).trans (s.withFreeSlot_used _ hslot)
    | _ => exact hunit.elim

/-! ## CLOSE (48_session.md R558) -/

/-- The slots after the teardown: every decode in flight has run, and every slot is cleared. -/
theorem State.slot_closeBody (s : State) (j : Nat) : s.closeBody.slot j = (s.stepped (s.slot j)).cleared :=
  (s.drainBusy.slot_clearRing 0 j).trans (congrArg Slot.cleared (s.slot_drainBusy j))

/-- Settles O20. -/
theorem closeTearsDown : Obligations.CloseTearsDown := by
  unfold Obligations.CloseTearsDown
  intro s
  refine ⟨s.closeBody.okWith 0, rfl, rfl, fun j => ?_⟩
  rw [show (s.closeBody.okWith 0).slot j = _ from s.slot_closeBody j]
  exact ⟨rfl, rfl, rfl, rfl, rfl, rfl, rfl, rfl, rfl⟩

/-! ## NOP and RESET (48_session.md R562, R563) -/

/-- Settles O23: the all-zero word is in the opcode table, and the two commands are their definitions. -/
theorem nopAndReset : Obligations.NopAndReset := by
  unfold Obligations.NopAndReset
  exact ⟨by decide, fun s => s.ok_eq 0, fun s => s.toReset.ok_eq 0⟩

end Sys2Proof.Machine
end

section
/-! PROOFS (O21, O22). `RDREG` and `WRREG` (48_session.md R560, R561; 10_state.md R52, R53): a register that is read is
`State.register`, one that is written is `State.writeReg` behind the checks of the rule. -/

-- One thread: the check limits the memory of a compile, and each thread reserves its own.
set_option Elab.async false

open Sys2Proof.Claims

namespace Sys2Proof.Machine

/-! ## RDREG (48_session.md R560) -/

section rdreg
variable {s : State} {idx v : Nat}

theorem execRdreg_some (h : s.register idx = some v) : exec (.rdreg idx) s = .next (s.okWith (val v)) := by
  show execRdreg idx s = _
  rw [execRdreg, h]
  rfl

theorem execRdreg_none (h : s.register idx = none) : exec (.rdreg idx) s = .next (s.refusedWith 2 idx) := by
  show execRdreg idx s = _
  rw [execRdreg, h]
  exact s.fail_eq .eOperand idx

end rdreg

/-- The table of R52 ends with `COLLECT_SEQ`. -/
theorem State.register_beyond (s : State) {idx : Nat} (h : 0x20 < idx) : s.register idx = none := by
  obtain ⟨n, rfl⟩ := Nat.exists_eq_add_of_le' h
  rfl

/-! ### STATUS (10_state.md R53) -/

/-- The fields of `STATUS` in a word that is their sum: each has its place, and none reaches into the next. -/
theorem statusFields {w sess kind ring state : Nat} {warn called bad start eot : Bool}
    (hw : w = sess + warn.toNat * 2 ^ 2 + called.toNat * 2 ^ 3 + (bad.toNat * 2 ^ 4 + start.toNat * 2 ^ 5 + state * 2 ^ 16)
      + kind * 2 ^ 6 + ring * 2 ^ 8 + eot.toNat * 2 ^ 18)
    (hsess : sess < 4) (hkind : kind < 4) (hring : ring < 256) (hstate : state < 4) :
    w % 4 = sess ∧ w.testBit 2 = warn ∧ w.testBit 3 = called ∧ w.testBit 4 = bad ∧ w.testBit 5 = start ∧
    w / 2 ^ 6 % 4 = kind ∧ w / 2 ^ 8 % 256 = ring ∧ w / 2 ^ 16 % 4 = state ∧ w.testBit 18 = eot ∧ w < 2 ^ 19 := by
  have hbit : ∀ (k : Nat) (b : Bool), w / 2 ^ k % 2 = b.toNat → w.testBit k = b := fun k b h => by
    rw [Nat.testBit_eq_decide_div_mod_eq, h]
    cases b <;> rfl
  have hwarn := warn.toNat_lt
  have hcalled := called.toNat_lt
  have hbad := bad.toNat_lt
  have hstart := start.toNat_lt
  have heot := eot.toNat_lt
  exact ⟨by omega, hbit 2 _ (by omega), hbit 3 _ (by omega), hbit 4 _ (by omega), hbit 5 _ (by omega), by omega, by omega,
    by omega, hbit 18 _ (by omega), by omega⟩

/-- `STATUS` as the sum of its fields; a `BUSY` slot shows neither `br_err` nor `ac_init`. -/
theorem State.statusWord_eq (s : State) (sl : Slot) : s.statusWord sl =
    s.sess.code + (decide (s.warnThreshold.toNat < s.errCount.toNat)).toNat * 2 ^ 2 + s.pc.convertCalled.toNat * 2 ^ 3 +
      ((decide (sl.slotState ≠ .busy) && sl.br.brErr).toNat * 2 ^ 4 +
        (decide (sl.slotState ≠ .busy) && sl.ac.acInit).toNat * 2 ^ 5 + sl.slotState.code * 2 ^ 16) +
      s.fx.kind.code * 2 ^ 6 + s.pool.ringCount % 2 ^ 8 * 2 ^ 8 + s.fx.eot.toNat * 2 ^ 18 := by
  have hslot : slotStatusBits sl = (decide (sl.slotState ≠ .busy) && sl.br.brErr).toNat * 2 ^ 4 +
      (decide (sl.slotState ≠ .busy) && sl.ac.acInit).toNat * 2 ^ 5 + sl.slotState.code * 2 ^ 16 := by
    unfold slotStatusBits
    split
    · next h => simp [h]
    · next h => simp [h]
  rw [State.statusWord, hslot]
  rfl

theorem Sess.code_lt (x : Sess) : x.code < 4 := by cases x <;> decide

theorem FxKind.code_lt (x : FxKind) : x.code < 4 := by cases x <;> decide

theorem SlotState.code_lt (x : SlotState) : x.code < 4 := by cases x <;> decide

/-- Settles O21: the registers one by one, and the fields of STATUS by their places. -/
theorem rdregReadsEveryRegister : Obligations.RdregReadsEveryRegister := by
  unfold Obligations.RdregReadsEveryRegister
  refine ⟨fun s r hr => execRdreg_some ?_, fun s r hr => execRdreg_some ?_, fun s hring => ?_,
    fun s idx hidx => execRdreg_none (s.register_beyond hidx)⟩
  · fin_cases hr <;> rfl
  · fin_cases hr <;> rfl
  · obtain ⟨hsess, hwarn, hcalled, hbad, hstart, hkind, hcount, hstate, heot, hlt⟩ :=
      statusFields (s.statusWord_eq s.selected) s.sess.code_lt s.fx.kind.code_lt
        (Nat.mod_lt s.pool.ringCount (by decide)) s.selected.slotState.code_lt
    refine ⟨_, execRdreg_some rfl, hsess, ?_, ?_, ?_, ?_, hkind,
      hcount.trans (Nat.mod_eq_of_lt hring), hstate, ?_, hlt⟩
    · rw [hwarn, decide_eq_true_iff]
    · rw [hcalled]
    · rw [hbad, Bool.and_eq_true, decide_eq_true_iff]
    · rw [hstart, Bool.and_eq_true, decide_eq_true_iff]
    · rw [heot]

/-! ## WRREG (48_session.md R561) -/

section wrreg
variable {s : State} {idx v : Nat}

theorem execWrreg_none (h : writableReg idx = none) : exec (.wrreg idx v) s = .next (s.refusedWith 2 idx) := by
  show execWrreg idx v s = _
  rw [execWrreg, h]
  exact s.fail_eq .eOperand idx

variable {r : WritableReg} (hr : writableReg idx = some r)
include hr

/-- The checks of a writable register, in the order of the rule. -/
theorem execWrreg_some : exec (.wrreg idx v) s =
    if r.legal v = false then .next (s.refusedWith 2 v)
    else if s.sess = .track ∧ r.trackParameter = true then .next (s.refusedWith 3 2)
    else if r = .dstFb ∧ s.pool.ringCount ≠ 0 then .next (s.refusedWith 3 s.pool.ringCount)
    else .next ((s.writeReg r v).okWith (val v)) := by
  have hoperand : s.fail .eOperand (val v) = .next (s.refusedWith 2 v) := s.fail_eq .eOperand v
  have howned : s.fail .eState 2 = .next (s.refusedWith 3 2) := s.fail_eq .eState 2
  have hjobs : s.fail .eState (val s.pool.ringCount) = .next (s.refusedWith 3 s.pool.ringCount) := s.fail_eq .eState _
  show execWrreg idx v s = _
  rw [execWrreg, hr, ← hoperand, ← howned, ← hjobs]
  rfl

theorem execWrreg_illegal (hv : r.legal v = false) : exec (.wrreg idx v) s = .next (s.refusedWith 2 v) :=
  (execWrreg_some hr).trans (if_pos hv)

variable (hv : r.legal v = true)
include hv

theorem execWrreg_owned (hsess : s.sess = .track) (hparam : r.trackParameter = true) :
    exec (.wrreg idx v) s = .next (s.refusedWith 3 2) :=
  (execWrreg_some hr).trans <| (if_neg (by simp [hv])).trans (if_pos ⟨hsess, hparam⟩)

theorem execWrreg_writes (howned : ¬ (s.sess = .track ∧ r.trackParameter = true))
    (hjobs : ¬ (r = .dstFb ∧ s.pool.ringCount ≠ 0)) :
    exec (.wrreg idx v) s = .next ((s.writeReg r v).okWith (val v)) :=
  (execWrreg_some hr).trans <| (if_neg (by simp [hv])).trans <| (if_neg howned).trans (if_neg hjobs)

/-- A legal value of 16 bits fits its register, and reads back. -/
theorem State.register_writeReg (hfit : v < 2 ^ 16) : (s.writeReg r v).register idx = some v := by
  unfold writableReg at hr
  split at hr <;> cases hr
  case h_7 =>
    have hbyte : v < 2 ^ 8 := Nat.lt_succ_of_le (of_decide_eq_true hv)
    exact congrArg some ((BitVec.toNat_ofNat v 8).trans (Nat.mod_eq_of_lt hbyte))
  case h_1 | h_5 | h_6 => exact congrArg some ((BitVec.toNat_ofNat v 16).trans (Nat.mod_eq_of_lt hfit))
  case h_2 | h_3 | h_4 => rfl

end wrreg

/-- The indices of the writable registers (10_state.md R52). -/
theorem mem_of_writableReg {idx : Nat} {r : WritableReg} (h : writableReg idx = some r) :
    idx ∈ [0x03, 0x04, 0x06, 0x08, 0x09, 0x0A, 0x0B] := by
  unfold writableReg at h
  split at h <;> cases h <;> decide

theorem State.okWith_inj {s t : State} {v w : Value} (h : s.okWith v = t.okWith w) : s = t := by
  have hrsp : s.rsp = t.rsp := List.append_inj_left' (congrArg State.rsp h) rfl
  calc s = { s.okWith v with rsp := s.rsp } := rfl
    _ = { t.okWith w with rsp := t.rsp } := by rw [h, hrsp]
    _ = t := rfl

/-- An exception is no answer of status OK. -/
theorem State.refusedWith_ne_okWith {s t : State} {code n : Nat} {v : Value} (hcode : BitVec.ofNat 8 code ≠ 0) :
    s.refusedWith code n ≠ t.okWith v := fun h => by
  have hresponse := List.cons.inj (List.append_inj_right' (congrArg State.rsp h) rfl)
  exact hcode (congrArg Response.status hresponse.1)

/-- A value that `WRREG` has accepted is the value of the register (48_session.md R561). -/
theorem State.register_of_execWrreg {s t : State} {idx v : Nat} (hfit : v < 2 ^ 16)
    (h : exec (.wrreg idx v) s = .next (t.okWith (val v))) : t.register idx = some v := by
  have hrefused : ∀ code n, BitVec.ofNat 8 code ≠ 0 → exec (.wrreg idx v) s ≠ .next (s.refusedWith code n) :=
    fun code n hcode hr => State.refusedWith_ne_okWith hcode (Host.Outcome.next.inj (hr.symm.trans h))
  cases hr : writableReg idx with
  | none => exact absurd (execWrreg_none hr) (hrefused 2 idx (by decide))
  | some r =>
    have hexec := execWrreg_some (s := s) (v := v) hr
    split at hexec
    · exact absurd hexec (hrefused 2 v (by decide))
    · next hlegal =>
      split at hexec
      · exact absurd hexec (hrefused 3 2 (by decide))
      · split at hexec
        · exact absurd hexec (hrefused 3 s.pool.ringCount (by decide))
        · rw [← State.okWith_inj (Host.Outcome.next.inj (hexec.symm.trans h))]
          exact State.register_writeReg hr (Bool.eq_true_of_not_eq_false hlegal) hfit

/-- The legal values of `DST_FB` (48_session.md R561). -/
theorem WritableReg.legal_dstFb (v : Nat) : WritableReg.legal .dstFb v = decide (1 ≤ v ∧ v ≤ 18816) := by
  simp [WritableReg.legal]

/-- Settles O22: each register by its checks in their order. -/
theorem wrregWritesAndRefuses : Obligations.WrregWritesAndRefuses := by
  unfold Obligations.WrregWritesAndRefuses
  refine ⟨fun s idx v => ⟨?_, ?_, fun hsess => ?_⟩, fun s t idx v hfit h => execRdreg_some (State.register_of_execWrreg hfit h),
    fun s idx v hidx => execWrreg_none ?_, fun s v => ⟨fun h => ?_, fun h => ?_, fun h => ?_, fun h => ?_⟩,
    fun s idx v hsess h => ?_, fun s v hsess hlo hhi hjobs => ?_⟩
  · rintro ⟨rfl, -⟩
    exact execWrreg_writes (r := .warnThreshold) rfl rfl (by simp [WritableReg.trackParameter]) (by simp)
  · rintro ⟨rfl, hv⟩
    exact execWrreg_writes (r := .slotSel) rfl (decide_eq_true hv) (by simp [WritableReg.trackParameter]) (by simp)
  · have howned : ∀ r : WritableReg, ¬ (s.sess = .track ∧ r.trackParameter = true) := fun r h => hsess h.1
    refine ⟨?_, ?_, ?_, ?_, ?_⟩
    · rintro ⟨rfl, hlo, hhi, hempty⟩
      exact execWrreg_writes (r := .dstFb) rfl ((WritableReg.legal_dstFb v).trans (decide_eq_true ⟨hlo, hhi⟩)) (howned _)
        fun h => h.2 hempty
    · rintro ⟨rfl, hv⟩
      exact execWrreg_writes (r := .ditherDepth) rfl (decide_eq_true hv) (howned _) (by simp)
    · rintro ⟨rfl, -⟩
      exact execWrreg_writes (r := .ditherSeedLo) rfl rfl (howned _) (by simp)
    · rintro ⟨rfl, -⟩
      exact execWrreg_writes (r := .ditherSeedHi) rfl rfl (howned _) (by simp)
    · rintro ⟨rfl, hv⟩
      exact execWrreg_writes (r := .silenceByte) rfl (decide_eq_true hv) (howned _) (by simp)
  · cases hr : writableReg idx with
    | none => rfl
    | some r => exact absurd (mem_of_writableReg hr) hidx
  · exact execWrreg_illegal (r := .slotSel) rfl (decide_eq_false (Nat.not_lt.mpr h))
  · exact execWrreg_illegal (r := .dstFb) rfl ((WritableReg.legal_dstFb v).trans (decide_eq_false (by omega)))
  · exact execWrreg_illegal (r := .ditherDepth) rfl (decide_eq_false (Nat.not_le.mpr h))
  · exact execWrreg_illegal (r := .silenceByte) rfl (decide_eq_false (Nat.not_le.mpr h))
  · rcases h with ⟨rfl, hv⟩ | ⟨rfl, hv⟩ | rfl | rfl | ⟨rfl, hv⟩
    · exact execWrreg_owned (r := .dstFb) rfl ((WritableReg.legal_dstFb v).trans (decide_eq_true hv)) hsess rfl
    · exact execWrreg_owned (r := .ditherDepth) rfl (decide_eq_true hv) hsess rfl
    · exact execWrreg_owned (r := .ditherSeedLo) rfl rfl hsess rfl
    · exact execWrreg_owned (r := .ditherSeedHi) rfl rfl hsess rfl
    · exact execWrreg_owned (r := .silenceByte) rfl (decide_eq_true hv) hsess rfl
  · have hlegal : WritableReg.legal .dstFb v = true := (WritableReg.legal_dstFb v).trans (decide_eq_true ⟨hlo, hhi⟩)
    rw [execWrreg_some (r := .dstFb) rfl, if_neg (by simp [hlegal]), if_neg fun h => hsess h.1, if_pos ⟨rfl, hjobs⟩]

end Sys2Proof.Machine
end

section
/-! PROOFS (O15). A medium whose cells are not in canonical form answers a read of a whole file and a read of its end
differently, and `OPEN` walks the chunks by reads of their own (46_fx_files.md R475). O15 speaks of every such medium, so
a form whose last chunk header is all zeros can be read back byte for byte and still not open. -/

-- One thread: the check limits the memory of a compile, and each thread reserves its own.
set_option Elab.async false

open Sys2Proof.Claims

namespace Sys2Proof.Machine

/-! ## The form -/

/-- Two channels of plain sound data at 2822400 Hz. -/
def stereoProps : List DffChunk :=
  [⟨magicFs, beBytes 4 2822400, 0⟩, ⟨magicChnl, beBytes 2 2, 0⟩, ⟨magicCmpr, magicDsd, 0⟩]

/-- The chunks that a form must hold, without sound, and a last chunk whose header is twelve bytes of value 0. -/
def zeroEndedChunks : List DffChunk :=
  [⟨magicFver, [1, 0, 0, 0], 0⟩, ⟨magicProp, magicSnd ++ stereoProps.flatMap DffChunk.bytes, 0⟩, ⟨magicDsd, [], 0⟩,
    ⟨zeroBytes 4, [], 0⟩]

/-- The extractor that the chunks stand for. -/
def stereoFx : Fx :=
  { Fx.reset with kind := .dsdiff, ch := 2, rate := 2822400, trackCount := 1, dataStart := 106, dataEnd := 106 }

/-- What O15 asks of a form holds of this one. -/
theorem zeroEndedChunks_say : dffSays zeroEndedChunks stereoProps stereoFx := by
  refine ⟨16, ⟨magicFver, [1, 0, 0, 0], 0⟩, 32, ⟨magicProp, magicSnd ++ stereoProps.flatMap DffChunk.bytes, 0⟩,
    48, ⟨magicFs, beBytes 4 2822400, 0⟩, 64, ⟨magicChnl, beBytes 2 2, 0⟩, 78, ⟨magicCmpr, magicDsd, 0⟩, 106, 106, 0, 0, 0,
    ?_, ?_, ?_, ?_, rfl, ?_, ?_, ?_, ?_, ?_, ?_, ?_, ?_, .inl ⟨?_, ?_, ⟨94, ⟨magicDsd, [], 0⟩, ?_, rfl, rfl⟩, rfl⟩,
    .inl ⟨?_, rfl, rfl⟩, ?_⟩ <;> decide +kernel

/-! ## The medium -/

/-- The medium in a form that is not canonical: the bytes of the file in order, then a cell of address 0, at which a read
from the beginning stops looking, then a cell in the size field of the last chunk, which a read that begins at that
chunk still finds. -/
def disorderedMedium : State :=
  { State.reset with
    medium := Memory.writeRun [] 0 (dffBytes zeroEndedChunks) ++ [(0, 1), (110, 1)]
    mediumSize := BitVec.ofNat 64 (dffBytes zeroEndedChunks).length }

/-- A read of the whole file gives the file. -/
theorem disorderedMedium_bytes :
    disorderedMedium.mediumBytes 0 (dffBytes zeroEndedChunks).length = dffBytes zeroEndedChunks := by decide +kernel

/-- The session that a command leaves. -/
def sessAfter : Out → Option Sess
  | .next t => some t.sess
  | _ => none

/-- The walk finds a last chunk of 2^56 bytes or more, which no form holds. -/
theorem disorderedMedium_corrupt : sessAfter (exec (.openMedium 2) disorderedMedium) = some .closed := by decide +kernel

/-- Refutes O15: its third clause does not ask for a medium in canonical form (`Memory.wf`), and without it the clause
fails. -/
theorem not_openReadsTheContainer : ¬ Obligations.OpenReadsTheContainer := by
  unfold Obligations.OpenReadsTheContainer
  rintro ⟨-, -, hform, -⟩
  have hopen := hform disorderedMedium 2 zeroEndedChunks stereoProps stereoFx rfl rfl (.inr rfl) disorderedMedium_bytes
    (by decide +kernel) zeroEndedChunks_say
  have hsess := disorderedMedium_corrupt
  rw [hopen] at hsess
  cases hsess

end Sys2Proof.Machine
end

section
/-! PROOFS (O17). `INIT_TRACK` (48_session.md R545): the track list is read, then the bodies of `SET_TRACK`, `POOL_INIT` and
`PC_INIT` run one after the other. -/

-- One thread: the check limits the memory of a compile, and each thread reserves its own.
set_option Elab.async false

open Sys2Proof.Claims

namespace Sys2Proof.Machine

/-- Behind all its checks `INIT_TRACK` is its body. -/
theorem execInitTrack_list {s u : State} {track area pcm : Nat} {a : AreaOperand} {list : List Byte}
    (hsess : s.sess ≠ .closed) (harea : areaOperand area = some a) (hpcm : pcm ≤ 3) (ht : track < s.fx.tracksIn a)
    (hsupported : ¬ (s.fx.kind = .dsdiff ∧ s.fx.dst = true ∧ s.fx.rate = 22579200))
    (hread : s.readTrackList track a = (.ok list, u)) :
    exec (.initTrack track area pcm) s = .next ((u.initTrackBody track a (pcmRateOf pcm) list).okWith
      (val (u.initTrackBody track a (pcmRateOf pcm) list).ch)) := by
  rw [execInitTrack_operands hsess harea hpcm, if_neg (Nat.not_le.mpr ht), if_neg (mt s.fx.unsupported_iff.mp hsupported),
    hread]

/-- Every slot after `INIT_TRACK`: its decode has run, and it is cleared (44_dst_pool.md R341). -/
theorem State.slot_initTrackBody (s : State) (track : Nat) (a : AreaOperand) (pcm : Nat) (list : List Byte) (j : Nat) :
    (s.initTrackBody track a pcm list).slot j = (s.stepped (s.slot j)).cleared :=
  ((s.drainBusy.setTrackBody track a list).slot_clearRing (s.setTrackBody track a list).fx.ch j).trans
    (congrArg Slot.cleared (s.slot_drainBusy j))

/-- A decode that has run and a slot that is cleared, whether or not the decode is marked as done in between. -/
theorem State.cleared_stepped (s : State) (sl : Slot) : (s.stepped sl).cleared =
    (if sl.slotState = .busy then sl.frameDecode s.pool.dstCh s.pool.dstFb else sl).cleared := by
  unfold State.stepped
  split <;> rfl

/-- The converter in the mode of a row of the table (45_dsd_pcm.md R370, R371, R400 to R402). -/
theorem Pc.start_of_mem {dsd pcm u d tt spf delta fade : Nat} (hrow : (dsd, pcm, u, d, tt, spf, delta, fade) ∈ modeRows)
    (old : Pc) (ch : Nat) (seed : Word) : old.start ch (2 ^ dsd) (pcmRateOf pcm) seed =
      { ch := ch, t := tt, d := d, u := u, resample := decide (u ≠ 1), k := 2 ^ dsd, spf := spf
        h := coef (2 ^ dsd) (pcmRateOf pcm), hist := List.replicate ch [], rxCount := 0, outCount := 0, lcg := seed
        delay := { num := tt, den := 2 * d }, delayClamped := { num := tt, den := 2 * d }, pcmOutDelta := delta
        fadeLen := fade, convertCalled := false, pcmBuf := old.pcmBuf, pcmN := 0 } := by
  obtain ⟨-, -, hmode, hclamp, hdelta, hfade⟩ := modeRow_of_mem hrow
  unfold Pc.start
  rw [hmode]
  simp only [delayOf, hclamp, hdelta, hfade]

/-- What `INIT_TRACK` leaves outside the slots and the converter. -/
theorem State.initTrackBody_frame (s : State) (track : Nat) (a : AreaOperand) (pcm : Nat) (list : List Byte) (fx : Fx)
    (hfx : (s.setTrackBody track a list).fx = fx) : s.initTrackBody track a pcm list = { s with
      sess := .track, ch := fx.ch, dsdRate := fx.rate, k := fx.rate / 2822400, pcmRate := pcm, errCount := 0
      slots := (s.initTrackBody track a pcm list).slots
      pool := { dstCh := fx.ch, dstFb := if fx.rate / 600 ≤ 18816 then fx.rate / 600 else s.pool.dstFb, head := 0,
                tail := 0, ringCount := 0, submitSeq := 0, collectSeq := 0, draining := false }
      fx := fx, pc := s.pc.start fx.ch (fx.rate / 2822400) pcm s.ditherSeed } := by
  subst hfx
  rw [← Fx.frameBytes_eq]
  rfl

/-- A track list that comes, on a disc in full, has used up answers of the medium at most (assumption log 16). -/
theorem State.readTrackList_ok {s : State} {track : Nat} {a : AreaOperand}
    (hfull : s.fx.kind = .sector → (s.trackListRead track a).1.length = 2048) :
    ∃ list rest u, s.readTrackList track a = (.ok list, u) ∧ u = { s with answers := rest } ∧
      (s.fx.kind ≠ .sector → u = s) ∧ (s.fx.kind = .sector → (list, u) = s.trackListRead track a) := by
  by_cases hkind : s.fx.kind = .sector
  · obtain ⟨rest, hrest⟩ := s.trackListRead_answers track a
    exact ⟨_, rest, _, State.readTrackList_full hkind (hfull hkind), hrest, fun h => absurd hkind h, fun _ => rfl⟩
  · exact ⟨[], s.answers, s, State.readTrackList_file hkind track a, rfl, fun _ => rfl, fun h => absurd h hkind⟩

/-- Settles O17: the three bodies, each as its lemma says. -/
theorem initTrackStartsTheSession : Obligations.InitTrackStartsTheSession := by
  unfold Obligations.InitTrackStartsTheSession
  intro s track area pcm a hsess harea hpcm ht hsupported hfull
  obtain ⟨list, rest, u, hread, hu, hfile, hdisc⟩ := State.readTrackList_ok hfull
  have hselects := selectsTrack_select harea ht hfile hdisc (by rw [hu])
  have hframe := u.initTrackBody_frame track a (pcmRateOf pcm) list _ rfl
  have hslot := u.slot_initTrackBody track a (pcmRateOf pcm) list
  refine ⟨u, _, _, hselects, execInitTrack_list hsess harea hpcm ht hsupported hread, ?_, ?_, ?_⟩
  · subst hu
    rw [hframe]
    rfl
  · rintro j d rfl
    refine (hslot j).trans ?_
    rw [u.cleared_stepped]
    subst hu
    rfl
  · intro dsd mu md tt spf delta fade hrow hrate
    have hk : (u.setTrackBody track a list).fx.rate / 2822400 = 2 ^ dsd := by rw [hrate]; omega
    rw [hframe]
    show u.pc.start _ ((u.setTrackBody track a list).fx.rate / 2822400) _ u.ditherSeed = _
    rw [hk, Pc.start_of_mem hrow]
    subst hu
    rfl

end Sys2Proof.Machine
end

section
/-! PROOFS (O19). `DECODE_NEXT` in a session (48_session.md R550 to R553): the read-ahead and the retiring of a job leave
all but the extractor, the ring and the counters of errors as it was; a block retired or the filter's tail is converted,
packed and answered. -/

-- One thread: the check limits the memory of a compile, and each thread reserves its own.
set_option Elab.async false

open Sys2Proof.Claims

namespace Sys2Proof.Machine

/-! ## What reading ahead and retiring leave -/

/-- `t` is `s` but for the extractor, the answers used up, the ring and the counters of errors; the geometry of the pool
is kept. -/
structure State.SessionKept (s t : State) : Prop where
  frame : t = { s with
    errCount := t.errCount, lastError := t.lastError, slots := t.slots, pool := t.pool, fx := t.fx, answers := t.answers }
  dstCh : t.pool.dstCh = s.pool.dstCh
  dstFb : t.pool.dstFb = s.pool.dstFb

theorem State.SessionKept.refl (s : State) : s.SessionKept s := ⟨rfl, rfl, rfl⟩

theorem State.SessionKept.trans {s t u : State} (h : s.SessionKept t) (h' : t.SessionKept u) : s.SessionKept u where
  frame := by rw [h'.frame, h.frame]
  dstCh := h'.dstCh.trans h.dstCh
  dstFb := h'.dstFb.trans h.dstFb

theorem State.SessionKept.sess {s t : State} (h : s.SessionKept t) : t.sess = s.sess := by rw [h.frame]

theorem State.FxOnly.sessionKept {s t : State} (h : s.FxOnly t) : s.SessionKept t := by
  rw [h.frame]
  exact ⟨rfl, rfl, rfl⟩

theorem State.submitFrame_sessionKept (s : State) (f : Frame) : s.SessionKept (s.submitFrame f) := by
  unfold State.submitFrame
  split
  · exact .refl s
  · split <;> exact ⟨rfl, rfl, rfl⟩

/-- The read-ahead (48_session.md R550). -/
theorem State.fillRing_sessionKept : ∀ (fuel : Nat) (s : State), s.SessionKept (State.fillRing fuel s)
  | 0, s => .refl s
  | fuel + 1, s => by
    have hread := s.readFrameBody_only.sessionKept
    rw [State.fillRing]
    split
    · split
      · next hr =>
        rw [hr] at hread
        exact hread
      · next f t hr =>
        rw [hr] at hread
        exact (hread.trans (t.submitFrame_sessionKept f)).trans (State.fillRing_sessionKept fuel _)
    · exact .refl s

/-- The retiring of the oldest job (44_dst_pool.md R343). -/
theorem State.collectBody_sessionKept (s : State) : s.SessionKept s.collectBody.2 := by
  have hretire : s.SessionKept s.retire := by
    obtain ⟨-, hr⟩ | ⟨-, hr⟩ := s.retire_cases <;> rw [hr] <;> exact ⟨rfl, rfl, rfl⟩
  exact hretire.trans ⟨rfl, rfl, rfl⟩

/-! ## The bodies of steps 2 and 3 (48_session.md R550, R552) -/

theorem Pc.fadeIn_pcmN (pc : Pc) (first : Bool) : (pc.fadeIn first).pcmN = pc.pcmN := by
  unfold Pc.fadeIn
  split
  · rw [(pc.degibbs_frame _ _ _).1]
  · rfl

theorem Pc.trim_le (pc : Pc) (first : Bool) : pc.trim first ≤ pc.pcmN := by
  unfold Pc.trim
  split
  · exact Nat.min_le_right _ _
  · exact Nat.zero_le _

/-- The converter after the oldest result, before the fade. -/
def State.block (s : State) : Pc := s.pc.convert s.ditherDepth s.collectBody.1.out

/-- The first block of the track is the one before which nothing was converted (48_session.md R552). -/
def State.firstBlock (s : State) : Bool := !s.pc.convertCalled

/-- The oldest result retired, converted, trimmed, faded in and packed. -/
theorem State.finish_retireFrame (s : State) : s.retireFrame.2.finish s.retireFrame.1 = .next (({ s.collectBody.2 with
    pc := s.block.fadeIn s.firstBlock
    dout := s.dout ++ (s.block.fadeIn s.firstBlock).packed (s.block.trim s.firstBlock)
      (s.block.pcmN - s.block.trim s.firstBlock) } : State).okWith
    (val (1 + (s.block.pcmN - s.block.trim s.firstBlock) * 2 ^ 8))) := by
  have hpc : s.collectBody.2.pc = s.pc := s.collectBody_pc
  have hdepth : s.collectBody.2.ditherDepth = s.ditherDepth := by rw [s.collectBody_sessionKept.frame]
  have hdout : s.collectBody.2.dout = s.dout := by rw [s.collectBody_sessionKept.frame]
  have hblock : s.collectBody.2.pc.convert s.collectBody.2.ditherDepth s.collectBody.1.out = s.block := by
    rw [hpc, hdepth]
    rfl
  unfold State.retireFrame State.pcConvertBody
  dsimp only
  rw [hblock, hpc, State.finish_ok]
  dsimp only
  rw [hdout, Pc.fadeIn_pcmN]
  rfl

/-- The converter after the frame of silence that ends a track. -/
def State.tail (s : State) : Pc := s.pc.convert s.ditherDepth s.silenceFrame

/-- How many samples of the filter's tail are emitted: as many as were trimmed (48_session.md R552). -/
def State.tailLength (s : State) : Nat := min s.tail.pcmOutDelta s.tail.pcmN

/-- The end of a track of which something was converted. -/
theorem State.finish_flushTrack {s : State} (h : s.pc.convertCalled = true) :
    s.flushTrack.2.finish s.flushTrack.1 = .next (({ s with
      sess := .drained, pc := (s.tail.degibbs 0 s.tailLength true).2
      dout := s.dout ++ (s.tail.degibbs 0 s.tailLength true).2.packed 0 s.tailLength } : State).okWith
      (val (s.tailLength * 2 ^ 8))) := by
  rw [State.flushTrack, if_pos h]
  rfl

/-- The end of a track of which nothing was converted. -/
theorem State.finish_flushTrack_nothing {s : State} (h : s.pc.convertCalled = false) :
    s.flushTrack.2.finish s.flushTrack.1 = .next (({ s with sess := .drained } : State).okWith 0) := by
  rw [State.flushTrack, if_neg (by simp [h]), State.finish_ok, List.append_nil]

/-! ## The command -/

/-- In a session `DECODE_NEXT` reads ahead, then retires the oldest job or ends the track (48_session.md R550). -/
theorem execDecodeNext_track {s t : State} (hsess : s.sess = .track) (hfill : State.fillRing (2 ^ 70) s = t) :
    exec .decodeNext s = if 0 < t.pool.ringCount then t.retireFrame.2.finish t.retireFrame.1
      else t.flushTrack.2.finish t.flushTrack.1 := by
  show execDecodeNext s = _
  rw [execDecodeNext, if_neg (not_not_intro hsess), State.decodeNextBody, hfill]
  split <;> rfl

theorem execDecodeNext_refused {s : State} (hsess : s.sess ≠ .track) :
    exec .decodeNext s = .next (s.refusedWith 3 s.sess.code) := (if_pos hsess).trans (s.fail_eq .eState _)

/-- With the track ended or the ring full nothing is read ahead (48_session.md R550). -/
theorem State.fillRing_done {s : State} (h : ¬ readsOn s) : ∀ fuel, State.fillRing fuel s = s
  | 0 => rfl
  | _ + 1 => if_neg h

/-- What O19 says of an answer of `DECODE_NEXT` from `s` that leaves `t`. -/
def NextAnswered (s t : State) : Prop := ∃ more n bytes,
  t = { s with
    sess := t.sess, errCount := t.errCount, lastError := t.lastError, slots := t.slots, pool := t.pool, fx := t.fx
    pc := t.pc, answers := t.answers, dout := s.dout ++ bytes
    rsp := s.rsp ++ [{ status := 0, value := BitVec.ofNat 64 (more + n * 2 ^ 8) }] } ∧
  bytes.length = 3 * s.pc.ch * n ∧
  (more = 1 ∧ t.sess = .track ∨ more = 0 ∧ t.sess = .drained ∧ t.pool.ringCount = 0) ∧
  t.pool.dstCh = s.pool.dstCh ∧ t.pool.dstFb = s.pool.dstFb

/-- `n` packed samples of a converter of `ch` channels are three bytes each (45_dsd_pcm.md R420). -/
theorem Pc.length_packed_of_ch {pc : Pc} {ch : Nat} (h : pc.ch = ch) (skip n : Nat) :
    (pc.packed skip n).length = 3 * ch * n := by
  rw [pc.length_packed, h, Nat.mul_assoc, Nat.mul_comm n]

section answered
variable {s t : State} (h : s.SessionKept t) (hpc : t.pc = s.pc)
include h hpc

theorem nextAnswered_retired (hsess : s.sess = .track) :
    ∃ u, t.retireFrame.2.finish t.retireFrame.1 = .next u ∧ NextAnswered s u := by
  have hkept := h.trans t.collectBody_sessionKept
  have hch : (t.block.fadeIn t.firstBlock).ch = s.pc.ch := by
    rw [Pc.fadeIn_ch, State.block, hpc, (s.pc.convert_mode _ _).ch]
  refine ⟨_, t.finish_retireFrame, 1, t.block.pcmN - t.block.trim t.firstBlock, _, ?_,
    Pc.length_packed_of_ch hch (t.block.trim t.firstBlock) _, .inl ⟨rfl, hkept.sess.trans hsess⟩,
    hkept.dstCh, hkept.dstFb⟩
  have hdout : t.dout = s.dout := by rw [h.frame]
  rw [hkept.frame, hdout]
  rfl

theorem nextAnswered_flushed (hempty : t.pool.ringCount = 0) :
    ∃ u, t.flushTrack.2.finish t.flushTrack.1 = .next u ∧ NextAnswered s u := by
  cases hcalled : t.pc.convertCalled with
  | true =>
    have hch : (t.tail.degibbs 0 t.tailLength true).2.ch = s.pc.ch := by
      rw [Pc.degibbs_ch, State.tail, hpc, (s.pc.convert_mode _ _).ch]
    refine ⟨_, State.finish_flushTrack hcalled, 0, t.tailLength, _, ?_, Pc.length_packed_of_ch hch 0 _, .inr ⟨rfl, rfl, hempty⟩,
      h.dstCh, h.dstFb⟩
    rw [h.frame, Nat.zero_add]
    rfl
  | false =>
    refine ⟨_, State.finish_flushTrack_nothing hcalled, 0, 0, [], ?_, rfl, .inr ⟨rfl, rfl, hempty⟩, h.dstCh, h.dstFb⟩
    rw [h.frame, List.append_nil]
    rfl

end answered

/-- In a session `DECODE_NEXT` always answers OK, in one of the ways of O19. -/
theorem execDecodeNext_answered {s : State} (hsess : s.sess = .track) :
    ∃ t, exec .decodeNext s = .next t ∧ NextAnswered s t := by
  have hkept := State.fillRing_sessionKept (2 ^ 70) s
  have hpc := State.fillRing_pc (2 ^ 70) s
  rw [execDecodeNext_track hsess rfl]
  generalize State.fillRing (2 ^ 70) s = t at hkept hpc
  split
  · exact nextAnswered_retired hkept hpc hsess
  · next hempty => exact nextAnswered_flushed hkept hpc (Nat.eq_zero_of_not_pos hempty)

/-- Settles O19. -/
theorem decodeNextCompletes : Obligations.DecodeNextCompletes := by
  unfold Obligations.DecodeNextCompletes
  refine ⟨fun s hsess => ?_, fun s hsess heot hempty hcalled => ?_⟩
  · obtain ⟨t, hexec, more, n, bytes, hanswered⟩ := execDecodeNext_answered hsess
    exact ⟨t, more, n, bytes, hexec, hanswered⟩
  · have hdone : ¬ readsOn s := fun h => absurd h.1 (by simp [heot])
    rw [execDecodeNext_track hsess (State.fillRing_done hdone _), if_neg (by omega),
      State.finish_flushTrack_nothing hcalled]

end Sys2Proof.Machine
end

section
/-! PROOFS (O40, blocks). What `DECODE_NEXT` does with the ring full or the track ended (48_session.md R550, R552): the
oldest result, as `jobs` lists it, is the block converted. -/

-- One thread: the check limits the memory of a compile, and each thread reserves its own.
set_option Elab.async false

open Sys2Proof.Claims

namespace Sys2Proof.Machine

/-! ## The oldest job as the body of COLLECT gives it -/

/-- The bytes of the oldest result, and what retiring its job leaves (44_dst_pool.md R343). -/
theorem State.collectBody_oldest {s : State} {st v : Nat} {out : List Byte}
    (hresult : jobResult s (s.slot s.pool.tail) = (st, v, out)) :
    s.collectBody.1.out = out ∧ s.collectBody.2 = { s with
      slots := s.collectBody.2.slots, pool := s.collectBody.2.pool
      errCount := if st = 0 then s.errCount else errorCounted s
      lastError := if st = 0 then s.lastError else BitVec.ofNat 32 (st + v % 2 ^ 24 * 2 ^ 8) } := by
  have hslot : (s.slotStep s.pool.tail).slot s.pool.tail = s.stepped (s.slot s.pool.tail) := s.slot_setSlot_same _ _
  obtain ⟨hok, hr⟩ | ⟨hbad, hr⟩ := s.retire_cases
  · rw [jobResult_ok hok] at hresult
    cases hresult
    rw [State.collectBody, hr, hslot, if_pos hok]
    exact ⟨rfl, rfl⟩
  · rw [jobResult_failed hbad] at hresult
    cases hresult
    have hsilence := bufBytes_overwrite (s.stepped (s.slot s.pool.tail)).outbuf
      (List.replicate (s.pool.dstCh * s.pool.dstFb) s.silence)
    rw [List.length_replicate] at hsilence
    have hcounted : errorCounted s = satInc s.errCount := (satInc_eq s.errCount).symm
    rw [State.collectBody, hr, State.slot_retireFailed, if_pos rfl, hslot, if_neg hbad, hcounted]
    exact ⟨hsilence, by rw [State.retireFailed_eq, hslot]; rfl⟩

/-- A block of lawful counts is packed from what was stored (45_dsd_pcm.md R420). -/
theorem Pc.Inv.packed_eq {pc : Pc} (h : pc.Inv) {skip count : Nat} (hcount : skip + count ≤ pc.pcmN) :
    pc.packed skip count = packedBytes pc skip count := by
  rw [Pc.packed, pc.samples_eq _ _ ((Nat.mul_le_mul_right _ hcount).trans h.held)]
  rfl

/-! ## The next block, and the end of the track -/

section next
variable {s : State} (hsess : s.sess = .track) (hdone : ¬ readsOn s)
include hsess hdone

/-- With jobs in the ring the next block is the oldest result. -/
theorem execDecodeNext_block {st v : Nat} {out : List Byte} (hsome : 0 < s.pool.ringCount)
    (hresult : jobResult s (s.slot s.pool.tail) = (st, v, out)) :
    exec .decodeNext s = .next (({ s.collectBody.2 with
      pc := (s.pc.convert s.ditherDepth out).fadeIn s.firstBlock
      dout := s.dout ++ ((s.pc.convert s.ditherDepth out).fadeIn s.firstBlock).packed
        ((s.pc.convert s.ditherDepth out).trim s.firstBlock)
        ((s.pc.convert s.ditherDepth out).pcmN - (s.pc.convert s.ditherDepth out).trim s.firstBlock) } : State).okWith
      (val (1 + ((s.pc.convert s.ditherDepth out).pcmN - (s.pc.convert s.ditherDepth out).trim s.firstBlock) * 2 ^ 8))) := by
  have hblock : s.block = s.pc.convert s.ditherDepth out := by rw [State.block, (State.collectBody_oldest hresult).1]
  rw [execDecodeNext_track hsess (State.fillRing_done hdone _), if_pos hsome, s.finish_retireFrame, hblock]

end next

end Sys2Proof.Machine
end

section
/-! PROOFS (O40, reads). `read_frame` does not look at the session and does not change it (46_fx_files.md R450, R451): read
in another session state, it gives the same frame and leaves the same state in that session state. So the read that
`DECODE_NEXT` makes is the one that `READ_FRAME` makes with the ownership lifted (48_session.md, introduction). -/

-- One thread: the check limits the memory of a compile, and each thread reserves its own.
set_option Elab.async false

namespace Sys2Proof.Machine

/-- The state in another session state. -/
def State.inSess (s : State) (x : Sess) : State := { s with sess := x }

/-- What a read gives, with the state it leaves in another session state. -/
def readInSess {α : Type} (x : Sess) (r : α × State) : α × State := (r.1, r.2.inSess x)

section reads
variable (s : State) (x : Sess)

/-! ## The medium and the extractor's registers -/

@[simp] theorem State.inSess_fx : (s.inSess x).fx = s.fx := rfl
@[simp] theorem State.inSess_mediumSize : (s.inSess x).mediumSize = s.mediumSize := rfl
@[simp] theorem State.inSess_setFx (fx : Fx) : (s.inSess x).setFx fx = (s.setFx fx).inSess x := rfl
@[simp] theorem State.inSess_moveCursor (p : Nat) : (s.inSess x).moveCursor p = (s.moveCursor p).inSess x := rfl
@[simp] theorem State.inSess_countBadRead : (s.inSess x).countBadRead = s.countBadRead.inSess x := rfl
@[simp] theorem State.inSess_setSec (sec : Sec) : (s.inSess x).setSec sec = (s.setSec sec).inSess x := rfl
@[simp] theorem State.inSess_invalidFrame (e : Exc) (info : Nat) :
    (s.inSess x).invalidFrame e info = readInSess x (s.invalidFrame e info) := rfl
@[simp] theorem State.inSess_badFrame (info : Nat) : (s.inSess x).badFrame info = readInSess x (s.badFrame info) := rfl
@[simp] theorem readInSess_fst {α : Type} (r : α × State) : (readInSess x r).1 = r.1 := rfl
@[simp] theorem readInSess_snd {α : Type} (r : α × State) : (readInSess x r).2 = r.2.inSess x := rfl

@[simp] theorem State.inSess_mediumRead (off n : Nat) :
    (s.inSess x).mediumRead off n = readInSess x (s.mediumRead off n) := by
  obtain ⟨_, _, _, _, _, _, _, _, _, _, _, _, _, _, _, _, _, _, _, _, _, _, _, _, _, answers, _, _⟩ := s
  rcases answers with _ | ⟨_ | _, _⟩ <;> rfl

@[simp] theorem State.inSess_sectorRead (lsn : Nat) : (s.inSess x).sectorRead lsn = readInSess x (s.sectorRead lsn) :=
  s.inSess_mediumRead x _ _

/-! ## DSF -/

@[simp] theorem State.inSess_dsfFetch (g : Nat) : (s.inSess x).dsfFetch g = (s.dsfFetch g).inSess x := by
  unfold State.dsfFetch
  simp only [State.inSess_fx, State.inSess_mediumRead, readInSess_fst, readInSess_snd, State.inSess_setFx]
  split
  · rfl
  · split <;> rfl

theorem State.inSess_dsfRead : ∀ (fuel n : Nat) (bad : Option Nat) (s : State),
    State.dsfRead fuel n bad (s.inSess x) =
      ((State.dsfRead fuel n bad s).1, readInSess x (State.dsfRead fuel n bad s).2)
  | 0, _, _, _ => rfl
  | fuel + 1, n, bad, s => by
    simp only [State.dsfRead, State.inSess_fx, State.inSess_dsfFetch, State.inSess_setFx, State.inSess_dsfRead fuel]
    split <;> rfl

@[simp] theorem State.inSess_readDsf : (s.inSess x).readDsf = readInSess x s.readDsf := by
  unfold State.readDsf
  simp only [State.inSess_fx, State.inSess_dsfRead]
  split
  · rfl
  · generalize State.dsfRead _ _ none s = r
    obtain ⟨bytes, _ | off, t⟩ := r <;> rfl

/-! ## DSDIFF -/

theorem State.inSess_readDffDsd : (s.inSess x).readDffDsd = readInSess x s.readDffDsd := by
  unfold State.readDffDsd
  simp only [State.inSess_fx, State.inSess_mediumRead, readInSess_fst, readInSess_snd, State.inSess_moveCursor,
    State.inSess_badFrame]
  split
  · rfl
  · split
    · rfl
    · split <;> rfl

@[simp] theorem State.inSess_readDstBytes (off n next : Nat) :
    (s.inSess x).readDstBytes off n next = readInSess x (s.readDstBytes off n next) := by
  unfold State.readDstBytes
  simp only [State.inSess_mediumRead, readInSess_fst, readInSess_snd, State.inSess_moveCursor, State.inSess_badFrame]
  split <;> rfl

theorem State.inSess_readDffIndexed : (s.inSess x).readDffIndexed = readInSess x s.readDffIndexed := by
  unfold State.readDffIndexed
  simp only [State.inSess_fx, State.inSess_mediumSize, State.inSess_mediumRead, readInSess_fst, readInSess_snd,
    State.inSess_badFrame, State.inSess_invalidFrame, State.inSess_readDstBytes]
  split
  · rfl
  · split
    · rfl
    · split <;> rfl

theorem State.inSess_readDffWalk : ∀ (fuel : Nat) (s : State),
    State.readDffWalk fuel (s.inSess x) = readInSess x (State.readDffWalk fuel s)
  | 0, _ => rfl
  | fuel + 1, s => by
    simp only [State.readDffWalk, State.inSess_fx, State.inSess_mediumRead, readInSess_fst, readInSess_snd,
      State.inSess_moveCursor, State.inSess_badFrame, State.inSess_invalidFrame, State.inSess_readDstBytes,
      State.inSess_setFx, State.inSess_readDffWalk fuel]
    split
    · rfl
    · split
      · rfl
      · split
        · split <;> rfl
        · rfl

theorem State.inSess_readDff : (s.inSess x).readDff = readInSess x s.readDff := by
  unfold State.readDff
  simp only [State.inSess_fx, State.inSess_readDffDsd, State.inSess_readDffIndexed, State.inSess_readDffWalk]
  split
  · rfl
  · split <;> rfl

/-! ## Discs -/

@[simp] theorem State.inSess_finishFrame : (s.inSess x).finishFrame = readInSess x s.finishFrame := by
  unfold State.finishFrame
  simp only [apply_ite (readInSess x)]
  rfl

/-- A turn of the sector loop with the states it leaves in another session state. -/
def turnInSess (x : Sess) (r : Option (Option Frame × State) × State) : Option (Option Frame × State) × State :=
  (r.1.map (readInSess x), r.2.inSess x)

theorem State.inSess_fetchSector : (s.inSess x).fetchSector = turnInSess x s.fetchSector := by
  unfold State.fetchSector
  simp only [State.inSess_fx, State.inSess_sectorRead, readInSess_fst, readInSess_snd, State.inSess_setFx,
    State.inSess_setSec, State.inSess_badFrame, State.inSess_invalidFrame]
  split
  · rfl
  · split <;> rfl

theorem State.inSess_takePacket : (s.inSess x).takePacket = turnInSess x s.takePacket := by
  unfold State.takePacket
  simp only [apply_ite (turnInSess x)]
  rw [State.inSess_finishFrame]
  rfl

theorem State.inSess_endOfSectors : (s.inSess x).endOfSectors = readInSess x s.endOfSectors := by
  unfold State.endOfSectors
  simp only [State.inSess_fx, State.inSess_finishFrame]
  split <;> rfl

theorem State.inSess_sectorLoop : ∀ (fuel : Nat) (s : State),
    State.sectorLoop fuel (s.inSess x) = readInSess x (State.sectorLoop fuel s)
  | 0, _ => rfl
  | fuel + 1, s => by
    simp only [State.sectorLoop, State.inSess_fx, State.inSess_endOfSectors, State.inSess_fetchSector,
      State.inSess_takePacket]
    split
    · split
      · rfl
      · obtain ⟨_ | r, t⟩ := s.fetchSector
        · exact State.inSess_sectorLoop fuel t
        · rfl
    · obtain ⟨_ | r, t⟩ := s.takePacket
      · exact State.inSess_sectorLoop fuel t
      · rfl

/-! ## Whatever the container -/

theorem State.inSess_readKind : (s.inSess x).readKind = readInSess x s.readKind := by
  unfold State.readKind
  rw [State.inSess_fx, State.readSector, State.inSess_sectorLoop, State.inSess_readDff, State.inSess_readDsf]
  cases s.fx.kind <;> rfl

/-- The read of a frame in another session state. -/
theorem State.inSess_readFrameBody : (s.inSess x).readFrameBody = readInSess x s.readFrameBody := by
  unfold State.readFrameBody
  rw [State.inSess_fx, State.inSess_readKind]
  split
  · rfl
  · obtain ⟨_ | f, t⟩ := s.readKind <;> rfl

end reads

end Sys2Proof.Machine
end

section
/-! PROOFS (O40, the read-ahead). Step 1 of `DECODE_NEXT` reads and submits as the commands do with the ownership lifted
(48_session.md R550): what a `ReadAhead` comes to is what `fillRing` leaves. -/

-- One thread: the check limits the memory of a compile, and each thread reserves its own.
set_option Elab.async false

open Sys2Proof.Claims

namespace Sys2Proof.Machine

/-! ## What an answer of status OK tells -/

theorem State.okWith_value {s t : State} {v w : Value} (h : s.okWith v = t.okWith w) : v = w :=
  congrArg Response.value (List.cons.inj (List.append_inj_right' (congrArg State.rsp h) rfl)).1

/-- An answer of status OK is not an exception's. -/
theorem answer_not_refused {o : Out} {s t : State} {v : Value} {code n : Nat} (ho : o = .next (t.okWith v))
    (hcode : BitVec.ofNat 8 code ≠ 0) : o ≠ .next (s.refusedWith code n) := fun hr =>
  State.refusedWith_ne_okWith hcode (Host.Outcome.next.inj (hr.symm.trans ho))

/-- Two states that agree in another session state and with bytes emitted, and in the ports and the session, are the
same. -/
theorem State.eq_of_emitted {t u : State} {x : Sess} {a b : List Byte} (hsess : t.sess = u.sess) (hdout : t.dout = u.dout)
    (h : ({ t with dout := t.dout ++ a } : State).inSess x = ({ u with dout := u.dout ++ b } : State).inSess x) :
    t = u ∧ a = b := by
  have hbytes : t.dout ++ a = u.dout ++ b := congrArg State.dout h
  rw [hdout] at hbytes
  refine ⟨?_, List.append_cancel_left hbytes⟩
  calc t = { ({ t with dout := t.dout ++ a } : State).inSess x with sess := t.sess, dout := t.dout } := rfl
    _ = { ({ u with dout := u.dout ++ b } : State).inSess x with sess := u.sess, dout := u.dout } := by
      rw [h, hsess, hdout]
    _ = u := rfl

/-! ## A frame read -/

/-- The answer that `readsFrame` speaks of, as an answer of status OK. -/
theorem readsFrame_answer {s u : State} {more type : Nat} {bytes : List Byte} (h : readsFrame s u more type bytes) :
    exec .readFrame (s.inSess .opened) = .next ((({ u with dout := u.dout ++ bytes } : State).inSess .opened).okWith
      (val (bytes.length + type * 2 ^ 24 + more * 2 ^ 27))) := by
  obtain ⟨hexec, -, hdout, hrsp⟩ := h
  refine hexec.trans (congrArg Host.Outcome.next ?_)
  rw [State.okWith]
  dsimp only [State.inSess]
  rw [hdout, hrsp]

/-- The end of the track, or a frame, as `read_frame` gives it. -/
def FrameGiven (s u : State) (bytes : List Byte) (v : Value) : Prop :=
  s.readFrameBody = (none, u) ∧ bytes = [] ∨
  ∃ f, s.readFrameBody = (some f, u) ∧ f.bytes = bytes ∧ v = frameValue f

theorem readsFrame_given {s u : State} {more type : Nat} {bytes : List Byte} (h : readsFrame s u more type bytes) :
    FrameGiven s u bytes (val (bytes.length + type * 2 ^ 24 + more * 2 ^ 27)) := by
  have hanswer := readsFrame_answer h
  obtain ⟨-, husess, hudout, -⟩ := h
  have hready : trackReady (s.inSess .opened) := by
    by_contra hnot
    exact answer_not_refused hanswer (by decide) (execReadFrame_refused (by simp [State.inSess]) hnot)
  have hsess : s.readFrameBody.2.sess = u.sess := s.readFrameBody_only.sessionKept.sess.trans husess.symm
  have hdout : s.readFrameBody.2.dout = u.dout := by rw [hudout, s.readFrameBody_only.frame]
  rw [execReadFrame_ready hready, State.inSess_readFrameBody] at hanswer
  generalize hread : s.readFrameBody = r at hanswer hsess hdout
  obtain ⟨_ | f, t⟩ := r
  · have ht := State.okWith_inj (Host.Outcome.next.inj hanswer)
    have hemitted : ({ t with dout := t.dout ++ [] } : State).inSess .opened =
        ({ u with dout := u.dout ++ bytes } : State).inSess .opened := by
      rw [List.append_nil]
      exact ht
    obtain ⟨rfl, hbytes⟩ := State.eq_of_emitted hsess hdout hemitted
    exact .inl ⟨hread, hbytes.symm⟩
  · have hanswered := Host.Outcome.next.inj hanswer
    obtain ⟨rfl, hbytes⟩ := State.eq_of_emitted hsess hdout (State.okWith_inj hanswered)
    exact .inr ⟨f, hread, hbytes, (State.okWith_value hanswered).symm⟩

/-- Reading leaves the session, its parameters and the ring. -/
theorem readsFrame_only {s u : State} {more type : Nat} {bytes : List Byte} (h : readsFrame s u more type bytes) :
    s.FxOnly u := by
  have honly := s.readFrameBody_only
  obtain ⟨hread, -⟩ | ⟨_, hread, -⟩ := readsFrame_given h <;> rwa [hread] at honly

theorem FrameType.code_inj {a b : FrameType} (h : a.code = b.code) : a = b := by
  cases a <;> cases b <;> cases h <;> rfl

/-- The value tells the type of a frame (30_encoding.md R148). -/
theorem frameType_of_value {f : Frame} {type : FrameType}
    (h : val (f.bytes.length + type.code * 2 ^ 24 + 1 * 2 ^ 27) = frameValue f) : f.type = type := by
  have hf := frameType_code_le f.type
  have htype := frameType_code_le type
  have hnat := congrArg BitVec.toNat h
  simp only [frameValue, val, BitVec.toNat_ofNat] at hnat
  exact FrameType.code_inj (by omega)

/-- A frame with bytes, of the type that the value names. -/
theorem readsFrame_frame {s u : State} {type : FrameType} {bytes : List Byte} (hbytes : bytes ≠ [])
    (h : readsFrame s u 1 type.code bytes) : ∃ f, s.readFrameBody = (some f, u) ∧ f.bytes = bytes ∧ f.type = type := by
  obtain ⟨-, hnone⟩ | ⟨f, hread, rfl, hv⟩ := readsFrame_given h
  · exact absurd hnone hbytes
  · exact ⟨f, hread, rfl, frameType_of_value hv⟩

/-! ## A frame submitted -/

/-- The state that a submission of `bytes` runs in. -/
def State.offering (u : State) (bytes : List Byte) : State := ({ u with din := bytes } : State).inSess .opened

/-- The answer that `submits` speaks of, as an answer of status OK. -/
theorem submits_answer {u w : State} {i : Instr} {bytes : List Byte} (h : submits u w i bytes) :
    exec i (u.offering bytes) = .next ((w.offering []).okWith (val u.pool.submitSeq.toNat)) := by
  obtain ⟨hexec, -, -, hrsp⟩ := h
  refine hexec.trans (congrArg Host.Outcome.next ?_)
  rw [State.okWith]
  dsimp only [State.offering, State.inSess]
  rw [hrsp]

/-- What a submission that is answered OK leaves. -/
theorem submits_eq {u v w : State} {i : Instr} {bytes : List Byte} {x : Value} (h : submits u w i bytes)
    (hexec : exec i (u.offering bytes) = .next ((v.offering []).okWith x)) (hsess : v.sess = u.sess)
    (hdin : v.din = u.din) : w = v := by
  have hoffering := State.okWith_inj (Host.Outcome.next.inj ((submits_answer h).symm.trans hexec))
  obtain ⟨-, hwsess, hwdin, -⟩ := h
  calc w = { w.offering [] with sess := w.sess, din := w.din } := rfl
    _ = { v.offering [] with sess := v.sess, din := v.din } := by rw [hoffering, hwsess, hwdin, hsess, hdin]
    _ = v := rfl

theorem State.offering_free (u : State) (bytes : List Byte) : (u.offering bytes).sess ≠ .track := by
  simp [State.offering, State.inSess]

section submitted
variable {u w : State} {bytes : List Byte} (hroom : u.pool.ringCount < Config.nSlots)
include hroom

theorem submits_dst (hbytes : bytes ≠ []) (h : submits u w (.submit bytes.length) bytes) : w = u.submitBody bytes := by
  have hfree := u.offering_free bytes
  have hlen := List.length_pos_iff.mpr hbytes
  have hopen : ¬ (u.pool.dstCh = 0 ∨ u.pool.draining = true) := fun hclosed =>
    answer_not_refused (submits_answer h) (by decide) (execSubmit_closed hfree hlen.ne' hclosed)
  rw [not_or, Bool.not_eq_true] at hopen
  have hhi : bytes.length ≤ 112897 := Nat.le_of_not_lt fun hlong =>
    answer_not_refused (submits_answer h) (by decide) (execSubmit_tooLong hfree hopen.1 hopen.2 hlong)
  have hexec := execSubmit_room (s := u.offering bytes) ⟨hfree, hopen.1, hopen.2, hroom⟩ hlen (le_refl _) hhi
  rw [show (u.offering bytes).din = bytes from rfl, List.drop_length, List.take_length] at hexec
  exact submits_eq h hexec rfl rfl

theorem submits_dsd (h : submits u w (.submitDsd bytes.length) bytes) : w = u.submitDsdBody bytes := by
  have hfree := u.offering_free bytes
  have hopen : ¬ (u.pool.dstCh = 0 ∨ u.pool.draining = true) := fun hclosed =>
    answer_not_refused (submits_answer h) (by decide) (execSubmitDsd_closed hfree hclosed)
  rw [not_or, Bool.not_eq_true] at hopen
  have hlen : ¬ (bytes.length = 0 ∨ 225792 < bytes.length) := fun hbad =>
    answer_not_refused (submits_answer h) (by decide) (execSubmitDsd_badLength hfree hopen.1 hopen.2 hbad)
  rw [not_or, Nat.not_lt] at hlen
  have hexec := execSubmitDsd_room (s := u.offering bytes) ⟨hfree, hopen.1, hopen.2, hroom⟩ (Nat.pos_of_ne_zero hlen.1)
    (le_refl _) hlen.2
  rw [show (u.offering bytes).din = bytes from rfl, List.drop_length, List.take_length] at hexec
  exact submits_eq h hexec rfl rfl

end submitted

/-! ## A turn of the read-ahead (48_session.md R550, R551, R555) -/

/-- One turn: the track ends, or a frame is read and handed to the ring. -/
def ReadTurn (s w : State) : Prop :=
  s.readFrameBody = (none, w) ∨ ∃ f u, s.readFrameBody = (some f, u) ∧ w = u.submitFrame f

theorem State.submitFrame_empty (s : State) {f : Frame} (h : f.bytes = []) : s.submitFrame f = s := if_pos h

theorem State.submitFrame_some (s : State) {f : Frame} (h : f.bytes ≠ []) : s.submitFrame f =
    match f.type with
    | .dst => s.submitBody f.bytes
    | .dsd => s.submitDsdBody f.bytes
    | .invalid => s.submitDsdBody s.silenceFrame := if_neg h

/-- With no bytes read a turn leaves what the read left, whether the track has ended or the frame is empty. -/
theorem readTurn_empty {s u : State} {more type : Nat} (h : readsFrame s u more type []) : ReadTurn s u := by
  obtain ⟨hread, -⟩ | ⟨f, hread, hbytes, -⟩ := readsFrame_given h
  · exact .inl hread
  · exact .inr ⟨f, u, hread, (u.submitFrame_empty hbytes).symm⟩

section turn
variable {s u w : State} {bytes : List Byte} (hon : readsOn s)
include hon

/-- The ring has room after a read as before it. -/
theorem readsFrame_room {more type : Nat} (h : readsFrame s u more type bytes) : u.pool.ringCount < Config.nSlots := by
  rw [(readsFrame_only h).frame]
  exact hon.2

variable (hbytes : bytes ≠ [])
include hbytes

theorem readTurn_dst (h : readsFrame s u 1 1 bytes) (h' : submits u w (.submit bytes.length) bytes) : ReadTurn s w := by
  obtain ⟨f, hread, rfl, htype⟩ := readsFrame_frame (type := .dst) hbytes h
  refine .inr ⟨f, u, hread, ?_⟩
  rw [submits_dst (readsFrame_room hon h) hbytes h', u.submitFrame_some hbytes, htype]

theorem readTurn_dsd (h : readsFrame s u 1 0 bytes) (h' : submits u w (.submitDsd bytes.length) bytes) :
    ReadTurn s w := by
  obtain ⟨f, hread, rfl, htype⟩ := readsFrame_frame (type := .dsd) hbytes h
  refine .inr ⟨f, u, hread, ?_⟩
  rw [submits_dsd (readsFrame_room hon h) h', u.submitFrame_some hbytes, htype]

theorem readTurn_invalid {silence : List Byte} (h : readsFrame s u 1 2 bytes)
    (hsilence : silence = List.replicate (s.ch * (s.dsdRate / 600)) s.silence)
    (h' : submits u w (.submitDsd silence.length) silence) : ReadTurn s w := by
  obtain ⟨f, hread, rfl, htype⟩ := readsFrame_frame (type := .invalid) hbytes h
  have hframe : silence = u.silenceFrame := by
    rw [hsilence, State.silenceFrame, State.trackFrameBytes, Config.frameBytes_eq, (readsFrame_only h).frame]
  refine .inr ⟨f, u, hread, ?_⟩
  rw [submits_dsd (readsFrame_room hon h) h', u.submitFrame_some hbytes, htype, hframe]

end turn

/-! ## The whole read-ahead -/

theorem State.readFrameBody_none_eot {s u : State} (h : s.readFrameBody = (none, u)) : u.fx.eot = true := by
  unfold State.readFrameBody at h
  split at h
  · next heot =>
    cases h
    exact heot
  · split at h <;> cases h
    rfl

/-- If `n` turns of the read-ahead fill the ring from `w`, one more does from the state before the turn. -/
theorem State.fillRing_of_turn {n : Nat} {s w t : State} (hon : readsOn s) (hturn : ReadTurn s w)
    (h : ∀ fuel, n ≤ fuel → State.fillRing fuel w = t) : ∀ fuel, n + 1 ≤ fuel → State.fillRing fuel s = t
  | fuel + 1, hfuel => by
    have hon' : s.fx.eot = false ∧ s.pool.ringCount < Config.nSlots := hon
    rw [← h fuel (Nat.le_of_succ_le_succ hfuel), State.fillRing, if_pos hon']
    obtain hread | ⟨f, u, hread, rfl⟩ := hturn
    · have hended : ¬ readsOn w := fun hw => absurd hw.1 (by simp [State.readFrameBody_none_eot hread])
      rw [hread, State.fillRing_done hended]
    · rw [hread]

/-- What a `ReadAhead` comes to is what `fillRing` leaves. -/
theorem fillRing_of_readAhead {n : Nat} {s t : State} (h : ReadAhead n s t) (hdone : ¬ readsOn t) :
    ∀ fuel, n ≤ fuel → State.fillRing fuel s = t := by
  induction h with
  | here s => exact fun fuel _ => State.fillRing_done hdone fuel
  | ended n s u t hon hread _ ih => exact State.fillRing_of_turn hon (readTurn_empty hread) (ih hdone)
  | empty n type s u t hon hread _ ih => exact State.fillRing_of_turn hon (readTurn_empty hread) (ih hdone)
  | dst n s u w t bytes hon hread hbytes hsubmit _ ih =>
    exact State.fillRing_of_turn hon (readTurn_dst hon hbytes hread hsubmit) (ih hdone)
  | dsd n s u w t bytes hon hread hbytes hsubmit _ ih =>
    exact State.fillRing_of_turn hon (readTurn_dsd hon hbytes hread hsubmit) (ih hdone)
  | invalid n s u w t bytes silence hon hread hbytes hsilence hsubmit _ ih =>
    exact State.fillRing_of_turn hon (readTurn_invalid hon hbytes hread hsilence hsubmit) (ih hdone)

/-- `DECODE_NEXT` does what it does in the state that the read-ahead comes to. -/
theorem execDecodeNext_readAhead {n : Nat} {s t : State} (hsess : s.sess = .track) (h : ReadAhead n s t)
    (hdone : ¬ readsOn t) (hn : n ≤ 2 ^ 70) : exec .decodeNext s = exec .decodeNext t := by
  have hfill := fillRing_of_readAhead h hdone (2 ^ 70) hn
  have hsess' : t.sess = .track := by rw [← hfill, (State.fillRing_sessionKept (2 ^ 70) s).sess, hsess]
  rw [execDecodeNext_track hsess hfill, execDecodeNext_track hsess' (State.fillRing_done hdone _)]

end Sys2Proof.Machine
end

section
/-! PROOFS (O40). The read-ahead is a `ReadAhead`, the block is the oldest of the jobs, and the end of the track is one
frame of silence (48_session.md R550 to R552, R555). -/

-- One thread: the check limits the memory of a compile, and each thread reserves its own.
set_option Elab.async false

open Sys2Proof.Claims

namespace Sys2Proof.Machine

/-! ## The jobs that retiring the oldest leaves -/

/-- With the oldest of the jobs retired, the others are left (44_dst_pool.md R343). -/
theorem jobs_collectBody {s : State} (h : s.RingInv) {job : Nat × Nat × List Byte}
    {rest : List (Nat × Nat × List Byte)} (hjobs : jobs s = job :: rest) :
    0 < s.pool.ringCount ∧ jobResult s (s.slot s.pool.tail) = job ∧ jobs s.collectBody.2 = rest := by
  have hsome : 0 < s.pool.ringCount := by
    rw [← length_jobs, hjobs]
    exact Nat.succ_pos _
  have holdest := jobs_eq_cons h hsome
  have hothers := jobs_eq_cons h.retire (s.retire_pool.symm ▸ hsome)
  rw [hjobs] at holdest
  rw [jobs_retire, hjobs] at hothers
  exact ⟨hsome, (List.cons.inj holdest).1.symm, (List.cons.inj hothers).2.symm⟩

/-! ## The first block (48_session.md R552) -/

section block
variable (s : State) (p : Pc)

theorem Pc.trim_firstBlock : p.trim s.firstBlock = if s.pc.convertCalled = true then 0 else min p.pcmOutDelta p.pcmN := by
  rw [State.firstBlock]
  cases s.pc.convertCalled <;> rfl

theorem Pc.fadeIn_firstBlock : p.fadeIn s.firstBlock = if s.pc.convertCalled = true then p
    else (p.degibbs (p.trim s.firstBlock) (p.pcmN - p.trim s.firstBlock) false).2 := by
  rw [State.firstBlock]
  cases s.pc.convertCalled <;> rfl

end block

/-- The bytes emitted for a block are those of its stored samples behind the trim. -/
theorem Pc.Inv.packed_fadeIn {p : Pc} (h : p.Inv) (first : Bool) :
    (p.fadeIn first).packed (p.trim first) (p.pcmN - p.trim first) =
      packedBytes (p.fadeIn first) (p.trim first) (p.pcmN - p.trim first) := by
  have hle := p.trim_le first
  exact (h.fadeIn first).packed_eq (by rw [Pc.fadeIn_pcmN]; omega)

/-! ## The end of the track -/

theorem State.silenceFrame_eq (s : State) :
    s.silenceFrame = List.replicate (s.ch * (s.dsdRate / 600)) s.silence := by
  rw [State.silenceFrame, State.trackFrameBytes, Config.frameBytes_eq]

/-- The bytes emitted at the end of the track are those of the first stored samples. -/
theorem Pc.Inv.packed_tail {s : State} (h : s.pc.Inv) :
    (s.tail.degibbs 0 s.tailLength true).2.packed 0 s.tailLength =
      packedBytes (s.tail.degibbs 0 s.tailLength true).2 0 s.tailLength := by
  refine ((h.convert _ _).degibbs _ _ _).packed_eq ?_
  rw [(Pc.degibbs_frame _ _ _ _).1, Nat.zero_add]
  exact Nat.min_le_right _ _

/-- Settles O40. -/
theorem decodeNextRetiresTheOldest : Obligations.DecodeNextRetiresTheOldest := by
  unfold Obligations.DecodeNextRetiresTheOldest
  refine ⟨fun n s t hsess h hdone hn => execDecodeNext_readAhead hsess h hdone hn.le, ?_, ?_⟩
  · intro s st v out rest p skip hsess hdone hring hpc hjobs hp hskip
    obtain ⟨hsome, hresult, hrest⟩ := jobs_collectBody hring hjobs
    have htrim : p.trim s.firstBlock = skip := (p.trim_firstBlock s).trans hskip.symm
    have hfade := p.fadeIn_firstBlock s
    have hexec := execDecodeNext_block hsess hdone hsome hresult
    rw [← hp, (hp ▸ hpc.convert _ _ : p.Inv).packed_fadeIn, htrim, (State.collectBody_oldest hresult).2] at hexec
    rw [htrim] at hfade
    have hsilence : s.silence = s.collectBody.2.silence := by rw [s.collectBody_sessionKept.frame]
    refine ⟨_, hexec, ?_, hfade, rfl⟩
    rw [← hrest]
    exact jobs_of_same rfl rfl hsilence
  · rintro s p n hsess heot hempty hpc hcalled rfl rfl
    have hdone : ¬ readsOn s := fun h => absurd h.1 (by simp [heot])
    rw [← s.silenceFrame_eq, execDecodeNext_track hsess (State.fillRing_done hdone _), if_neg (by omega),
      State.finish_flushTrack hcalled, hpc.packed_tail]
    rfl

end Sys2Proof.Machine
end

section
/-! PROOFS (O13). The session state changes in `OPEN`, `INIT_TRACK`, `DECODE_NEXT`, `CLOSE` and `RESET` alone
(48_session.md R541). -/

-- One thread: the check limits the memory of a compile, and each thread reserves its own.
set_option Elab.async false

open Sys2Proof.Claims

namespace Sys2Proof.Machine

/-! ## How the parse of a container fails (48_session.md R540) -/

/-- A part of the parse that fails does so with `UnsupportedFormat` or `CorruptContainer` (46_fx_files.md R462). -/
def Scan.Raises {α : Type} (p : Scan α) : Prop :=
  ∀ s e t, p s = .error e t → e.exc = .unsupportedFormat ∨ e.exc = .corruptContainer

section raises
variable {α β : Type}

theorem Scan.raises_of_total {p : Scan α} (h : ∀ s, ∃ a t, p s = .ok a t) : p.Raises := by
  intro s e t hrun
  obtain ⟨a, u, hok⟩ := h s
  cases hok.symm.trans hrun

theorem Scan.raises_pure (a : α) : (pure a : Scan α).Raises := Scan.raises_of_total fun s => ⟨a, s, rfl⟩

theorem Scan.raises_read (off n : Nat) : (Scan.read off n).Raises := Scan.raises_of_total fun _ => ⟨_, _, rfl⟩

theorem Scan.raises_sector (lsn : Nat) : (Scan.sector lsn).Raises := Scan.raises_of_total fun _ => ⟨_, _, rfl⟩

theorem Scan.raises_mediumSize : Scan.mediumSize.Raises := Scan.raises_of_total fun _ => ⟨_, _, rfl⟩

theorem Scan.raises_setFx (f : Fx → Fx) : (Scan.setFx f).Raises := Scan.raises_of_total fun _ => ⟨_, _, rfl⟩

theorem Scan.raises_throw {e : OpenError} (h : e.exc = .unsupportedFormat ∨ e.exc = .corruptContainer) :
    (throw e : Scan α).Raises := by
  rintro s _ t ⟨⟩
  exact h

theorem Scan.raises_unsupported (info : Value) :
    (throw { exc := .unsupportedFormat, info := info } : Scan α).Raises := Scan.raises_throw (.inl rfl)

theorem Scan.raises_corrupt (info : Value) :
    (throw { exc := .corruptContainer, info := info } : Scan α).Raises := Scan.raises_throw (.inr rfl)

theorem Scan.Raises.bind {p : Scan α} {f : α → Scan β} (hp : p.Raises) (hf : ∀ a, (f a).Raises) : (p >>= f).Raises := by
  intro s e t h
  obtain hfirst | ⟨a, u, -, hthen⟩ := (bind_eq_error p f s t e).mp h
  · exact hp s e t hfirst
  · exact hf a u e t hthen

theorem Scan.raises_check (ok : Bool) (info : Nat) : (Scan.check ok info).Raises := by
  unfold Scan.check
  split
  · exact Scan.raises_pure _
  · exact Scan.raises_corrupt _

theorem Scan.raises_checks : ∀ cs, (Scan.checks cs).Raises
  | [] => Scan.raises_pure _
  | _ :: cs => (Scan.raises_check _ _).bind fun _ => Scan.raises_checks cs

theorem Scan.raises_need (off n : Nat) : (Scan.need off n).Raises :=
  (Scan.raises_read off n).bind fun _ => (Scan.raises_check _ _).bind fun _ => Scan.raises_pure _

theorem Scan.raises_chunk (p stop : Nat) : (Scan.chunk p stop).Raises :=
  (Scan.raises_need p 12).bind fun _ => (Scan.raises_check _ _).bind fun _ => Scan.raises_pure _

/-- The data of a chunk read, checked and kept: the common form of what the walk does with a chunk. -/
theorem Scan.raises_chunkCheck (c : Chunk) (p n : Nat) {ok : List Byte → Bool} {info : List Byte → Nat}
    {f : List Byte → Scan α} (hf : ∀ bs, (f bs).Raises) :
    (Scan.chunkData c p n >>= fun bs => Scan.check (ok bs) (info bs) >>= fun _ => f bs : Scan α).Raises :=
  ((Scan.raises_check _ _).bind fun _ => Scan.raises_need _ _).bind fun bs => (Scan.raises_check _ _).bind fun _ => hf bs

theorem Scan.raises_walk {f : Nat → Chunk → α → Scan α} (hf : ∀ p c a, (f p c a).Raises) (stop : Nat) :
    ∀ fuel p acc, (Scan.walk f stop fuel p acc).Raises
  | 0, _, _ => Scan.raises_pure _
  | fuel + 1, p, acc => by
    rw [Scan.walk]
    split
    · exact (Scan.raises_chunk p stop).bind fun _ => (hf _ _ _).bind fun _ => Scan.raises_walk hf stop fuel _ _
    · exact Scan.raises_pure _

end raises

theorem scanProperty_raises (p : Nat) (c : Chunk) (a : DffScan) : (scanProperty p c a).Raises := by
  unfold scanProperty
  split
  · exact Scan.raises_chunkCheck c p _ fun _ => Scan.raises_pure _
  · split
    · exact Scan.raises_chunkCheck c p _ fun _ => Scan.raises_pure _
    · split
      · exact Scan.raises_chunkCheck c p _ fun _ => Scan.raises_pure _
      · exact Scan.raises_pure _

theorem scanForm_raises (p : Nat) (c : Chunk) (a : DffScan) : (scanForm p c a).Raises := by
  unfold scanForm
  split
  · exact Scan.raises_chunkCheck c p _ fun _ => Scan.raises_pure _
  · split
    · exact Scan.raises_chunkCheck c p _ fun _ => Scan.raises_walk scanProperty_raises _ _ _ _
    · split
      · exact Scan.raises_pure _
      · split
        · exact (Scan.raises_check _ _).bind fun _ => (Scan.raises_chunk _ _).bind fun _ =>
            (Scan.raises_check _ _).bind fun _ => Scan.raises_chunkCheck _ _ _ fun _ => Scan.raises_pure _
        · split <;> exact Scan.raises_pure _

theorem finishDff_raises (a : DffScan) : (finishDff a).Raises := by
  unfold finishDff
  split
  · split
    · split
      · exact Scan.raises_setFx _
      · exact Scan.raises_corrupt _
    · exact Scan.raises_corrupt _
  · exact Scan.raises_corrupt _

theorem openDff_raises : openDff.Raises :=
  (Scan.raises_read 0 16).bind fun _ => (Scan.raises_check _ _).bind fun _ => Scan.raises_mediumSize.bind fun _ =>
    (Scan.raises_walk scanForm_raises _ _ _ _).bind fun _ => finishDff_raises _

theorem openDsf_raises : openDsf.Raises := by
  refine (Scan.raises_read 0 92).bind fun hd => ?_
  have hrest : (Scan.mediumSize >>= fun size => Scan.checks (dsfHeaderChecks hd size) >>= fun _ =>
      Scan.setFx fun fx => fx.openedDsf hd : Scan Unit).Raises :=
    Scan.raises_mediumSize.bind fun _ => (Scan.raises_checks _).bind fun _ => Scan.raises_setFx _
  dsimp only
  split
  · exact (Scan.raises_corrupt _).bind fun _ => hrest
  · exact (Scan.raises_pure ()).bind fun _ => hrest

theorem scanTrackList_raises (areaLsn : Nat) : ∀ n lsn, (scanTrackList areaLsn n lsn).Raises
  | 0, _ => (Scan.raises_check _ _).bind fun _ => Scan.raises_pure _
  | n + 1, lsn => by
    refine (Scan.raises_sector lsn).bind fun _ => (Scan.raises_check _ _).bind fun _ => ?_
    split
    · exact Scan.raises_pure _
    · exact scanTrackList_raises areaLsn n _

theorem parseAreaAt_raises (magic : List Byte) (lsn n : Nat) : (parseAreaAt magic lsn n).Raises := by
  unfold parseAreaAt
  split
  · exact Scan.raises_pure _
  · exact (Scan.raises_check _ _).bind fun _ => (Scan.raises_sector _).bind fun _ => (Scan.raises_check _ _).bind fun _ =>
      (Scan.raises_check _ _).bind fun _ => (Scan.raises_check _ _).bind fun _ => (Scan.raises_check _ _).bind fun _ =>
        (Scan.raises_check _ _).bind fun _ => (scanTrackList_raises _ _ _).bind fun _ => Scan.raises_pure _

theorem openSector_raises (psn : Bool) : (openSector psn).Raises :=
  (Scan.raises_setFx _).bind fun _ => (Scan.raises_sector _).bind fun _ => (Scan.raises_check _ _).bind fun _ =>
    (Scan.raises_check _ _).bind fun _ => (Scan.raises_check _ _).bind fun _ => (parseAreaAt_raises _ _ _).bind fun _ =>
      (parseAreaAt_raises _ _ _).bind fun _ => Scan.raises_setFx _

theorem openDisc_raises : openDisc.Raises := by
  refine (Scan.raises_read _ 8).bind fun _ => ?_
  split
  · exact openSector_raises false
  · refine (Scan.raises_read _ 8).bind fun _ => ?_
    split
    · exact openSector_raises true
    · exact Scan.raises_unsupported _

/-- Why `OPEN` fails when its operand and the session are right (48_session.md R540). -/
theorem fxOpen_raises (kind : KindOperand) : (fxOpen kind).Raises := by
  refine (Scan.raises_read 0 4).bind fun _ => ?_
  split
  · exact openDff_raises
  · split
    · exact openDsf_raises
    · split
      · exact openDisc_raises
      · exact Scan.raises_unsupported _

/-! ## The session commands that can be granted -/

/-- An answer that grants a change of the session with OK, or refuses it. -/
def SessionAnswered (s : State) (granted : State → Prop) (o : Out) : Prop :=
  ∀ t, o = .next t → ∃ r, t.rsp = s.rsp ++ [r] ∧ if r.status = 0 then granted t else t.sess = s.sess

section answered
variable {s t : State} {granted : State → Prop}

theorem sessionAnswered_ok {v : Value} (hrsp : t.rsp = s.rsp) (h : granted (t.respond v)) :
    SessionAnswered s granted (t.ok v) := by
  rintro _ ⟨⟩
  exact ⟨{ status := 0, value := v }, by rw [State.respond_rsp, hrsp], by rwa [if_pos rfl]⟩

theorem sessionAnswered_fail {e : Exc} {v : Value} (he : BitVec.ofNat 8 e.code ≠ 0) (hrsp : t.rsp = s.rsp)
    (hsess : t.sess = s.sess) : SessionAnswered s granted (t.fail e v) := by
  rintro _ ⟨⟩
  exact ⟨{ status := BitVec.ofNat 8 e.code, value := v }, by rw [State.raise_rsp, hrsp], by rwa [if_neg he]⟩

end answered

section commands
variable (s : State)

/-- `OPEN` opens a closed session or leaves it as it was. -/
theorem execOpen_answered (kind : Nat) :
    SessionAnswered s (fun t => s.sess = .closed ∧ t.sess = .opened) (execOpen kind s) := by
  unfold execOpen
  split
  · exact sessionAnswered_fail (by decide) rfl rfl
  · next k _ =>
    split
    · exact sessionAnswered_fail (by decide) rfl rfl
    · next hclosed =>
      have hframe : (endState (fxOpen k s.resetFx)).rsp = s.rsp ∧ (endState (fxOpen k s.resetFx)).sess = s.sess := by
        rw [(fxOpen_only k s.resetFx).frame]
        exact ⟨rfl, rfl⟩
      split
      · next t ht =>
        rw [ht] at hframe
        exact sessionAnswered_ok hframe.1 ⟨not_not.mp hclosed, rfl⟩
      · next e t ht =>
        rw [ht] at hframe
        have he : BitVec.ofNat 8 e.exc.code ≠ 0 := by
          obtain h | h := fxOpen_raises k _ _ _ ht <;> rw [h] <;> decide
        exact sessionAnswered_fail he hframe.1 hframe.2

/-- `INIT_TRACK` starts a track in an open session or leaves the session as it was. -/
theorem execInitTrack_answered (track area pcm : Nat) :
    SessionAnswered s (fun t => s.sess ≠ .closed ∧ t.sess = .track) (execInitTrack track area pcm s) := by
  unfold execInitTrack
  split
  · exact sessionAnswered_fail (by decide) rfl rfl
  · next hopen =>
    split
    · exact sessionAnswered_fail (by decide) rfl rfl
    · exact sessionAnswered_fail (by decide) rfl rfl
    · next a rate _ _ =>
      split
      · exact sessionAnswered_fail (by decide) rfl rfl
      · split
        · exact sessionAnswered_fail (by decide) rfl rfl
        · have hframe : (s.readTrackList track a).2.rsp = s.rsp ∧ (s.readTrackList track a).2.sess = s.sess := by
            rw [(s.readTrackList_only track a).frame]
            exact ⟨rfl, rfl⟩
          split
          · next hr =>
            rw [hr] at hframe
            exact sessionAnswered_fail (by decide) hframe.1 hframe.2
          · next hr =>
            rw [hr] at hframe
            exact sessionAnswered_ok hframe.1 ⟨hopen, rfl⟩

end commands

/-! ## Every other command keeps the session state -/

/-- The next state of an outcome, if it has one, is in the session state of `s`. -/
def State.KeepsSess (s : State) (o : Out) : Prop := ∀ t, o = .next t → t.sess = s.sess

section gates
variable {s t : State} {e : Exc} {v : Value}

theorem State.keepsSess_next (h : t.sess = s.sess) : s.KeepsSess (.next t) := by
  rintro _ ⟨⟩
  exact h

theorem State.keepsSess_ok (h : t.sess = s.sess) : s.KeepsSess (t.ok v) := State.keepsSess_next h

theorem State.keepsSess_fail (h : t.sess = s.sess) : s.KeepsSess (t.fail e v) := State.keepsSess_next h

theorem State.keepsSess_finish {r : Reply} (h : t.sess = s.sess) : s.KeepsSess (t.finish r) := by
  unfold State.finish
  split
  · exact State.keepsSess_ok h
  · exact State.keepsSess_fail h

/-- A check that refuses the command, as `unlessOwned`, `withConverter`, `withTrack`, `withContainer` and every operand
check do. -/
theorem State.keepsSess_check {c : Prop} [Decidable c] {k : Out} (hk : s.KeepsSess k) :
    s.KeepsSess (if c then s.fail e v else k) := by
  split
  · exact State.keepsSess_fail rfl
  · exact hk

/-- The gates in front of a command on the selected slot (40_bitreader.md R200 (a), 48_session.md R542). -/
theorem State.keepsSess_slotCommand {k : Slot → Out} (hk : ∀ sl, s.KeepsSess (k sl)) :
    s.KeepsSess (s.unlessOwned (s.withFreeSlot k)) := by
  refine State.keepsSess_check ?_
  unfold State.withFreeSlot
  split
  · exact hk _
  · exact State.keepsSess_fail rfl

/-- The gates in front of a converter command (48_session.md R542, 60_exceptions.md R602). -/
theorem State.keepsSess_converterCommand {k : Pc → Out} (hk : s.KeepsSess (k s.pc)) :
    s.KeepsSess (s.unlessOwned (s.withConverter k)) := State.keepsSess_check (State.keepsSess_check hk)

/-- A command that answers a value of the open container (46_fx_files.md R458 to R461). -/
theorem State.keepsSess_containerValue : s.KeepsSess (s.withContainer (s.ok v)) :=
  State.keepsSess_check (State.keepsSess_ok rfl)

/-- A command that takes bytes from DIN waits for them, then goes on without them (70_reset_and_hazards.md R710 (k)). -/
theorem State.keepsSess_takeDin {n : Nat} {i : Instr} {k : List Byte → State → Out}
    (hk : ∀ (bytes : List Byte) (t : State), t.sess = s.sess → s.KeepsSess (k bytes t)) :
    s.KeepsSess (s.takeDin n i k) := by
  unfold State.takeDin
  split
  · exact State.keepsSess_next rfl
  · exact hk _ _ rfl

theorem State.keepsSess_answerRead (r : Option Value × BitReader) : s.KeepsSess (s.answerRead r) := by
  unfold State.answerRead
  split
  · exact State.keepsSess_ok rfl
  · exact State.keepsSess_fail rfl

end gates

/-! ### The units -/

section units
variable (s : State)

theorem execBrLoad_keepsSess (size : Nat) : s.KeepsSess (execBrLoad size s) :=
  State.keepsSess_slotCommand fun _ => State.keepsSess_check <|
    State.keepsSess_takeDin fun _ _ h => State.keepsSess_ok h

theorem execAcStart_keepsSess : s.KeepsSess (execAcStart s) := State.keepsSess_slotCommand fun _ => State.keepsSess_ok rfl

theorem execAcDecode_keepsSess (p flush : Nat) : s.KeepsSess (execAcDecode p flush s) := by
  refine State.keepsSess_slotCommand fun sl => ?_
  split
  · exact State.keepsSess_fail rfl
  · exact State.keepsSess_ok rfl
  · refine State.keepsSess_check ?_
    dsimp only
    split
    · rintro t ⟨⟩
    · exact State.keepsSess_ok rfl

theorem execDstDecode_keepsSess : s.KeepsSess (execDstDecode s) := by
  refine State.keepsSess_slotCommand fun sl => State.keepsSess_check ?_
  dsimp only
  split
  · exact State.keepsSess_ok rfl
  · exact State.keepsSess_fail rfl

theorem execSlotRead_keepsSess : s.KeepsSess (execSlotRead s) :=
  State.keepsSess_slotCommand fun _ => State.keepsSess_ok rfl

theorem execPoolInit_keepsSess (ch : Nat) : s.KeepsSess (execPoolInit ch s) :=
  State.keepsSess_check <| State.keepsSess_check <| State.keepsSess_check <| State.keepsSess_ok rfl

/-- A full ring holds the submission, else its bytes are taken and loaded (44_dst_pool.md R342, R346, R347). -/
theorem State.keepsSess_load {n : Nat} {i : Instr} {k : List Byte → State → Out}
    (hk : ∀ (bytes : List Byte) (t : State), t.sess = s.sess → s.KeepsSess (k bytes t)) :
    s.KeepsSess (if s.ringFull = true then .next (s.jam i) else s.takeDin n i k) := by
  split
  · exact State.keepsSess_next rfl
  · exact State.keepsSess_takeDin hk

theorem execSubmit_keepsSess (size : Nat) : s.KeepsSess (execSubmit size s) := by
  refine State.keepsSess_check ?_
  split
  · exact State.keepsSess_check (State.keepsSess_ok rfl)
  · exact State.keepsSess_check <| State.keepsSess_check <| s.keepsSess_load fun _ _ h => State.keepsSess_ok h

theorem execSubmitDsd_keepsSess (size : Nat) : s.KeepsSess (execSubmitDsd size s) :=
  State.keepsSess_check <| State.keepsSess_check <| State.keepsSess_check <|
    s.keepsSess_load fun _ _ h => State.keepsSess_ok h

theorem execCollect_keepsSess (handle : Nat) : s.KeepsSess (execCollect handle s) :=
  State.keepsSess_check <| State.keepsSess_check <| State.keepsSess_check <|
    State.keepsSess_finish s.collectBody_sessionKept.sess

theorem execPcInit_keepsSess (ch dsd pcm : Nat) : s.KeepsSess (execPcInit ch dsd pcm s) := by
  refine State.keepsSess_check <| State.keepsSess_check ?_
  split
  · exact State.keepsSess_fail rfl
  · exact State.keepsSess_fail rfl
  · exact State.keepsSess_ok rfl

theorem execPcConvert_keepsSess (size : Nat) : s.KeepsSess (execPcConvert size s) :=
  State.keepsSess_converterCommand <| State.keepsSess_check <|
    State.keepsSess_takeDin fun _ _ h => State.keepsSess_ok h

theorem execPcDegibbs_keepsSess (side n : Nat) : s.KeepsSess (execPcDegibbs side n s) := by
  refine State.keepsSess_converterCommand ?_
  split
  · exact State.keepsSess_fail rfl
  · exact State.keepsSess_check (State.keepsSess_ok rfl)

theorem execPcPack_keepsSess (skip count : Nat) : s.KeepsSess (execPcPack skip count s) :=
  State.keepsSess_converterCommand <| State.keepsSess_check (State.keepsSess_ok rfl)

end units

/-! ### The extractor and the registers -/

section extractor
variable (s : State)

theorem execSetTrack_keepsSess (track area : Nat) : s.KeepsSess (execSetTrack track area s) := by
  refine State.keepsSess_check <| State.keepsSess_check ?_
  split
  · exact State.keepsSess_fail rfl
  · next a _ =>
    refine State.keepsSess_check ?_
    have hread := (s.readTrackList_only track a).sessionKept.sess
    split
    · next hr =>
      rw [hr] at hread
      exact State.keepsSess_fail hread
    · next hr =>
      rw [hr] at hread
      exact State.keepsSess_ok hread

theorem execReadFrame_keepsSess : s.KeepsSess (execReadFrame s) := by
  refine State.keepsSess_check <| State.keepsSess_check ?_
  have hread := s.readFrameBody_only.sessionKept.sess
  split <;> next hr =>
    rw [hr] at hread
    exact State.keepsSess_ok hread

theorem execSeek_keepsSess (frame : Nat) : s.KeepsSess (execSeek frame s) := by
  refine State.keepsSess_check <| State.keepsSess_check ?_
  have hseek := (s.seekKind_only frame).sessionKept.sess
  split
  · next hr =>
    rw [hr] at hseek
    exact State.keepsSess_fail hseek
  · next hr =>
    rw [hr] at hseek
    exact State.keepsSess_ok hseek

theorem execRdreg_keepsSess (idx : Nat) : s.KeepsSess (execRdreg idx s) := by
  unfold execRdreg
  split
  · exact State.keepsSess_ok rfl
  · exact State.keepsSess_fail rfl

theorem State.writeReg_sess (r : WritableReg) (v : Nat) : (s.writeReg r v).sess = s.sess := by cases r <;> rfl

theorem execWrreg_keepsSess (idx imm16 : Nat) : s.KeepsSess (execWrreg idx imm16 s) := by
  unfold execWrreg
  split
  · exact State.keepsSess_fail rfl
  · exact State.keepsSess_check <| State.keepsSess_check <| State.keepsSess_check <|
      State.keepsSess_ok (s.writeReg_sess _ imm16)

end extractor

/-! ## The session commands refused in the wrong state (48_session.md R541) -/

theorem execOpen_refused {s : State} {kind : Nat} (hkind : kind ≤ 3) (hsess : s.sess ≠ .closed) :
    exec (.openMedium kind) s = .next (s.refusedWith 3 s.sess.code) := by
  obtain ⟨k, hk⟩ : ∃ k, kindOperand kind = some k := by interval_cases kind <;> exact ⟨_, rfl⟩
  show execOpen kind s = _
  rw [execOpen, hk]
  exact (if_pos hsess).trans (s.fail_eq .eState _)

theorem execInitTrack_refused {s : State} {track area pcm : Nat} (hsess : s.sess = .closed) :
    exec (.initTrack track area pcm) s = .next (s.refusedWith 3 0) := (if_pos hsess).trans (s.fail_eq .eState 0)

/-- Bit 0 of the answer of `DECODE_NEXT` is `more` (48_session.md R550). -/
theorem nextAnswer_bit_zero {more n : Nat} (h : more ≤ 1) :
    (BitVec.ofNat 64 (more + n * 2 ^ 8)).getLsbD 0 = true ↔ more = 1 := by
  rw [BitVec.getLsbD_ofNat, Nat.testBit_zero]
  simp only [Nat.zero_lt_succ, decide_true, Bool.true_and, decide_eq_true_iff]
  omega

theorem execDecodeNext_sess {s t : State} (hsess : s.sess = .track) (h : exec .decodeNext s = .next t) :
    ∃ v : Value, t.rsp = s.rsp ++ [{ status := 0, value := v }] ∧
      t.sess = if v.getLsbD 0 = true then .track else .drained := by
  obtain ⟨u, hexec, more, n, bytes, hu, -, hmore, -⟩ := execDecodeNext_answered hsess
  cases hexec.symm.trans h
  refine ⟨_, by rw [hu], ?_⟩
  obtain ⟨rfl, htrack⟩ | ⟨rfl, hdrained, -⟩ := hmore
  · rw [if_pos ((nextAnswer_bit_zero le_rfl).mpr rfl), htrack]
  · rw [if_neg (mt (nextAnswer_bit_zero (by decide)).mp (by decide)), hdrained]

/-! ## The table -/

/-- Settles O13: the session commands by their rows, every other command keeps the state. -/
theorem sessionStateMachine : Obligations.SessionStateMachine := by
  unfold Obligations.SessionStateMachine
  refine ⟨fun s t hrst h => ?_, fun i s t h => ?_⟩
  · rw [step_rst hrst] at h
    cases h
    rfl
  cases i with
  | openMedium kind =>
    refine ⟨fun hkind hsess => ?_, execOpen_answered s kind t h⟩
    exact Host.Outcome.next.inj (h.symm.trans (execOpen_refused hkind hsess))
  | initTrack track area pcm =>
    refine ⟨fun hsess => ?_, execInitTrack_answered s track area pcm t h⟩
    exact Host.Outcome.next.inj (h.symm.trans (execInitTrack_refused hsess))
  | decodeNext =>
    refine ⟨fun hsess => ?_, fun hsess => execDecodeNext_sess hsess h⟩
    exact Host.Outcome.next.inj (h.symm.trans (execDecodeNext_refused hsess))
  | close => cases h; rfl
  | reset => cases h; rfl
  | nop => cases h; rfl
  | rdreg idx => exact execRdreg_keepsSess s idx t h
  | wrreg idx imm16 => exact execWrreg_keepsSess s idx imm16 t h
  | setTrack track area => exact execSetTrack_keepsSess s track area t h
  | readFrame => exact execReadFrame_keepsSess s t h
  | seek frame => exact execSeek_keepsSess s frame t h
  | getChannels | getSamplerate | getFramerate | getProgress => exact State.keepsSess_containerValue t h
  | poolInit ch => exact execPoolInit_keepsSess s ch t h
  | submit size => exact execSubmit_keepsSess s size t h
  | submitDsd size => exact execSubmitDsd_keepsSess s size t h
  | collect handle => exact execCollect_keepsSess s handle t h
  | dstDecode => exact execDstDecode_keepsSess s t h
  | slotRead => exact execSlotRead_keepsSess s t h
  | brLoad size => exact execBrLoad_keepsSess s size t h
  | brReadBit | brReadByteAligned => exact State.keepsSess_slotCommand (fun _ => State.keepsSess_answerRead _) t h
  | brReadBits n | brReadSigned n | brRice n =>
    exact State.keepsSess_slotCommand (fun _ => State.keepsSess_check (State.keepsSess_answerRead _)) t h
  | acStart => exact execAcStart_keepsSess s t h
  | acDecode p flush => exact execAcDecode_keepsSess s p flush t h
  | acQuantize len pred => exact State.keepsSess_check (State.keepsSess_ok rfl) t h
  | pcInit ch dsd pcm => exact execPcInit_keepsSess s ch dsd pcm t h
  | pcConvert size => exact execPcConvert_keepsSess s size t h
  | pcGetDelay => exact State.keepsSess_check (State.keepsSess_ok rfl) t h
  | pcIsConvertCalled => exact State.keepsSess_ok rfl t h
  | pcDegibbs side n => exact execPcDegibbs_keepsSess s side n t h
  | pcPack skip count => exact execPcPack_keepsSess s skip count t h
  | pcReadf => exact State.keepsSess_converterCommand (State.keepsSess_ok rfl) t h
  | dstfCoded x => cases h; rfl
  | dstfPlain x => cases h; rfl

end Sys2Proof.Machine
end

section
/-! PROOFS (O6, O8, O60). The rst input and what it leaves (70_reset_and_hazards.md R700, R701), and a command that waits
for bytes of DIN (R710 (k)): each of the four stands behind its checks, and is then held. -/

-- One thread: the check limits the memory of a compile, and each thread reserves its own.
set_option Elab.async false

namespace Sys2Proof.Machine

/-- Settles O6. -/
theorem resetInputResets : Obligations.ResetInputResets := by
  unfold Obligations.ResetInputResets
  exact fun s hrst => step_rst hrst

/-! ## Commands short of DIN (70_reset_and_hazards.md R710 (k)) -/

section short
variable {s : State} {size : Nat} (hfree : s.sess ≠ .track) (hdin : s.din.length < size)
include hfree hdin

theorem execBrLoad_short (hslot : s.selected.slotState = .free) (hsize : size ≤ 112897) :
    execBrLoad size s = .next { s with held := some (.brLoad size) } := by
  have hcheck : ¬ Config.inCap < size := by rwa [Config.inCap_eq, Nat.not_lt]
  rw [execBrLoad, State.unlessOwned_free s _ hfree, State.withFreeSlot_free s _ hslot, if_neg hcheck,
    State.takeDin_short s size _ _ hdin]

theorem execPcConvert_short (ht : s.pc.t ≠ 0) (hch : size % s.pc.ch = 0) (hframe : size / s.pc.ch ≤ 4704 * s.pc.k) :
    execPcConvert size s = .next { s with held := some (.pcConvert size) } := by
  have hcheck : ¬ (size % s.pc.ch ≠ 0 ∨ Config.orderFrameBytes s.pc.k < size / s.pc.ch) := by
    rw [Config.orderFrameBytes_eq]
    omega
  rw [execPcConvert, State.unlessOwned_free s _ hfree, State.withConverter_some s _ ht, if_neg hcheck,
    State.takeDin_short s size _ _ hdin]

variable (hch : s.pool.dstCh ≠ 0) (hdraining : s.pool.draining = false) (hroom : s.pool.ringCount < Config.nSlots)
include hch hdraining hroom

theorem execSubmit_short (hsize : size ≤ 112897) :
    execSubmit size s = .next { s with held := some (.submit size) } := by
  rw [execSubmit_checked hfree hch hdraining (Nat.one_le_of_lt hdin) hsize, if_neg (State.not_ringFull hroom),
    State.takeDin_short s size _ _ hdin]

theorem execSubmitDsd_short (hsize : size ≤ 225792) :
    execSubmitDsd size s = .next { s with held := some (.submitDsd size) } := by
  rw [execSubmitDsd_checked hfree hch hdraining (Nat.one_le_of_lt hdin) hsize, if_neg (State.not_ringFull hroom),
    State.takeDin_short s size _ _ hdin]

end short

/-- Settles O8: each of the four commands behind its checks. -/
theorem shortDinWaits : Obligations.ShortDinWaits := by
  unfold Obligations.ShortDinWaits
  exact fun s size hfree hdin => ⟨execBrLoad_short hfree hdin, execSubmit_short hfree hdin, execSubmitDsd_short hfree hdin,
    execPcConvert_short hfree hdin⟩

/-! ## The state right after reset (70_reset_and_hazards.md R701) -/

theorem State.reset_slot (k : Nat) : State.reset.slot k = Slot.reset := slotAt_nil k

/-- The ring is empty, and every slot is free. -/
theorem State.reset_ringInv : State.reset.RingInv where
  count_le := Nat.zero_le _
  tail_lt := Config.nSlots_pos
  seq := rfl
  head_eq := (Nat.zero_mod _).symm
  jobs j hj := absurd hj (Nat.not_lt_zero j)
  others k _ := by rw [State.reset_slot]; rfl

theorem State.reset_cursorInv : State.reset.cursorInv := fun k => by
  rw [State.reset_slot]
  exact Slot.reset_inBounds

/-- Every arithmetic decoder starts afresh. -/
theorem State.reset_intervalInv : State.reset.intervalInv := fun k => by
  rw [State.reset_slot]
  exact .inl rfl

theorem Fx.reset_sectorInv : Fx.reset.SectorInv where
  packets := ⟨Nat.zero_le 7, Nat.le_refl 0⟩
  assembled := nofun
  position := Nat.le_refl 0

theorem State.reset_regInv : State.reset.RegInv where
  slotSel := Config.nSlots_pos
  ditherDepth := by decide
  dstFb := by decide
  dstCh := by decide
  ch := by decide
  pcCh := by decide
  fx := Fx.reset_inv

/-- Settles O60: the registers one by one, the state by its definition, and the invariants. -/
theorem resetMeetsTheInvariants : Obligations.ResetMeetsTheInvariants := by
  unfold Obligations.ResetMeetsTheInvariants
  refine ⟨fun r hr => execRdreg_some ?_, rfl, rfl, rfl, fun j => ?_, rfl, rfl, rfl, rfl, rfl, State.reset_ringInv,
    State.reset_cursorInv, Fx.reset_sectorInv, State.reset_regInv, Pc.Inv.reset, State.reset_intervalInv, rfl⟩
  · fin_cases hr <;> rfl
  · rw [State.reset_slot]
    rfl

end Sys2Proof.Machine
end

section
/-! PROOFS (O10, O11). How an instruction ends (60_exceptions.md R600, R601, R613): `State.Ends` says once, for every
instruction, that it completes, is refused before anything has changed, fails on the way, gives no response, or has no
next state. The two statements are read off it. -/

-- One thread: the check limits the memory of a compile, and each thread reserves its own.
set_option Elab.async false

namespace Sys2Proof.Machine

/-! ## The ways to end -/

/-- How an instruction can end. Only `SEEK` is refused after it has read the medium (46_fx_files.md R457); an exception
met on the way is none of `E_OPERAND`, `E_STATE` and `E_ORDER`, whose codes are at most 4. -/
inductive State.Ends (s : State) (i : Instr) : Out → Prop where
  | completes (t : State) (v : Value) : t.rsp = s.rsp → Ends s i (t.ok v)
  | refused (e : Exc) (v : Value) : Ends s i (s.fail e v)
  | seekRefused (frame : Nat) (left : List MediumAnswer) (e : Exc) (v : Value) : i = .seek frame →
      Ends s i (({ s with answers := left } : State).fail e v)
  | fails (t : State) (e : Exc) (v : Value) : t.rsp = s.rsp → 4 < e.code → Ends s i (t.fail e v)
  | silent (t : State) : t.rsp = s.rsp → Ends s i (.next t)
  | stops (f : Fault) : Ends s i (.fault f)

/-! ## What the response tells -/

section response
variable {s t : State} {r : Response} {v : Value}

/-- The response is the record that was appended. -/
theorem State.response_eq {r' : Response} (hrsp : t.rsp = s.rsp) (h : t.rsp ++ [r'] = s.rsp ++ [r]) : r = r' := by
  rw [hrsp] at h
  exact (List.singleton_inj.mp (List.append_cancel_left h)).symm

/-- Where nothing was appended there is no response. -/
theorem State.no_response (hrsp : t.rsp = s.rsp) : t.rsp ≠ s.rsp ++ [r] := by
  rw [hrsp]
  exact fun h => List.cons_ne_nil r [] (List.self_eq_append_right.mp h)

theorem Exc.status_toNat (e : Exc) : (BitVec.ofNat 8 e.code).toNat = e.code := by
  rw [BitVec.toNat_ofNat, Nat.mod_eq_of_lt e.code_lt]

/-- Taking an exception records it (60_exceptions.md R601). -/
theorem State.raise_recorded {e : Exc} (hrsp : t.rsp = s.rsp) (h : (t.raise e v).rsp = s.rsp ++ [r]) :
    (t.raise e v).lastError = BitVec.ofNat 32 (r.status.toNat + r.value.toNat % 2 ^ 24 * 2 ^ 8) := by
  rw [State.response_eq hrsp h, Exc.status_toNat]
  rfl

end response

section ends
variable {s t : State} {i : Instr} {r : Response}

/-- A response of `E_OPERAND`, `E_STATE` or `E_ORDER` is a refusal, which changes nothing else. -/
theorem State.Ends.refusal (h : s.Ends i (.next t)) (hrsp : t.rsp = s.rsp ++ [r])
    (hstatus : r.status = 2 ∨ r.status = 3 ∨ r.status = 4) :
    t = { s with lastError := t.lastError, rsp := t.rsp, answers := t.answers } ∧
    ((∀ f, i ≠ .seek f) → t.answers = s.answers) := by
  generalize ho : (Host.Outcome.next t : Out) = o at h
  cases h with
  | completes u v hkept =>
    cases ho
    rw [State.response_eq hkept hrsp] at hstatus
    exact absurd hstatus (show ¬ ((0 : BitVec 8) = 2 ∨ (0 : BitVec 8) = 3 ∨ (0 : BitVec 8) = 4) by decide)
  | refused e v => cases ho; exact ⟨rfl, fun _ => rfl⟩
  | seekRefused frame left e v hseek => cases ho; exact ⟨rfl, fun hother => absurd hseek (hother frame)⟩
  | fails u e v hkept hcode =>
    cases ho
    rw [State.response_eq hkept hrsp] at hstatus
    have hlow : e.code = 2 ∨ e.code = 3 ∨ e.code = 4 := by
      rw [← e.status_toNat]
      exact hstatus.imp (congrArg BitVec.toNat) (Or.imp (congrArg BitVec.toNat) (congrArg BitVec.toNat))
    omega
  | silent u hkept => cases ho; exact absurd hrsp (State.no_response hkept)
  | stops f => cases ho

/-- A response that is not OK stands in LAST_ERROR too. -/
theorem State.Ends.recorded (h : s.Ends i (.next t)) (hrsp : t.rsp = s.rsp ++ [r]) (hstatus : r.status ≠ 0) :
    t.lastError = BitVec.ofNat 32 (r.status.toNat + r.value.toNat % 2 ^ 24 * 2 ^ 8) := by
  generalize ho : (Host.Outcome.next t : Out) = o at h
  cases h with
  | completes u v hkept =>
    cases ho
    rw [State.response_eq hkept hrsp] at hstatus
    exact absurd rfl hstatus
  | refused e v => cases ho; exact State.raise_recorded rfl hrsp
  | seekRefused frame left e v => cases ho; exact State.raise_recorded rfl hrsp
  | fails u e v hkept => cases ho; exact State.raise_recorded hkept hrsp
  | silent u hkept => cases ho; exact absurd hrsp (State.no_response hkept)
  | stops f => cases ho

end ends

/-! ## The gates in front of a command -/

section gates
variable {s t : State} {i : Instr}

/-- A check that refuses the command, as `unlessOwned`, `withConverter`, `withTrack`, `withContainer` and every operand
check do. -/
theorem State.ends_check {c : Prop} [Decidable c] {e : Exc} {v : Value} {k : Out} (hk : s.Ends i k) :
    s.Ends i (if c then s.fail e v else k) := by
  split
  · exact .refused e v
  · exact hk

/-- The gates in front of a command on the selected slot (40_bitreader.md R200 (a), 48_session.md R542). -/
theorem State.ends_slotCommand {k : Slot → Out} (hk : ∀ sl, s.Ends i (k sl)) :
    s.Ends i (s.unlessOwned (s.withFreeSlot k)) := by
  refine State.ends_check ?_
  unfold State.withFreeSlot
  split
  · exact hk _
  · exact .refused _ _

/-- The gates in front of a converter command (48_session.md R542, 60_exceptions.md R602). -/
theorem State.ends_converterCommand {k : Pc → Out} (hk : s.Ends i (k s.pc)) :
    s.Ends i (s.unlessOwned (s.withConverter k)) := State.ends_check (State.ends_check hk)

/-- A command that answers a value of the open container (46_fx_files.md R458 to R461). -/
theorem State.ends_containerValue {v : Value} : s.Ends i (s.withContainer (s.ok v)) :=
  State.ends_check (.completes s v rfl)

/-- A command that takes bytes from DIN waits for them, then goes on without them (70_reset_and_hazards.md R710 (k)). -/
theorem State.ends_takeDin {n : Nat} {j : Instr} {k : List Byte → State → Out}
    (hk : ∀ (bytes : List Byte) (t : State), t.rsp = s.rsp → s.Ends i (k bytes t)) : s.Ends i (s.takeDin n j k) := by
  unfold State.takeDin
  split
  · exact .silent _ rfl
  · exact hk _ _ rfl

/-- A full ring holds the submission for good, else its bytes are taken (44_dst_pool.md R342, R346, R347). -/
theorem State.ends_load {n : Nat} {j : Instr} {k : List Byte → State → Out}
    (hk : ∀ (bytes : List Byte) (t : State), t.rsp = s.rsp → s.Ends i (k bytes t)) :
    s.Ends i (if s.ringFull = true then .next (s.jam j) else s.takeDin n j k) := by
  split
  · exact .silent _ rfl
  · exact State.ends_takeDin hk

/-- A read that fails does so with `OutOfData` (40_bitreader.md R200 (c)). -/
theorem State.ends_answerRead (r : Option Value × BitReader) : s.Ends i (s.answerRead r) := by
  unfold State.answerRead
  split
  · exact .completes _ _ rfl
  · exact .fails _ _ _ rfl (by decide)

/-- A body ends with OK, or with an exception that is no refusal. -/
theorem State.ends_finish {r : Reply} (hrsp : t.rsp = s.rsp) (hexc : r.exc ≠ .ok → 4 < r.exc.code) :
    s.Ends i (t.finish r) := by
  unfold State.finish
  split
  · exact .completes _ _ hrsp
  · next hfailed => exact .fails _ _ _ hrsp (hexc hfailed)

end gates

/-! ## The units -/

section units
variable (s : State)

theorem execBrLoad_ends (size : Nat) : s.Ends (.brLoad size) (execBrLoad size s) :=
  State.ends_slotCommand fun _ => State.ends_check <| State.ends_takeDin fun _ _ h => .completes _ _ h

theorem execAcDecode_ends (p flush : Nat) : s.Ends (.acDecode p flush) (execAcDecode p flush s) := by
  refine State.ends_slotCommand fun sl => ?_
  split
  · exact .refused _ _
  · exact .completes _ _ rfl
  · refine State.ends_check ?_
    dsimp only
    split
    · exact .stops _
    · exact .completes _ _ rfl

/-- A decode that fails answers `FrameDecodeError` (43_dst_residual.md R320). -/
theorem execDstDecode_ends : s.Ends .dstDecode (execDstDecode s) := by
  refine State.ends_slotCommand fun sl => State.ends_check ?_
  dsimp only
  split
  · exact .completes _ _ rfl
  · exact .fails _ _ _ rfl (by decide)

theorem execPoolInit_ends (ch : Nat) : s.Ends (.poolInit ch) (execPoolInit ch s) :=
  State.ends_check <| State.ends_check <| State.ends_check <| .completes _ _ rfl

theorem execSubmit_ends (size : Nat) : s.Ends (.submit size) (execSubmit size s) := by
  refine State.ends_check ?_
  split
  · exact State.ends_check (.completes _ _ rfl)
  · exact State.ends_check <| State.ends_check <| State.ends_load fun _ _ h => .completes _ _ h

theorem execSubmitDsd_ends (size : Nat) : s.Ends (.submitDsd size) (execSubmitDsd size s) :=
  State.ends_check <| State.ends_check <| State.ends_check <| State.ends_load fun _ _ h => .completes _ _ h

/-- The oldest job answers OK or `FrameDecodeError` (44_dst_pool.md R343). -/
theorem State.collectBody_exc (h : s.collectBody.1.exc ≠ .ok) : 4 < s.collectBody.1.exc.code := by
  revert h
  unfold State.collectBody
  dsimp only
  split
  · exact fun h => absurd rfl h
  · exact fun _ => show 4 < Exc.frameDecodeError.code by decide

theorem execCollect_ends (handle : Nat) : s.Ends (.collect handle) (execCollect handle s) :=
  State.ends_check <| State.ends_check <| State.ends_check <|
    State.ends_finish (congrArg Ports.rsp s.collectBody_ports) s.collectBody_exc

theorem execPcInit_ends (ch dsd pcm : Nat) : s.Ends (.pcInit ch dsd pcm) (execPcInit ch dsd pcm s) := by
  refine State.ends_check <| State.ends_check ?_
  split
  · exact .refused _ _
  · exact .refused _ _
  · exact .completes _ _ rfl

theorem execPcConvert_ends (size : Nat) : s.Ends (.pcConvert size) (execPcConvert size s) :=
  State.ends_converterCommand <| State.ends_check <| State.ends_takeDin fun _ _ h => .completes _ _ h

theorem execPcDegibbs_ends (side n : Nat) : s.Ends (.pcDegibbs side n) (execPcDegibbs side n s) := by
  refine State.ends_converterCommand ?_
  split
  · exact .refused _ _
  · exact State.ends_check (.completes _ _ rfl)

end units

/-! ## A seek that fails (46_fx_files.md R457, R488) -/

/-- `t` is `s` but for the cursor of the extractor and the answers used up. -/
def State.CursorOnly (s t : State) : Prop :=
  t = { s with fx := { s.fx with cursor := t.fx.cursor }, answers := t.answers }

theorem State.CursorOnly.refl (s : State) : s.CursorOnly s := Eq.refl s

theorem State.CursorOnly.trans {s t u : State} (h : s.CursorOnly t) (h' : t.CursorOnly u) : s.CursorOnly u := by
  unfold State.CursorOnly at h h' ⊢
  rw [h', h]

theorem State.moveCursor_cursorOnly (s : State) (p : Nat) : s.CursorOnly (s.moveCursor p) := Eq.refl (s.moveCursor p)

theorem State.mediumRead_cursorOnly (s : State) (off n : Nat) : s.CursorOnly (s.mediumRead off n).2 := by
  obtain ⟨-, m, h⟩ := s.mediumRead_spec off n
  rw [h]
  exact Eq.refl _

/-- With the cursor put back only answers have been used up. -/
theorem State.CursorOnly.restored {s t : State} (h : s.CursorOnly t) :
    t.moveCursor s.fx.cursor = { s with answers := t.answers } := by
  rw [h]
  rfl

/-- The walk over the chunks moves nothing but the cursor (46_fx_files.md R488). -/
theorem State.skipFrames_cursorOnly : ∀ (fuel n : Nat) (s : State), s.CursorOnly (State.skipFrames fuel n s).2
  | 0, _, s => .refl s
  | fuel + 1, n, s => by
    have hread := s.mediumRead_cursorOnly s.fx.cursor 12
    rw [State.skipFrames]
    dsimp only
    split
    · exact .refl s
    · split
      · exact .refl s
      · split
        · exact hread
        · split <;>
            exact (hread.trans (State.moveCursor_cursorOnly _ _)).trans (State.skipFrames_cursorOnly fuel _ _)

/-- A seek that is refused has at most read the medium: only the walk without an index reads before it fails, and it
puts the cursor back. -/
theorem State.seekKind_refused {s t : State} {frame : Nat} (h : s.seekKind frame = (false, t)) :
    t = { s with answers := t.answers } := by
  cases hkind : s.fx.kind with
  | none =>
    rw [State.seekKind, hkind] at h
    cases h
    rfl
  | sector =>
    by_cases hframe : frame = 0
    · subst hframe
      rw [State.seekKind_sector_zero hkind] at h
      cases h
    · rw [State.seekKind_sector_beyond hkind hframe] at h
      cases h
      rfl
  | dsf =>
    obtain hframe | hframe := Nat.lt_or_ge s.fx.frameTotal frame
    · rw [State.seekKind_dsf_beyond hkind hframe] at h
      cases h
      rfl
    · rw [State.seekKind_dsf hkind hframe] at h
      cases h
  | dsdiff =>
    obtain hframe | hframe := Nat.lt_or_ge s.fx.frameTotal frame
    · rw [State.seekKind_dff_beyond hkind hframe] at h
      cases h
      rfl
    cases hdst : s.fx.dst with
    | false =>
      rw [State.seekKind_dff_plain hkind hframe hdst] at h
      cases h
    | true =>
      by_cases hindex : s.fx.dff.dstiOff = 0
      · have hwalk := (s.moveCursor_cursorOnly s.fx.dataStart).trans
          (State.skipFrames_cursorOnly (s.fx.dataEnd - s.fx.dataStart + 1) frame _)
        rw [State.seekKind_dff_walk hkind hframe hdst hindex rfl] at h
        split at h
        · next hfound =>
          rw [h] at hfound
          cases hfound
        · cases h
          exact hwalk.restored
      · rw [State.seekKind_dff_indexed hkind hframe hdst hindex] at h
        cases h

/-! ## The extractor and the session -/

section session
variable (s : State)

/-- A parse that fails does so with `UnsupportedFormat` or `CorruptContainer` (48_session.md R540). -/
theorem execOpen_ends (kind : Nat) : s.Ends (.openMedium kind) (execOpen kind s) := by
  unfold execOpen
  split
  · exact .refused _ _
  · next k _ =>
    refine State.ends_check ?_
    have hparse : (endState (fxOpen k s.resetFx)).rsp = s.rsp := congrArg Ports.rsp (fxOpen_only k s.resetFx).ports
    split
    · next t ht =>
      rw [ht] at hparse
      exact .completes _ _ hparse
    · next e t ht =>
      rw [ht] at hparse
      have hcode : 4 < e.exc.code := by obtain h | h := fxOpen_raises k _ _ _ ht <;> rw [h] <;> decide
      exact .fails _ _ _ hparse hcode

/-- A track list that comes short is a bad read (46_fx_files.md R452). -/
theorem execSetTrack_ends (track area : Nat) : s.Ends (.setTrack track area) (execSetTrack track area s) := by
  refine State.ends_check <| State.ends_check ?_
  split
  · exact .refused _ _
  · next a _ =>
    refine State.ends_check ?_
    have hread := congrArg Ports.rsp (s.readTrackList_only track a).ports
    split
    · next hr =>
      rw [hr] at hread
      exact .fails _ _ _ hread (by decide)
    · next hr =>
      rw [hr] at hread
      exact .completes _ _ hread

/-- A track list that comes short is a bad read (48_session.md R545). -/
theorem execInitTrack_ends (track area pcm : Nat) :
    s.Ends (.initTrack track area pcm) (execInitTrack track area pcm s) := by
  refine State.ends_check ?_
  split
  · exact .refused _ _
  · exact .refused _ _
  · next a rate _ _ =>
    refine State.ends_check <| State.ends_check ?_
    have hread := congrArg Ports.rsp (s.readTrackList_only track a).ports
    split
    · next hr =>
      rw [hr] at hread
      exact .fails _ _ _ hread (by decide)
    · next hr =>
      rw [hr] at hread
      exact .completes _ _ hread

/-- `READ_FRAME` is never refused once a track is selected (46_fx_files.md R455). -/
theorem execReadFrame_ends : s.Ends .readFrame (execReadFrame s) := by
  refine State.ends_check <| State.ends_check ?_
  have hread := congrArg Ports.rsp s.readFrameBody_only.ports
  split <;> next hr =>
    rw [hr] at hread
    exact .completes _ _ hread

theorem execSeek_ends (frame : Nat) : s.Ends (.seek frame) (execSeek frame s) := by
  refine State.ends_check <| State.ends_check ?_
  have hseek := congrArg Ports.rsp (s.seekKind_only frame).ports
  split
  · next t hr =>
    rw [State.seekKind_refused hr]
    exact .seekRefused frame _ _ _ rfl
  · next hr =>
    rw [hr] at hseek
    exact .completes _ _ hseek

/-- In a session the reply is OK: errors of frames are absorbed (48_session.md R550, R553). -/
theorem State.decodeNextBody_exc : s.decodeNextBody.1.exc = .ok := by
  unfold State.decodeNextBody
  generalize State.fillRing (2 ^ 70) s = t
  dsimp only
  split
  · rfl
  · unfold State.flushTrack
    split <;> rfl

theorem execDecodeNext_ends : s.Ends .decodeNext (execDecodeNext s) :=
  State.ends_check <| State.ends_finish (congrArg Ports.rsp s.decodeNextBody_ports) (absurd s.decodeNextBody_exc)

theorem execRdreg_ends (idx : Nat) : s.Ends (.rdreg idx) (execRdreg idx s) := by
  unfold execRdreg
  split
  · exact .completes _ _ rfl
  · exact .refused _ _

theorem execWrreg_ends (idx imm16 : Nat) : s.Ends (.wrreg idx imm16) (execWrreg idx imm16 s) := by
  unfold execWrreg
  split
  · exact .refused _ _
  · exact State.ends_check <| State.ends_check <| State.ends_check <|
      .completes _ _ (congrArg Ports.rsp (s.writeReg_ports _ imm16))

end session

/-! ## Every instruction -/

/-- Every instruction ends in one of the ways of `State.Ends`. -/
theorem exec_ends (i : Instr) (s : State) : s.Ends i (exec i s) := by
  cases i with
  | nop | reset | close | pcIsConvertCalled => exact .completes _ _ rfl
  | openMedium kind => exact execOpen_ends s kind
  | initTrack track area pcm => exact execInitTrack_ends s track area pcm
  | decodeNext => exact execDecodeNext_ends s
  | rdreg idx => exact execRdreg_ends s idx
  | wrreg idx imm16 => exact execWrreg_ends s idx imm16
  | setTrack track area => exact execSetTrack_ends s track area
  | readFrame => exact execReadFrame_ends s
  | seek frame => exact execSeek_ends s frame
  | getChannels | getSamplerate | getFramerate | getProgress => exact State.ends_containerValue
  | poolInit ch => exact execPoolInit_ends s ch
  | submit size => exact execSubmit_ends s size
  | submitDsd size => exact execSubmitDsd_ends s size
  | collect handle => exact execCollect_ends s handle
  | dstDecode => exact execDstDecode_ends s
  | brLoad size => exact execBrLoad_ends s size
  | brReadBit | brReadByteAligned => exact State.ends_slotCommand fun _ => State.ends_answerRead _
  | brReadBits n | brReadSigned n | brRice n =>
    exact State.ends_slotCommand fun _ => State.ends_check (State.ends_answerRead _)
  | slotRead | acStart => exact State.ends_slotCommand fun _ => .completes _ _ rfl
  | acDecode p flush => exact execAcDecode_ends s p flush
  | acQuantize len pred => exact State.ends_check (.completes _ _ rfl)
  | pcInit ch dsd pcm => exact execPcInit_ends s ch dsd pcm
  | pcConvert size => exact execPcConvert_ends s size
  | pcGetDelay => exact State.ends_check (.completes _ _ rfl)
  | pcDegibbs side n => exact execPcDegibbs_ends s side n
  | pcPack skip count => exact State.ends_converterCommand <| State.ends_check (.completes _ _ rfl)
  | pcReadf => exact State.ends_converterCommand (.completes _ _ rfl)
  | dstfCoded x => exact .silent _ rfl
  | dstfPlain x => exact .silent _ rfl

/-- Settles O10. -/
theorem refusalsChangeNothing : Obligations.RefusalsChangeNothing := by
  unfold Obligations.RefusalsChangeNothing
  intro i s t r hexec hrsp hstatus
  exact State.Ends.refusal (hexec ▸ exec_ends i s) hrsp hstatus

/-- Settles O11. -/
theorem exceptionsAreRecorded : Obligations.ExceptionsAreRecorded := by
  unfold Obligations.ExceptionsAreRecorded
  intro i s t r hexec hrsp hstatus
  exact State.Ends.recorded (hexec ▸ exec_ends i s) hrsp hstatus

end Sys2Proof.Machine
end
